-- ==== Sys2Proof/Word.lean ====
section
/-! DEFINITION. The word types of the Daxgan 9: 64-bit words, bytes, the 64 lanes of a vector register. -/
namespace Sys2Proof

/-- A 64-bit word: a scalar register, an instruction word, a lane (R21, R41, R87). -/
abbrev Word := BitVec 64
/-- One byte of memory. -/
abbrev Byte := BitVec 8
/-- The 64 lanes of a vector register (R87). -/
abbrev Lanes := Vector Word 64
/-- One bit for each lane: a mask register, a set of poisoned lanes (R87, R130). -/
abbrev Mask := BitVec 64

end Sys2Proof
end

