-- ==== Sys2Proof/Syntax.lean ====
section
/-! DEFINITION. The instructions and events of the opcode table as abstract syntax: operand classes (R27 to R33),
engine units (R34, R329) and one constructor of `Instr` for every row of the table. -/
namespace Sys2Proof

/-- A destination of the control stream: a scalar register or a push into an address queue (R27). -/
inductive Dst where
  | reg (r : Fin 32)
  | aq (q : Fin 4)
  deriving DecidableEq, Repr

/-- A source of the control stream: a scalar register, or a pop or a peek of a load queue (R27, R28). -/
inductive Src where
  | reg (r : Fin 32)
  | pop (q : Fin 2)
  | peek (q : Fin 2)
  deriving DecidableEq, Repr

/-- Lane types, in the order of their codes (R29). -/
inductive Ty where
  | i8 | i16 | i32 | i64 | u8 | u16 | u32 | u64 | f16 | bf16 | f32 | f64 | e4m3 | e5m2
  deriving DecidableEq, Repr

/-- Scalar access sizes of a load, in the order of their codes (R30). -/
inductive LdSz where
  | b | h | w | d | bu | hu | wu
  deriving DecidableEq, Repr

/-- Scalar access sizes of stores and atomics (R30). -/
inductive Sz where
  | b | h | w | d
  deriving DecidableEq, Repr

/-- Ordering codes: 00 plain, 01 acquire on a load and release on a store, 10 strongly ordered (R32). -/
inductive Ord where
  | plain | sync | strong
  deriving DecidableEq, Repr

/-- Scopes, in the order of their codes (R240). -/
inductive Scope where
  | core | die | pkg | dom | sys
  deriving DecidableEq, Repr

/-- Addresses of a scalar `ld` or `st`, AM 0 to 5 (R31, R82). -/
inductive MemAddr where
  | plain (b : Fin 32) (off : BitVec 24)
  | loc (b : Fin 32) (off : BitVec 24)
  | postInc (b : Fin 32) (off : BitVec 24)
  | preInc (b : Fin 32) (off : BitVec 24)
  | handle (h : Fin 16) (off : BitVec 24)
  | group (b : Fin 32) (off : BitVec 24)
  deriving DecidableEq, Repr

/-- Addresses of an `ldq`, AM 0, 4, 5 and 6 (R85). -/
inductive QAddr where
  | plain (b : Fin 32) (off : BitVec 24)
  | handle (h : Fin 16) (off : BitVec 24)
  | group (b : Fin 32) (off : BitVec 24)
  | zue (b : Fin 32) (off : BitVec 24)
  deriving DecidableEq, Repr

/-- An AB or AS code: an address register, or a pop of an address queue (R26). -/
inductive Ab where
  | areg (a : Fin 12)
  | aq (q : Fin 4)
  deriving DecidableEq, Repr

/-- Local addresses of the vector stream, AM 1 to 3, with an offset of `n` bits (R31, R147). -/
inductive VAddr (n : Nat) where
  | loc (b : Ab) (off : BitVec n)
  | postInc (a : Fin 12) (off : BitVec n)
  | preInc (a : Fin 12) (off : BitVec n)
  deriving DecidableEq, Repr

/-- Addresses of a `vldq`, AM 0, 5 and 6 (R152). -/
inductive VqAddr where
  | plain (b : Ab) (off : BitVec 25)
  | group (b : Ab) (off : BitVec 25)
  | zue (b : Ab) (off : BitVec 25)
  deriving DecidableEq, Repr

/-- Addresses of a `vamo`, AM 0 and 1 (R154). -/
inductive VaAddr where
  | plain (b : Ab) (off : BitVec 20)
  | loc (b : Ab) (off : BitVec 20)
  deriving DecidableEq, Repr

/-- The two banks that can be lent: vb2 and vb3 (R101). -/
inductive LendBank where
  | vb2 | vb3
  deriving DecidableEq, Repr

/-- Plane and bank formats, in the order of their FORMAT codes (R182); a plane format is one of 1 to 11 (R329). -/
inductive Fmt where
  | raw | f64 | f32 | bf16 | f16 | e4m3 | e5m2 | mx8 | wb3 | wb5 | wb8 | i8 | i32
  deriving DecidableEq, Repr

/-- The four parameter words of an engine unit (R34). -/
structure Params where
  p0 : Word
  p1 : Word
  p2 : Word
  p3 : Word
  deriving DecidableEq, Repr

/-- What a mill command does: the fields of its X21 (R329). -/
inductive MillCmd where
  | lds (plane : Fin 2) (fmt : Fmt)
  | mm (plane : Fin 2)
  | mmr (plane : Fin 2) (ring : Fin 16) (j : Fin 64) (t : Fin 128)
  | relax (plane : Fin 2) (bm1 : Fin 64) (nm1 : Fin 128)
  | relaxb (plane : Fin 2)
  | pwl (table : Fin 4)
  | chain (plane : Fin 2) (lm1 : Fin 8)
  deriving DecidableEq, Repr

/-- A mill unit's own fields: queue mq0 or mq1, I, W and the parameters (R33, R34). -/
structure MillWord where
  q : Fin 2
  i : Bool
  w : Bool
  p : Params
  deriving DecidableEq, Repr

/-- A follow-on mill command (R34, R36). -/
structure FollowOn where
  word : MillWord
  cmd : MillCmd
  deriving DecidableEq, Repr

/-- A carter unit's own fields: queue cq0 to cq3, H, I, W, the parameters and the follow-on (R33, R34). -/
structure CarterWord where
  q : Fin 4
  h : Fin 16
  i : Bool
  w : Bool
  p : Params
  follow : Option FollowOn
  deriving DecidableEq, Repr

/-- A queue entry without a shape: any queue, I and W (R348 to R350). -/
structure QWord where
  q : Fin 6
  i : Bool
  w : Bool
  deriving DecidableEq, Repr

/-- The three register operands of an alu word (R24, R59). -/
structure Rrr where
  d : Dst
  a : Src
  b : Src
  deriving DecidableEq, Repr

/-- An immediate form (R64). -/
structure Rri where
  d : Dst
  a : Src
  imm : BitVec 33
  deriving DecidableEq, Repr

/-- A comparing branch (R72). -/
structure Bcc where
  a : Src
  b : Src
  disp : BitVec 29
  deriving DecidableEq, Repr

/-- An `amo` word (R258, R262). -/
structure Amo where
  q : Fin 2
  a : Src
  b : Src
  sz : Sz
  ord : Ord
  deriving DecidableEq, Repr

/-- A `red` word (R258, R263). -/
structure Red where
  a : Src
  b : Src
  sz : Sz
  ord : Ord
  deriving DecidableEq, Repr

/-- A vector word of two register sources (R131, R135). -/
structure Vvv where
  ty : Ty
  d : Fin 32
  a : Fin 32
  b : Fin 32
  k : Fin 8
  deriving DecidableEq, Repr

/-- A vector word of one register source (R131, R142, R143). -/
structure Vv where
  ty : Ty
  d : Fin 32
  a : Fin 32
  k : Fin 8
  deriving DecidableEq, Repr

/-- A vector word of three register sources (R134, R139, R140). -/
structure Vvvv where
  ty : Ty
  d : Fin 32
  a : Fin 32
  b : Fin 32
  c : Fin 32
  k : Fin 8
  deriving DecidableEq, Repr

/-- A vector shift by an immediate amount (R135). -/
structure Vvi where
  ty : Ty
  d : Fin 32
  a : Fin 32
  n : BitVec 8
  k : Fin 8
  deriving DecidableEq, Repr

/-- A vector comparison into a mask (R136). -/
structure Vcmp where
  ty : Ty
  d : Fin 8
  a : Fin 32
  b : Fin 32
  k : Fin 8
  deriving DecidableEq, Repr

/-- A `vamo` word (R154). -/
structure Vamo where
  ty : Ty
  q : Fin 2
  s : Fin 32
  addr : VaAddr
  k : Fin 8
  deriving DecidableEq, Repr

/-- A `vredm` word (R155). -/
structure Vredm where
  ty : Ty
  s : Fin 32
  addr : VAddr 21
  k : Fin 8
  deriving DecidableEq, Repr

/-- One hamlet's sensor as sampled: the logic and the DRAM temperature in tenths of a degree, and the hamlet's estimated power
(R415, R416). -/
structure SensorReading where
  tl : Int
  td : Int
  power : Nat
  deriving DecidableEq, Repr

/-- Every row of the opcode table: the instruction words of both streams and the events of the machine, each event with
what it concerns: a core `c`, a package `p`, a function `f`, an access in flight `k`, or what the host wrote (file 95).
The words stand before the events, each in the table's order. -/
inductive Instr where
  /-- NOP (R62). -/
  | nop
  /-- ADD (R63). -/
  | add (o : Rrr)
  /-- SUB (R63). -/
  | sub (o : Rrr)
  /-- AND (R63). -/
  | and (o : Rrr)
  /-- OR (R63). -/
  | or (o : Rrr)
  /-- XOR (R63). -/
  | xor (o : Rrr)
  /-- ANDN (R63). -/
  | andn (o : Rrr)
  /-- SHL (R63). -/
  | shl (o : Rrr)
  /-- SHR (R63). -/
  | shr (o : Rrr)
  /-- SRA (R63). -/
  | sra (o : Rrr)
  /-- ROT (R63). -/
  | rot (o : Rrr)
  /-- MIN (R63). -/
  | min (o : Rrr)
  /-- MAX (R63). -/
  | max (o : Rrr)
  /-- MINU (R63). -/
  | minu (o : Rrr)
  /-- MAXU (R63). -/
  | maxu (o : Rrr)
  /-- SLT (R63). -/
  | slt (o : Rrr)
  /-- SLTU (R63). -/
  | sltu (o : Rrr)
  /-- SEQ (R63). -/
  | seq (o : Rrr)
  /-- SEL (R63). -/
  | sel (o : Rrr) (c : Fin 32)
  /-- ADD_IMMEDIATE (R64). -/
  | addImmediate (o : Rri)
  /-- AND_IMMEDIATE (R64). -/
  | andImmediate (o : Rri)
  /-- OR_IMMEDIATE (R64). -/
  | orImmediate (o : Rri)
  /-- XOR_IMMEDIATE (R64). -/
  | xorImmediate (o : Rri)
  /-- SHL_IMMEDIATE (R64). -/
  | shlImmediate (o : Rri)
  /-- SHR_IMMEDIATE (R64). -/
  | shrImmediate (o : Rri)
  /-- SRA_IMMEDIATE (R64). -/
  | sraImmediate (o : Rri)
  /-- SLT_IMMEDIATE (R64). -/
  | sltImmediate (o : Rri)
  /-- SLTU_IMMEDIATE (R64). -/
  | sltuImmediate (o : Rri)
  /-- MUL (R65). -/
  | mul (o : Rrr)
  /-- MULH (R65). -/
  | mulh (o : Rrr)
  /-- MULHU (R65). -/
  | mulhu (o : Rrr)
  /-- DIV (R66). -/
  | div (o : Rrr)
  /-- DIVU (R66). -/
  | divu (o : Rrr)
  /-- REM (R66). -/
  | rem (o : Rrr)
  /-- REMU (R66). -/
  | remu (o : Rrr)
  /-- CLZ (R67). -/
  | clz (d : Dst) (a : Src)
  /-- CTZ (R67). -/
  | ctz (d : Dst) (a : Src)
  /-- POPC (R67). -/
  | popc (d : Dst) (a : Src)
  /-- BSWAP (R67). -/
  | bswap (d : Dst) (a : Src)
  /-- SEXT (R67). -/
  | sext (d : Dst) (a : Src) (n : Fin 64)
  /-- ZEXT (R67). -/
  | zext (d : Dst) (a : Src) (n : Fin 64)
  /-- BFX (R68). -/
  | bfx (d : Dst) (a : Src) (lo : Fin 64) (wm1 : Fin 64)
  /-- BFI (R68). -/
  | bfi (d : Fin 32) (a : Src) (lo : Fin 64) (wm1 : Fin 64)
  /-- LI (R69). -/
  | li (d : Dst) (imm : BitVec 39)
  /-- LIH (R69). -/
  | lih (d : Fin 32) (imm : BitVec 25)
  /-- LEA (R70). -/
  | lea (o : Rrr) (sh : Fin 8) (disp : BitVec 15)
  /-- GADDR (R71). -/
  | gaddr (o : Rrr)
  /-- B_EQ (R72). -/
  | bEq (o : Bcc)
  /-- B_NE (R72). -/
  | bNe (o : Bcc)
  /-- B_LT (R72). -/
  | bLt (o : Bcc)
  /-- B_GE (R72). -/
  | bGe (o : Bcc)
  /-- B_LTU (R72). -/
  | bLtu (o : Bcc)
  /-- B_GEU (R72). -/
  | bGeu (o : Bcc)
  /-- B_AL (R72). -/
  | bAl (disp : BitVec 29)
  /-- B_FANY (R72). -/
  | bFany (disp : BitVec 29)
  /-- B_FALL (R72). -/
  | bFall (disp : BitVec 29)
  /-- B_FNONE (R72). -/
  | bFnone (disp : BitVec 29)
  /-- CALL (R73). -/
  | call (disp : BitVec 29)
  /-- JR (R73). -/
  | jr (d : Fin 32) (a : Src)
  /-- VGO (R74). -/
  | vgo (disp : BitVec 29)
  /-- VJOIN (R74). -/
  | vjoin
  /-- HALT (R75). -/
  | halt
  /-- TRAP (R76). -/
  | trap (imm : BitVec 33)
  /-- SYS (R76). -/
  | sys (imm : BitVec 33)
  /-- CSRR (R77). -/
  | csrr (d : Fin 32) (n : BitVec 12)
  /-- CSRW (R77). -/
  | csrw (n : BitVec 12) (a : Src)
  /-- CSRS (R77). -/
  | csrs (d : Fin 32) (n : BitVec 12) (a : Src)
  /-- CSRC (R77). -/
  | csrc (d : Fin 32) (n : BitVec 12) (a : Src)
  /-- URET (R368). -/
  | uret
  /-- KRET (R368). -/
  | kret
  /-- UIE (R79). -/
  | uie (d : Fin 32)
  /-- UID (R79). -/
  | uid (d : Fin 32)
  /-- FGET (R80). -/
  | fget (d : Dst)
  /-- TLBI_PAGE (R81). -/
  | tlbiPage (a : Fin 32) (b : Fin 32)
  /-- TLBI_CONTEXT (R81). -/
  | tlbiContext (a : Fin 32)
  /-- TLBI_ALL (R81). -/
  | tlbiAll
  /-- LD (R82). -/
  | ld (d : Fin 32) (addr : MemAddr) (sz : LdSz) (ord : Ord)
  /-- ST (R82). -/
  | st (d : Fin 32) (addr : MemAddr) (sz : Sz) (ord : Ord)
  /-- LDQ (R85). -/
  | ldq (q : Fin 2) (addr : QAddr) (sz : LdSz) (ord : Ord)
  /-- AMO_SWAP (R262). -/
  | amoSwap (o : Amo)
  /-- AMO_ADD (R262). -/
  | amoAdd (o : Amo)
  /-- AMO_AND (R262). -/
  | amoAnd (o : Amo)
  /-- AMO_OR (R262). -/
  | amoOr (o : Amo)
  /-- AMO_XOR (R262). -/
  | amoXor (o : Amo)
  /-- AMO_MIN (R262). -/
  | amoMin (o : Amo)
  /-- AMO_MAX (R262). -/
  | amoMax (o : Amo)
  /-- AMO_MINU (R262). -/
  | amoMinu (o : Amo)
  /-- AMO_MAXU (R262). -/
  | amoMaxu (o : Amo)
  /-- AMO_FADD (R262). -/
  | amoFadd (o : Amo)
  /-- AMO_FMIN (R262). -/
  | amoFmin (o : Amo)
  /-- AMO_FMAX (R262). -/
  | amoFmax (o : Amo)
  /-- AMO_BFADD (R262). -/
  | amoBfadd (o : Amo)
  /-- AMO_BFMIN (R262). -/
  | amoBfmin (o : Amo)
  /-- AMO_BFMAX (R262). -/
  | amoBfmax (o : Amo)
  /-- RED_ADD (R263). -/
  | redAdd (o : Red)
  /-- RED_AND (R263). -/
  | redAnd (o : Red)
  /-- RED_OR (R263). -/
  | redOr (o : Red)
  /-- RED_XOR (R263). -/
  | redXor (o : Red)
  /-- RED_MIN (R263). -/
  | redMin (o : Red)
  /-- RED_MAX (R263). -/
  | redMax (o : Red)
  /-- RED_MINU (R263). -/
  | redMinu (o : Red)
  /-- RED_MAXU (R263). -/
  | redMaxu (o : Red)
  /-- RED_FADD (R263). -/
  | redFadd (o : Red)
  /-- RED_FMIN (R263). -/
  | redFmin (o : Red)
  /-- RED_FMAX (R263). -/
  | redFmax (o : Red)
  /-- RED_BFADD (R263). -/
  | redBfadd (o : Red)
  /-- RED_BFMIN (R263). -/
  | redBfmin (o : Red)
  /-- RED_BFMAX (R263). -/
  | redBfmax (o : Red)
  /-- CAS (R264). -/
  | cas (o : Amo) (c : Fin 32)
  /-- FENCE_ACQ (R250). -/
  | fenceAcq (s : Scope)
  /-- FENCE_REL (R250). -/
  | fenceRel (s : Scope)
  /-- FENCE_FULL (R250). -/
  | fenceFull (s : Scope)
  /-- WAIT (R266). -/
  | wait (q : Fin 6) (a : Src)
  /-- TNEW (R267). -/
  | tnew (hf : Fin 16) (hs : Option (Fin 16)) (a : Src) (b : Src)
  /-- HDUP (R268). -/
  | hdup (hd : Fin 16) (ha : Fin 16)
  /-- HDROP (R269). -/
  | hdrop (h : Fin 16)
  /-- HSEND (R270). -/
  | hsend (h : Fin 16) (b : Src) (m : Fin 4) (notify : Bool)
  /-- HRECV (R271). -/
  | hrecv (h : Fin 16) (m : Fin 4)
  /-- HINFO (R272). -/
  | hinfo (d : Fin 32) (h : Fin 16)
  /-- TRING (R273). -/
  | tring (a : Src) (b : Src) (sm1 : Fin 64) (c : Fin 64) (r : Fin 16)
  /-- TCLAIM (R275). -/
  | tclaim (h : Fin 16) (a : Src) (r : Fin 16) (sd : Fin 32)
  /-- TNEXT (R276). -/
  | tnext (h : Fin 16) (a : Src) (r : Fin 16) (j : Fin 64) (sd : Fin 32)
  /-- TCLOSE (R277). -/
  | tclose (a : Src) (r : Fin 16)
  /-- GDEF (R278). -/
  | gdef (a : Src) (b : Src)
  /-- GDEL (R279). -/
  | gdel (a : Src)
  /-- GSEE (R280). -/
  | gsee (h : Fin 16) (a : Src) (b : Src) (r : Fin 16) (j : Fin 64) (sd : Fin 32)
  /-- SPAWN (R281). -/
  | spawn (a : Src) (b : Fin 32)
  /-- JOIN (R282). -/
  | join (d : Fin 32) (a : Src)
  /-- ENQ (R283). -/
  | enq (a : Src) (b : Src) (q : Fin 6)
  /-- BT_ALLOC (R285). -/
  | btAlloc (d : Fin 32) (a : Src)
  /-- BT_FREE (R285). -/
  | btFree (d : Fin 32) (a : Src)
  /-- BT_SHARE (R285). -/
  | btShare (d : Fin 32) (a : Src) (b : Src)
  /-- BT_XL (R285). -/
  | btXl (d : Fin 32) (a : Src)
  /-- C_COPY (R336). -/
  | cCopy (e : CarterWord)
  /-- C_GATH (R337). -/
  | cGath (e : CarterWord)
  /-- C_GATH_Z (R337). -/
  | cGathZ (e : CarterWord)
  /-- C_SCAT (R337). -/
  | cScat (e : CarterWord)
  /-- C_FILL (R338). -/
  | cFill (e : CarterWord) (b63 : Bool)
  /-- C_PUT (R340). -/
  | cPut (e : CarterWord)
  /-- C_GET (R340). -/
  | cGet (e : CarterWord)
  /-- C_RED_ADD (R339). -/
  | cRedAdd (e : CarterWord) (sz : Sz)
  /-- C_RED_AND (R339). -/
  | cRedAnd (e : CarterWord) (sz : Sz)
  /-- C_RED_OR (R339). -/
  | cRedOr (e : CarterWord) (sz : Sz)
  /-- C_RED_XOR (R339). -/
  | cRedXor (e : CarterWord) (sz : Sz)
  /-- C_RED_MIN (R339). -/
  | cRedMin (e : CarterWord) (sz : Sz)
  /-- C_RED_MAX (R339). -/
  | cRedMax (e : CarterWord) (sz : Sz)
  /-- C_RED_MINU (R339). -/
  | cRedMinu (e : CarterWord) (sz : Sz)
  /-- C_RED_MAXU (R339). -/
  | cRedMaxu (e : CarterWord) (sz : Sz)
  /-- C_RED_FADD (R339). -/
  | cRedFadd (e : CarterWord) (sz : Sz)
  /-- C_RED_FMIN (R339). -/
  | cRedFmin (e : CarterWord) (sz : Sz)
  /-- C_RED_FMAX (R339). -/
  | cRedFmax (e : CarterWord) (sz : Sz)
  /-- C_RED_BFADD (R339). -/
  | cRedBfadd (e : CarterWord) (sz : Sz)
  /-- C_RED_BFMIN (R339). -/
  | cRedBfmin (e : CarterWord) (sz : Sz)
  /-- C_RED_BFMAX (R339). -/
  | cRedBfmax (e : CarterWord) (sz : Sz)
  /-- C_PIN (R341). -/
  | cPin (e : CarterWord)
  /-- C_PIN_OFF (R341). -/
  | cPinOff (e : CarterWord)
  /-- M_LDS (R342). -/
  | mLds (e : MillWord) (plane : Fin 2) (fmt : Fmt)
  /-- M_MM (R344). -/
  | mMm (e : MillWord) (plane : Fin 2)
  /-- M_MMR (R346). -/
  | mMmr (e : MillWord) (plane : Fin 2) (ring : Fin 16) (j : Fin 64) (t : Fin 128)
  /-- M_RELAX (R321). -/
  | mRelax (e : MillWord) (plane : Fin 2) (bm1 : Fin 64) (nm1 : Fin 128)
  /-- M_RELAXB (R325). -/
  | mRelaxb (e : MillWord) (plane : Fin 2)
  /-- M_PWL (R343). -/
  | mPwl (e : MillWord) (table : Fin 4)
  /-- M_CHAIN (R345). -/
  | mChain (e : MillWord) (plane : Fin 2) (lm1 : Fin 8)
  /-- Q_WAIT (R348). -/
  | qWait (e : QWord) (m : Fin 6) (p : Params)
  /-- Q_FENCE (R349). -/
  | qFence (e : QWord) (mask : BitVec 6)
  /-- Q_SIG (R350). -/
  | qSig (e : QWord)
  /-- Q_RESUME (R351). -/
  | qResume (q : Fin 6) (remote : Option Src)
  /-- VADD (R131). -/
  | vadd (o : Vvv)
  /-- VSUB (R131). -/
  | vsub (o : Vvv)
  /-- VMUL (R131). -/
  | vmul (o : Vvv)
  /-- VMIN (R131). -/
  | vmin (o : Vvv)
  /-- VMAX (R131). -/
  | vmax (o : Vvv)
  /-- VABS (R131). -/
  | vabs (o : Vv)
  /-- VNEG (R131). -/
  | vneg (o : Vv)
  /-- VDIV (R131). -/
  | vdiv (o : Vvv)
  /-- VSQRT (R131). -/
  | vsqrt (o : Vv)
  /-- VCSGN (R131). -/
  | vcsgn (o : Vvv)
  /-- VFMA (R134). -/
  | vfma (o : Vvvv)
  /-- VFMS (R134). -/
  | vfms (o : Vvvv)
  /-- VFNMA (R134). -/
  | vfnma (o : Vvvv)
  /-- VFNMS (R134). -/
  | vfnms (o : Vvvv)
  /-- VAND (R135). -/
  | vand (o : Vvv)
  /-- VOR (R135). -/
  | vor (o : Vvv)
  /-- VXOR (R135). -/
  | vxor (o : Vvv)
  /-- VANDN (R135). -/
  | vandn (o : Vvv)
  /-- VSHL (R135). -/
  | vshl (o : Vvv)
  /-- VSHR (R135). -/
  | vshr (o : Vvv)
  /-- VSRA (R135). -/
  | vsra (o : Vvv)
  /-- VROL (R135). -/
  | vrol (o : Vvv)
  /-- VSHL_IMMEDIATE (R135). -/
  | vshlImmediate (o : Vvi)
  /-- VSHR_IMMEDIATE (R135). -/
  | vshrImmediate (o : Vvi)
  /-- VSRA_IMMEDIATE (R135). -/
  | vsraImmediate (o : Vvi)
  /-- VROL_IMMEDIATE (R135). -/
  | vrolImmediate (o : Vvi)
  /-- VCMP_EQ (R136). -/
  | vcmpEq (o : Vcmp)
  /-- VCMP_NE (R136). -/
  | vcmpNe (o : Vcmp)
  /-- VCMP_LT (R136). -/
  | vcmpLt (o : Vcmp)
  /-- VCMP_LE (R136). -/
  | vcmpLe (o : Vcmp)
  /-- VCMP_GT (R136). -/
  | vcmpGt (o : Vcmp)
  /-- VCMP_GE (R136). -/
  | vcmpGe (o : Vcmp)
  /-- VCMP_UN (R136). -/
  | vcmpUn (o : Vcmp)
  /-- VCMP_ORD (R136). -/
  | vcmpOrd (o : Vcmp)
  /-- VCLASS (R137). -/
  | vclass (o : Vv)
  /-- VCVT (R138). -/
  | vcvt (o : Vv) (from_ : Ty) (sat : Bool)
  /-- VSEL (R139). -/
  | vsel (d : Fin 32) (a : Fin 32) (b : Fin 32) (c : Fin 8) (k : Fin 8)
  /-- VCLAMP (R139). -/
  | vclamp (o : Vvvv)
  /-- VPWL (R140). -/
  | vpwl (o : Vvvv)
  /-- VPERM (R141). -/
  | vperm (d : Fin 32) (a : Fin 32) (b : Fin 32) (k : Fin 8)
  /-- VROT (R141). -/
  | vrot (d : Fin 32) (a : Fin 32) (n : Fin 64) (k : Fin 8)
  /-- VBCAST (R141). -/
  | vbcast (d : Fin 32) (a : Fin 32) (n : Fin 64) (k : Fin 8)
  /-- VBCAST_SCALAR (R141). -/
  | vbcastScalar (d : Fin 32) (a : Ab) (k : Fin 8)
  /-- VIOTA (R141). -/
  | viota (ty : Ty) (d : Fin 32) (k : Fin 8)
  /-- VMOV (R141). -/
  | vmov (d : Fin 32) (a : Fin 32) (k : Fin 8)
  /-- VFOLD_ADD (R142). -/
  | vfoldAdd (o : Vv)
  /-- VFOLD_MIN (R142). -/
  | vfoldMin (o : Vv)
  /-- VFOLD_MAX (R142). -/
  | vfoldMax (o : Vv)
  /-- VFOLD_AND (R142). -/
  | vfoldAnd (o : Vv)
  /-- VFOLD_OR (R142). -/
  | vfoldOr (o : Vv)
  /-- VFOLD_XOR (R142). -/
  | vfoldXor (o : Vv)
  /-- VSCAN_ADD (R143). -/
  | vscanAdd (o : Vv)
  /-- VSCAN_MIN (R143). -/
  | vscanMin (o : Vv)
  /-- VSCAN_MAX (R143). -/
  | vscanMax (o : Vv)
  /-- VSCAN_AND (R143). -/
  | vscanAnd (o : Vv)
  /-- VSCAN_OR (R143). -/
  | vscanOr (o : Vv)
  /-- VSCAN_XOR (R143). -/
  | vscanXor (o : Vv)
  /-- VPART (R144). -/
  | vpart (d : Fin 32) (c : Fin 8) (n : Fin 12)
  /-- KAND (R145). -/
  | kand (d : Fin 8) (a : Fin 8) (b : Fin 8)
  /-- KOR (R145). -/
  | kor (d : Fin 8) (a : Fin 8) (b : Fin 8)
  /-- KXOR (R145). -/
  | kxor (d : Fin 8) (a : Fin 8) (b : Fin 8)
  /-- KNOT (R145). -/
  | knot (d : Fin 8) (a : Fin 8)
  /-- KMOV (R145). -/
  | kmov (d : Fin 8) (a : Fin 8)
  /-- KSET (R145). -/
  | kset (d : Fin 8) (n : Fin 65)
  /-- KSET_REGISTER (R145). -/
  | ksetRegister (d : Fin 8) (a : Ab)
  /-- VFLAG (R146). -/
  | vflag (a : Fin 8) (k : Fin 8)
  /-- VLD (R149). -/
  | vld (ty : Ty) (d : Fin 32) (addr : VAddr 25) (k : Fin 8)
  /-- VST (R150). -/
  | vst (ty : Ty) (d : Fin 32) (addr : VAddr 25) (k : Fin 8)
  /-- VLDX (R149). -/
  | vldx (ty : Ty) (d : Fin 32) (addr : VAddr 20) (x : Fin 32) (k : Fin 8)
  /-- VSTX (R150). -/
  | vstx (ty : Ty) (d : Fin 32) (addr : VAddr 20) (x : Fin 32) (k : Fin 8)
  /-- VLDQ (R152). -/
  | vldq (ty : Ty) (q : Fin 2) (addr : VqAddr) (k : Fin 8)
  /-- VPOP (R153). -/
  | vpop (d : Fin 32) (q : Fin 2) (k : Fin 8)
  /-- VAMO_SWAP (R154). -/
  | vamoSwap (o : Vamo)
  /-- VAMO_ADD (R154). -/
  | vamoAdd (o : Vamo)
  /-- VAMO_MIN (R154). -/
  | vamoMin (o : Vamo)
  /-- VAMO_MAX (R154). -/
  | vamoMax (o : Vamo)
  /-- VAMO_AND (R154). -/
  | vamoAnd (o : Vamo)
  /-- VAMO_OR (R154). -/
  | vamoOr (o : Vamo)
  /-- VAMO_XOR (R154). -/
  | vamoXor (o : Vamo)
  /-- VREDM_ADD (R155). -/
  | vredmAdd (o : Vredm)
  /-- VREDM_MIN (R155). -/
  | vredmMin (o : Vredm)
  /-- VREDM_MAX (R155). -/
  | vredmMax (o : Vredm)
  /-- VREDM_AND (R155). -/
  | vredmAnd (o : Vredm)
  /-- VREDM_OR (R155). -/
  | vredmOr (o : Vredm)
  /-- VREDM_XOR (R155). -/
  | vredmXor (o : Vredm)
  /-- AADD (R156). -/
  | aadd (d : Fin 12) (a : Ab) (imm : BitVec 32)
  /-- ASUB (R156). -/
  | asub (d : Fin 12) (a : Ab) (imm : BitVec 32)
  /-- ASHL (R156). -/
  | ashl (d : Fin 12) (a : Ab) (n : Fin 64)
  /-- AMOV (R156). -/
  | amov (d : Fin 12) (a : Ab)
  /-- AADD_REGISTER (R156). -/
  | aaddRegister (d : Fin 12) (a : Ab) (b : Fin 12)
  /-- ASUB_REGISTER (R156). -/
  | asubRegister (d : Fin 12) (a : Ab) (b : Fin 12)
  /-- ALI (R156). -/
  | ali (d : Fin 12) (imm : BitVec 32)
  /-- APOP (R156). -/
  | apop (d : Fin 12) (q : Fin 4)
  /-- LOOP (R157). -/
  | loop (l : Fin 4) (a : Ab) (imm : BitVec 32)
  /-- LOOP_OFF (R157). -/
  | loopOff (l : Fin 4)
  /-- VBR (R158). -/
  | vbr (disp : BitVec 32)
  /-- VBR_Z (R158). -/
  | vbrZ (a : Fin 12) (disp : BitVec 32)
  /-- VBR_NZ (R158). -/
  | vbrNz (a : Fin 12) (disp : BitVec 32)
  /-- VBR_NEG (R158). -/
  | vbrNeg (a : Fin 12) (disp : BitVec 32)
  /-- VBR_NNEG (R158). -/
  | vbrNneg (a : Fin 12) (disp : BitVec 32)
  /-- VBR_KANY (R158). -/
  | vbrKany (a : Fin 8) (disp : BitVec 32)
  /-- VBR_KNONE (R158). -/
  | vbrKnone (a : Fin 8) (disp : BitVec 32)
  /-- VEND (R159). -/
  | vend
  /-- VLEND (R160). -/
  | vlend (b : LendBank)
  /-- VRECLAIM (R160). -/
  | vreclaim (b : LendBank)
  /-- VNOP (R161). -/
  | vnop
  /-- BLOCKING_LOAD_RETURN (R83). -/
  | blockingLoadReturn (c : Nat)
  /-- LQ_ENTRY_ARRIVAL (R85). -/
  | lqEntryArrival (k : Nat)
  /-- SCALAR_RESULT_READY (R46). -/
  | scalarResultReady (c : Nat)
  /-- LOCAL_STORE_PERFORMED (R83). -/
  | localStorePerformed (c : Nat)
  /-- AQ_ENTRY_POPPABLE (R94). -/
  | aqEntryPoppable (c : Nat)
  /-- REDUCTION_APPLIED (R252). -/
  | reductionApplied (k : Nat)
  /-- FILL_DROP_AT_HOME (R214). -/
  | fillDropAtHome (k : Nat)
  /-- SEE_DROP_AT_HOME (R216). -/
  | seeDropAtHome (k : Nat)
  /-- HANDLE_MAILBOX_ARRIVAL (R219). -/
  | handleMailboxArrival (k : Nat)
  /-- PARKED_LOAD_RETRY (R215). -/
  | parkedLoadRetry (k : Nat)
  /-- TCLAIM_GRANT (R221). -/
  | tclaimGrant (c : Nat) (r : Fin 16)
  /-- GROUP_LEAF_READ (R232). -/
  | groupLeafRead (k : Nat) (m : Nat)
  /-- GROUP_LOAD_RETURN (R233). -/
  | groupLoadReturn (k : Nat)
  /-- ENGINE_ENTRY_START (R334). -/
  | engineEntryStart (c : Nat) (q : Fin 6)
  /-- CHAIN_ELEMENT_READ (R296). -/
  | chainElementRead (c : Nat) (q : Fin 6)
  /-- CHAIN_NEXT_WORD_CHANGE (R297). -/
  | chainNextWordChange (c : Nat) (q : Fin 6)
  /-- CARTER_CHUNK (R306). -/
  | carterChunk (c : Nat) (q : Fin 4)
  /-- MILL_ROW_GROUP (R313). -/
  | millRowGroup (c : Nat) (q : Fin 2)
  /-- MILL_PLANE_LOAD (R312). -/
  | millPlaneLoad (c : Nat) (q : Fin 2)
  /-- MILL_RELAX_ITERATION (R321). -/
  | millRelaxIteration (c : Nat) (q : Fin 2)
  /-- MMR_SLOT_PROCESS (R317). -/
  | mmrSlotProcess (c : Nat) (q : Fin 2)
  /-- CHAIN_MEMBER_RESERVE (R315). -/
  | chainMemberReserve (c : Nat) (q : Fin 2)
  /-- Q_WAIT_COMPLETE (R298). -/
  | qWaitComplete (c : Nat) (q : Fin 6)
  /-- Q_FENCE_COMPLETE (R299). -/
  | qFenceComplete (c : Nat) (q : Fin 6)
  /-- COMMAND_COMPLETE (R307). -/
  | commandComplete (c : Nat) (q : Fin 6)
  /-- SWAP_FRAME_PIN_SETTLE (R341). -/
  | swapFramePinSettle (c : Nat) (q : Fin 4)
  /-- VLQ_ENTRY_ARRIVAL (R95). -/
  | vlqEntryArrival (k : Nat)
  /-- VECTOR_RESULT_LANDING (R89). -/
  | vectorResultLanding (c : Nat)
  /-- QUEUE_STALL (R48). -/
  | queueStall (c : Nat)
  /-- CORRECTABLE_ERROR_FREEZE (R199). -/
  | correctableErrorFreeze (c : Nat)
  /-- FREEZE_END (R47). -/
  | freezeEnd (c : Nat)
  /-- UNCORRECTABLE_ERROR (R201). -/
  | uncorrectableError (p : Nat) (pa : BitVec 44)
  /-- KERNEL_TRAP (R368). -/
  | kernelTrap (c : Nat)
  /-- USER_LEVEL_INTERRUPT (R368). -/
  | userLevelInterrupt (c : Nat)
  /-- FRAME_ENTRY_REINJECTION (R372). -/
  | frameEntryReinjection (c : Nat)
  /-- DEBUG_HALT (R375). -/
  | debugHalt (c : Nat)
  /-- PREEMPT_WATCHDOG (R178). -/
  | preemptWatchdog (c : Nat)
  /-- CONTEXT_SAVE (R377). -/
  | contextSave (c : Nat)
  /-- CONTEXT_RESTORE (R378). -/
  | contextRestore (c : Nat)
  /-- LAUNCH_SUBMIT (R164). -/
  | launchSubmit (p : Nat) (f : Fin 64)
  /-- GANG_START (R173). -/
  | gangStart (p : Nat) (f : Fin 64)
  /-- RESUMED_SLICE_START (R179). -/
  | resumedSliceStart (p : Nat) (f : Fin 64)
  /-- IDLE_CORE_POP (R174). -/
  | idleCorePop (c : Nat)
  /-- LAUNCH_COMPLETE (R175). -/
  | launchComplete (p : Nat) (f : Fin 64)
  /-- SLICE_END (R177). -/
  | sliceEnd (p : Nat) (f : Fin 64)
  /-- FPREEMPT_WRITE (R398). -/
  | fpreemptWrite (p : Nat) (f : Fin 64) (v : Word)
  /-- PREQ_WRITE (R386). -/
  | preqWrite (p : Nat) (f : Fin 64) (v : Word)
  /-- PARTITION_ENTRY_VALID (R386). -/
  | partitionEntryValid (p : Nat) (f : Fin 64)
  /-- PARTITION_ENTRY_INVALIDATE (R386). -/
  | partitionEntryInvalidate (p : Nat) (f : Fin 64)
  /-- SWAP_EPOCH (R197). -/
  | swapEpoch (p : Nat) (die : Fin 4)
  /-- FRAME_SWAP (R198). -/
  | frameSwap (p : Nat) (die : Fin 4)
  /-- RING_FLIT_HOP (R385). -/
  | ringFlitHop (k : Nat)
  /-- FENCE_TOKEN_FORWARD (R257). -/
  | fenceTokenForward (k : Nat)
  /-- LINK_FLIT_REPLAY (R391). -/
  | linkFlitReplay (p : Nat) (l : Fin 18) (good : Bool)
  /-- LINK_DOWN (R391). -/
  | linkDown (p : Nat) (l : Fin 18)
  /-- INBOUND_CHUNK (R394). -/
  | inboundChunk (k : Nat)
  /-- CHUNK_RESEND_TIMEOUT (R393). -/
  | chunkResendTimeout (k : Nat)
  /-- FSUB (R398). -/
  | fsub (p : Nat) (f : Fin 64) (v : Word)
  /-- MSIX_INTERVAL_END (R399). -/
  | msixIntervalEnd (p : Nat) (f : Fin 64) (v : Fin 2048)
  /-- FUNCTION_LEVEL_RESET (R401). -/
  | functionLevelReset (p : Nat) (f : Fin 64)
  /-- HOST_BAR2_ACCESS (R398). -/
  | hostBar2Access (p : Nat) (f : Fin 64) (off : Word) (w : Option (List Byte)) (n : Nat)
  /-- SPDM_REQUEST (R403). -/
  | spdmRequest (p : Nat) (req : List Byte)
  /-- LOCK_INTERFACE_REQUEST (R404). -/
  | lockInterfaceRequest (p : Nat) (f : Fin 64)
  /-- START_INTERFACE_REQUEST (R404). -/
  | startInterfaceRequest (p : Nat) (f : Fin 64)
  /-- GET_DEVICE_INTERFACE_REPORT (R405). -/
  | getDeviceInterfaceReport (p : Nat) (f : Fin 64)
  /-- STOP_INTERFACE_REQUEST (R406). -/
  | stopInterfaceRequest (p : Nat) (f : Fin 64)
  /-- IDE_STREAM_FAILURE (R406). -/
  | ideStreamFailure (p : Nat) (f : Fin 64)
  /-- DCTL_HALT (R407). -/
  | dctlHalt (c : Nat)
  /-- DCTL_RESUME (R407). -/
  | dctlResume (c : Nat)
  /-- DDATA_WRITE (R407). -/
  | ddataWrite (c : Nat) (v : Word)
  /-- DQCTL_CLEARFAULT (R407). -/
  | dqctlClearfault (c : Nat)
  /-- POWER_EPOCH (R409). -/
  | powerEpoch (p : Nat)
  /-- TRIM_WINDOW (R412). -/
  | trimWindow (p : Nat) (h : Fin 32)
  /-- TRIM_UE (R413). -/
  | trimUe (p : Nat) (h : Fin 32)
  /-- HAMLET_GATE (R414). -/
  | hamletGate (p : Nat) (h : Fin 32)
  /-- HAMLET_WAKE (R414). -/
  | hamletWake (p : Nat) (h : Fin 32)
  /-- THERMAL_SAMPLE (R415). -/
  | thermalSample (p : Nat) (die : Fin 4) (r : List SensorReading)
  /-- THERMAL_TRIP_4 (R415). -/
  | thermalTrip4 (p : Nat)
  /-- COLD_START (R418). -/
  | coldStart (p : Nat)
  /-- POWER_DOWN (R418). -/
  | powerDown (p : Nat)
  /-- REGISTER_WRITE (R4). -/
  | registerWrite (p : Nat) (f : Fin 64) (off : BitVec 24) (v : Word)
  /-- STORE_PERFORMED_AT_HOME (R241). -/
  | storePerformedAtHome (k : Nat)
  /-- ZERO_LENGTH_READ_COMPLETION (R400). -/
  | zeroLengthReadCompletion (k : Nat)
  /-- ROUTE_TABLE_UPDATE (R389). -/
  | routeTableUpdate (p : Nat) (node : BitVec 12) (link : Option (Fin 18))
  /-- NODEID_WRITE (R388). -/
  | nodeidWrite (p : Nat) (v : Word)
  /-- POWER_CAP_WRITE (R408). -/
  | powerCapWrite (p : Nat) (t : Option (Fin 4)) (v : Word)
  /-- VF_BAR_WRITE (R406). -/
  | vfBarWrite (p : Nat) (f : Fin 64) (bar : Fin 2) (v : Word)
  deriving DecidableEq, Repr

end Sys2Proof
end

