-- ==== Sys2Proof/WellFormed.lean ====
section
/-! DEFINITION. Which instruction terms are instructions: the limits that R38 step 5, R130 and the instruction chapters set
beyond the ranges of the fields. -/
namespace Sys2Proof

/-- INT types, TY 0 to 7 (R130). -/
def Ty.isInt : Ty → Bool
  | .i8 | .i16 | .i32 | .i64 | .u8 | .u16 | .u32 | .u64 => true
  | _ => false

/-- FLT types, TY 8 to 11 (R130). -/
def Ty.isFlt : Ty → Bool
  | .f16 | .bf16 | .f32 | .f64 => true
  | _ => false

/-- Plane formats, 1 to 11 (R329). -/
def Fmt.isPlane : Fmt → Bool
  | .raw | .i32 => false
  | _ => true

/-- A base that an increment writes must differ from the destination (R82). -/
def ldBaseOk (d : Fin 32) : MemAddr → Bool
  | .postInc b _ | .preInc b _ => d != b
  | _ => true

/-- Sizes of the floating-point atomics: 1 to 3 for fadd, fmin and fmax, 1 only for the bf16 forms (R261). -/
def Sz.fpOk (s : Sz) : Bool := s != .b
/-- Sizes of the bf16 atomics (R261). -/
def Sz.bfOk (s : Sz) : Bool := s == .h

/-- The P of a mill unit is 1 and its fields have no further limit; the command's have (R329). -/
def MillCmd.wf : MillCmd → Bool
  | .lds _ f => f.isPlane
  | .mmr _ _ _ t => decide (1 ≤ t.val ∧ t.val ≤ 64)
  | .mm _ | .relax _ _ _ | .relaxb _ | .pwl _ | .chain _ _ => true

/-- A carter unit that allows a follow-on (R328): the follow-on must be well formed. -/
def CarterWord.wf (e : CarterWord) (allowF : Bool) : Bool :=
  match e.follow with
  | none => true
  | some f => allowF && f.cmd.wf

/-- A 32-bit word displacement of `loop` is at least 1 (R157). -/
def loopImmOk (imm : BitVec 32) : Bool := decide (1 ≤ imm.toInt)

/-- The well-formed instructions: exactly those that have an encoding. Events of the machine have none. -/
def Instr.wf : Instr → Bool
  | .shlImmediate o | .shrImmediate o | .sraImmediate o => decide (o.imm.toNat < 64)
  | .ld d addr _ _ => ldBaseOk d addr
  | .amoFadd o | .amoFmin o | .amoFmax o => o.sz.fpOk
  | .amoBfadd o | .amoBfmin o | .amoBfmax o => o.sz.bfOk
  | .redFadd o | .redFmin o | .redFmax o => o.sz.fpOk
  | .redBfadd o | .redBfmin o | .redBfmax o => o.sz.bfOk
  | .tnew hf hs _ _ => hs != some hf
  | .spawn _ b => decide (1 ≤ b.val ∧ b.val ≤ 28)
  | .cCopy e | .cGath e | .cGathZ e | .cScat e | .cGet e => e.wf true
  | .cFill e _ => e.wf true
  | .cPut e => e.wf false
  | .cPin e | .cPinOff e => e.wf false && e.h == 0
  | .cRedAdd e _ | .cRedAnd e _ | .cRedOr e _ | .cRedXor e _ | .cRedMin e _ | .cRedMax e _ | .cRedMinu e _
  | .cRedMaxu e _ => e.wf true
  | .cRedFadd e s | .cRedFmin e s | .cRedFmax e s => e.wf true && s.fpOk
  | .cRedBfadd e s | .cRedBfmin e s | .cRedBfmax e s => e.wf true && s.bfOk
  | .mLds _ _ f => f.isPlane
  | .mMmr _ _ _ _ t => decide (1 ≤ t.val ∧ t.val ≤ 64)
  | .vadd o | .vsub o | .vmul o | .vmin o | .vmax o => o.ty.isInt || o.ty.isFlt
  | .vdiv o | .vcsgn o => o.ty.isFlt
  | .vabs o | .vneg o => o.ty.isInt || o.ty.isFlt
  | .vsqrt o => o.ty.isFlt
  | .vclass o => !o.ty.isInt
  | .vfma o | .vfms o | .vfnma o | .vfnms o => o.ty.isFlt
  | .vclamp o => o.ty.isInt || o.ty.isFlt
  | .vpwl o => o.ty.isFlt && o.c.val % 2 == 0
  | .vand o | .vor o | .vxor o | .vandn o | .vshl o | .vshr o | .vsra o | .vrol o => o.ty.isInt
  | .vshlImmediate o | .vshrImmediate o | .vsraImmediate o | .vrolImmediate o => o.ty.isInt
  | .vcmpEq o | .vcmpNe o | .vcmpLt o | .vcmpLe o | .vcmpGt o | .vcmpGe o => o.ty.isInt || o.ty.isFlt
  | .vcmpUn o | .vcmpOrd o => o.ty.isFlt
  | .viota ty _ _ => ty.isInt
  | .vfoldAdd o | .vfoldMin o | .vfoldMax o | .vscanAdd o | .vscanMin o | .vscanMax o => o.ty.isInt || o.ty.isFlt
  | .vfoldAnd o | .vfoldOr o | .vfoldXor o | .vscanAnd o | .vscanOr o | .vscanXor o => o.ty.isInt
  | .vpart d _ _ => d.val % 2 == 0
  | .vamoSwap o | .vamoAdd o | .vamoMin o | .vamoMax o => o.ty.isInt || o.ty.isFlt
  | .vamoAnd o | .vamoOr o | .vamoXor o => o.ty.isInt
  | .vredmAdd o | .vredmMin o | .vredmMax o => o.ty.isInt || o.ty.isFlt
  | .vredmAnd o | .vredmOr o | .vredmXor o => o.ty.isInt
  | .loop _ _ imm => loopImmOk imm
  | .blockingLoadReturn _ | .lqEntryArrival _ | .scalarResultReady _ | .localStorePerformed _ | .aqEntryPoppable _
  | .reductionApplied _ | .fillDropAtHome _ | .seeDropAtHome _ | .handleMailboxArrival _ | .parkedLoadRetry _
  | .tclaimGrant _ _ | .groupLeafRead _ _ | .groupLoadReturn _ | .engineEntryStart _ _ | .chainElementRead _ _
  | .chainNextWordChange _ _ | .carterChunk _ _ | .millRowGroup _ _ | .millPlaneLoad _ _ | .millRelaxIteration _ _
  | .mmrSlotProcess _ _ | .chainMemberReserve _ _ | .qWaitComplete _ _ | .qFenceComplete _ _ | .commandComplete _ _
  | .swapFramePinSettle _ _ | .vlqEntryArrival _ | .vectorResultLanding _ | .queueStall _ | .correctableErrorFreeze _
  | .freezeEnd _ | .uncorrectableError _ _ | .kernelTrap _ | .userLevelInterrupt _ | .frameEntryReinjection _
  | .debugHalt _ | .preemptWatchdog _ | .contextSave _ | .contextRestore _ | .launchSubmit _ _ | .gangStart _ _
  | .resumedSliceStart _ _ | .idleCorePop _ | .launchComplete _ _ | .sliceEnd _ _ | .fpreemptWrite _ _ _
  | .preqWrite _ _ _ | .partitionEntryValid _ _ | .partitionEntryInvalidate _ _ | .swapEpoch _ _ | .frameSwap _ _
  | .ringFlitHop _ | .fenceTokenForward _ | .linkFlitReplay _ _ _ | .linkDown _ _ | .inboundChunk _
  | .chunkResendTimeout _ | .fsub _ _ _ | .msixIntervalEnd _ _ _ | .functionLevelReset _ _ | .hostBar2Access _ _ _ _ _
  | .spdmRequest _ _ | .lockInterfaceRequest _ _ | .startInterfaceRequest _ _ | .getDeviceInterfaceReport _ _
  | .stopInterfaceRequest _ _ | .ideStreamFailure _ _ | .dctlHalt _ | .dctlResume _ | .ddataWrite _ _
  | .dqctlClearfault _ | .powerEpoch _ | .trimWindow _ _ | .trimUe _ _ | .hamletGate _ _ | .hamletWake _ _
  | .thermalSample _ _ _ | .thermalTrip4 _ | .coldStart _ | .powerDown _ | .registerWrite _ _ _ _
  | .storePerformedAtHome _ | .zeroLengthReadCompletion _ | .routeTableUpdate _ _ _ | .nodeidWrite _ _
  | .powerCapWrite _ _ _ | .vfBarWrite _ _ _ _ => false
  | .nop | .add _ | .sub _ | .and _ | .or _ | .xor _ | .andn _ | .shl _ | .shr _ | .sra _ | .rot _ | .min _ | .max _
  | .minu _ | .maxu _ | .slt _ | .sltu _ | .seq _ | .sel _ _ | .addImmediate _ | .andImmediate _ | .orImmediate _
  | .xorImmediate _ | .sltImmediate _ | .sltuImmediate _ | .mul _ | .mulh _ | .mulhu _ | .div _ | .divu _ | .rem _
  | .remu _ | .clz _ _ | .ctz _ _ | .popc _ _ | .bswap _ _ | .sext _ _ _ | .zext _ _ _ | .bfx _ _ _ _ | .bfi _ _ _ _
  | .li _ _ | .lih _ _ | .lea _ _ _ | .gaddr _ | .bEq _ | .bNe _ | .bLt _ | .bGe _ | .bLtu _ | .bGeu _ | .bAl _
  | .bFany _ | .bFall _ | .bFnone _ | .call _ | .jr _ _ | .vgo _ | .vjoin | .halt | .trap _ | .sys _ | .csrr _ _
  | .csrw _ _ | .csrs _ _ _ | .csrc _ _ _ | .uret | .kret | .uie _ | .uid _ | .fget _ | .tlbiPage _ _ | .tlbiContext _
  | .tlbiAll | .st _ _ _ _ | .ldq _ _ _ _ | .amoSwap _ | .amoAdd _ | .amoAnd _ | .amoOr _ | .amoXor _ | .amoMin _
  | .amoMax _ | .amoMinu _ | .amoMaxu _ | .redAdd _ | .redAnd _ | .redOr _ | .redXor _ | .redMin _ | .redMax _
  | .redMinu _ | .redMaxu _ | .cas _ _ | .fenceAcq _ | .fenceRel _ | .fenceFull _ | .wait _ _ | .hdup _ _ | .hdrop _
  | .hsend _ _ _ _ | .hrecv _ _ | .hinfo _ _ | .tring _ _ _ _ _ | .tclaim _ _ _ _ | .tnext _ _ _ _ _ | .tclose _ _
  | .gdef _ _ | .gdel _ | .gsee _ _ _ _ _ _ | .join _ _ | .enq _ _ _ | .btAlloc _ _ | .btFree _ _ | .btShare _ _ _
  | .btXl _ _ | .mMm _ _ | .mRelax _ _ _ _ | .mRelaxb _ _ | .mPwl _ _ | .mChain _ _ _ | .qWait _ _ _ | .qFence _ _
  | .qSig _ | .qResume _ _ | .vcvt _ _ _ | .vsel _ _ _ _ _ | .vperm _ _ _ _ | .vrot _ _ _ _ | .vbcast _ _ _ _
  | .vbcastScalar _ _ _ | .vmov _ _ _ | .kand _ _ _ | .kor _ _ _ | .kxor _ _ _ | .knot _ _ | .kmov _ _ | .kset _ _
  | .ksetRegister _ _ | .vflag _ _ | .vld _ _ _ _ | .vst _ _ _ _ | .vldx _ _ _ _ _ | .vstx _ _ _ _ _ | .vldq _ _ _ _
  | .vpop _ _ _ | .aadd _ _ _ | .asub _ _ _ | .ashl _ _ _ | .amov _ _ | .aaddRegister _ _ _ | .asubRegister _ _ _
  | .ali _ _ | .apop _ _ | .loopOff _ | .vbr _ | .vbrZ _ _ | .vbrNz _ _ | .vbrNeg _ _ | .vbrNneg _ _ | .vbrKany _ _
  | .vbrKnone _ _ | .vend | .vlend _ | .vreclaim _ | .vnop => true

end Sys2Proof
end

