-- ==== Sys2Proof/Machine/Num.lean ====
section
/-! DEFINITION. Number formats and exact arithmetic: encoded values decoded to exact binary numbers, the rounding helpers
of R114, the flags of R116, the operations of R119 to R121, DITHER (R113) and the scalar conversions of R122. -/
namespace Sys2Proof

/-- FSR flags as FSR[4:0]: NV, DZ, OF, UF, NX (R115). -/
abbrev Fl := BitVec 5
/-- Invalid operation. -/
def Fl.nv : Fl := 0b10000
/-- Division of a finite non-zero value by zero. -/
def Fl.dz : Fl := 0b01000
/-- Overflow. -/
def Fl.of : Fl := 0b00100
/-- Underflow. -/
def Fl.uf : Fl := 0b00010
/-- Inexact. -/
def Fl.nx : Fl := 0b00001
/-- A flag if a condition holds. -/
def Fl.on (b : Bool) (f : Fl) : Fl := if b then f else 0

/-- An exact binary number, its sign kept apart so that zeros keep theirs: ± m × 2^e. -/
structure Dy where
  neg : Bool
  m : Nat
  e : Int
  deriving DecidableEq, Repr

/-- A decoded value: NaN, an infinity or a finite number (R105, R114). -/
inductive FV where
  | nan
  | inf (neg : Bool)
  | fin (d : Dy)
  deriving DecidableEq, Repr

/-- Is it a NaN? -/
def FV.isNan : FV → Bool
  | .nan => true
  | _ => false
/-- Is it finite? -/
def FV.isFin : FV → Bool
  | .fin _ => true
  | _ => false
/-- The sign; a NaN has none here. -/
def FV.neg : FV → Bool
  | .nan => false
  | .inf s => s
  | .fin d => d.neg

/-- The floating-point formats of R105. -/
inductive FF where
  | f64 | f32 | bf16 | f16 | e4m3 | e5m2
  deriving DecidableEq, Repr

/-- Exponent bits. -/
def FF.eb : FF → Nat
  | .f64 => 11 | .f32 => 8 | .bf16 => 8 | .f16 => 5 | .e4m3 => 4 | .e5m2 => 5
/-- Fraction bits. -/
def FF.mb : FF → Nat
  | .f64 => 52 | .f32 => 23 | .bf16 => 7 | .f16 => 10 | .e4m3 => 3 | .e5m2 => 2
/-- Bias. -/
def FF.bias : FF → Int
  | .f64 => 1023 | .f32 => 127 | .bf16 => 127 | .f16 => 15 | .e4m3 => 7 | .e5m2 => 15
/-- Width in bits. -/
def FF.width (f : FF) : Nat := 1 + f.eb + f.mb
/-- The format has infinities; E4M3 has none (R105). -/
def FF.hasInf : FF → Bool
  | .e4m3 => false
  | _ => true
/-- Exponent of the spacing of the subnormals. -/
def FF.qmin (f : FF) : Int := 1 - f.bias - f.mb
/-- Bits of the largest finite magnitude (R105). -/
def FF.maxBits : FF → Nat
  | .f64 => 0x7FEFFFFFFFFFFFFF | .f32 => 0x7F7FFFFF | .bf16 => 0x7F7F | .f16 => 0x7BFF | .e4m3 => 0x7E | .e5m2 => 0x7B
/-- Bits of positive infinity; unused for E4M3. -/
def FF.infBits : FF → Nat
  | .f64 => 0x7FF0000000000000 | .f32 => 0x7F800000 | .bf16 => 0x7F80 | .f16 => 0x7C00 | .e4m3 => 0x7F | .e5m2 => 0x7C
/-- The canonical NaN (R105, R107). -/
def FF.nanBits : FF → Nat
  | .f64 => 0x7FF8000000000000 | .f32 => 0x7FC00000 | .bf16 => 0x7FC0 | .f16 => 0x7E00 | .e4m3 => 0x7F | .e5m2 => 0x7E
/-- Bits with a sign. -/
def FF.signed (f : FF) (neg : Bool) (b : Nat) : Nat := if neg then b + 2 ^ (f.eb + f.mb) else b

/-- The value of an encoding (R105). -/
def FF.decode (f : FF) (bits : Nat) : FV :=
  let b := bits % 2 ^ f.width
  let neg := 2 ^ (f.eb + f.mb) ≤ b
  let mag := b % 2 ^ (f.eb + f.mb)
  let frac := mag % 2 ^ f.mb
  let ex := mag / 2 ^ f.mb
  if f.hasInf ∧ ex = 2 ^ f.eb - 1 then (if frac = 0 then .inf neg else .nan)
  else if ¬ f.hasInf ∧ mag = 0x7F then .nan
  else if ex = 0 then .fin { neg := neg, m := frac, e := f.qmin }
  else .fin { neg := neg, m := 2 ^ f.mb + frac, e := f.qmin + (ex - 1 : Nat) }

/-- Rounding modes in the order of their codes (R112). -/
inductive RM where
  | rne | rtz | rup | rdn | dither
  deriving DecidableEq, Repr
/-- The mode of a code; the reserved codes cannot be held and read as RNE. -/
def RM.ofCode (n : Nat) : RM :=
  match n with
  | 1 => .rtz | 2 => .rup | 3 => .rdn | 4 => .dither | _ => .rne
/-- DITHER acts as RNE where no narrow format is made (R112). -/
def RM.arith : RM → RM
  | .dither => .rne
  | m => m

/-- The table of R113 at an element index: D[y][x] = bitreverse8(interleave(x XOR y, y)). -/
def ditherD (n : Nat) : Nat :=
  let x := n % 16
  let y := n / 16 % 16
  let a := x ^^^ y
  let bit (v k w : Nat) : Nat := if v.testBit k then w else 0
  bit a 3 1 + bit y 3 2 + bit a 2 4 + bit y 2 8 + bit a 1 16 + bit y 1 32 + bit a 0 64 + bit y 0 128

/-- Does a magnitude between `q` and `q + 1` with fraction `rem / 2^k` round up, under a mode and at an element index? -/
def roundsUp (mode : RM) (neg : Bool) (n q rem k : Nat) : Bool :=
  if rem = 0 then false
  else match mode with
    | .rne => decide (2 ^ k < 2 * rem) || (decide (2 * rem = 2 ^ k) && q % 2 == 1)
    | .rtz => false
    | .rup => !neg
    | .rdn => neg
    | .dither => decide (ditherD n * 2 ^ k < rem * 256)

/-- A non-negative number m × 2^e on the grid of spacing 2^qe: the rounded multiple and whether it is inexact. -/
def roundGrid (mode : RM) (neg : Bool) (n m : Nat) (e qe : Int) : Nat × Bool :=
  if qe ≤ e then (m * 2 ^ (e - qe).toNat, false)
  else
    let k := (qe - e).toNat
    let q := m / 2 ^ k
    let rem := m % 2 ^ k
    (if roundsUp mode neg n q rem k then q + 1 else q, rem != 0)

/-- An encoded result with its flags. -/
structure Rd where
  bits : Nat
  fl : Fl
  deriving DecidableEq, Repr

/-- The overflow result of R114's table, with SAT and for formats without infinity. -/
def FF.overflow (f : FF) (mode : RM) (sat neg : Bool) : Nat :=
  let toMax : Bool := match mode with
    | .rne | .dither => false
    | .rtz => true
    | .rup => neg
    | .rdn => !neg
  if sat || toMax then f.signed neg f.maxBits
  else if f.hasInf then f.signed neg f.infBits else f.nanBits

/-- Bit length less one: floor(log2 m) for m ≠ 0. -/
def topBit (m : Nat) : Nat := Nat.log2 m

/-- round_mode of a finite number (R114) with the flags of R116; `n` is the element index of DITHER. -/
def FF.roundFin (f : FF) (mode : RM) (sat : Bool) (n : Nat) (x : Dy) : Rd :=
  if x.m = 0 then { bits := f.signed x.neg 0, fl := 0 }
  else
    let top : Int := topBit x.m + x.e
    let emin : Int := 1 - f.bias
    let qe : Int := (if top < emin then emin else top) - f.mb
    let r := roundGrid mode x.neg n x.m x.e qe
    let b := (qe - f.qmin).toNat * 2 ^ f.mb + r.1
    if f.maxBits < b then { bits := f.overflow mode sat x.neg, fl := Fl.of ||| Fl.nx }
    else
      let tiny : Bool := decide (top < emin) &&
        (let u := roundGrid mode x.neg n x.m x.e (top - f.mb)
         !(decide (top = emin - 1) && decide (u.1 = 2 ^ (f.mb + 1))))
      { bits := f.signed x.neg b, fl := Fl.on r.2 Fl.nx ||| Fl.on (r.2 && tiny) Fl.uf }

/-- round_mode of any value (R114): a NaN gives the canonical NaN; an infinity stays, or saturates without a flag, or in a
format without infinity becomes the canonical NaN. -/
def FF.round (f : FF) (mode : RM) (sat : Bool) (n : Nat) (x : FV) : Rd :=
  match x with
  | .nan => { bits := f.nanBits, fl := 0 }
  | .inf s =>
    if sat then { bits := f.signed s f.maxBits, fl := 0 }
    else { bits := if f.hasInf then f.signed s f.infBits else f.nanBits, fl := 0 }
  | .fin d => f.roundFin mode sat n d

/-- round_rne (R114). -/
def FF.rne (f : FF) (x : FV) : Rd := f.round .rne false 0 x

/-! ## Exact operations with the special cases of R120 and R121 -/

/-- An exact value with the flags of its special case. -/
structure Ex where
  v : FV
  fl : Fl
  deriving DecidableEq, Repr

/-- A signed integer multiple of 2^e as an exact number; `z` is the sign of an exact zero. -/
def Dy.ofInt (i : Int) (e : Int) (z : Bool) : Dy :=
  if i = 0 then { neg := z, m := 0, e := e } else { neg := decide (i < 0), m := i.natAbs, e := e }
/-- The signed significand of an exact number at a smaller exponent. -/
def Dy.at (d : Dy) (e : Int) : Int :=
  let v : Int := (d.m * 2 ^ (d.e - e).toNat : Nat)
  if d.neg then -v else v
/-- Exact sum; an exact zero from opposite signs is +0, or −0 under RDN (R119). -/
def Dy.add (rdn : Bool) (a b : Dy) : Dy :=
  let e := if a.e ≤ b.e then a.e else b.e
  let z := if a.m = 0 ∧ b.m = 0 ∧ a.neg = b.neg then a.neg else rdn
  Dy.ofInt (a.at e + b.at e) e z
/-- Exact product. -/
def Dy.mul (a b : Dy) : Dy := { neg := a.neg != b.neg, m := a.m * b.m, e := a.e + b.e }
/-- The opposite. -/
def Dy.opp (a : Dy) : Dy := { a with neg := !a.neg }
/-- Comparison of values, zeros equal. -/
def Dy.cmp (a b : Dy) : Ordering :=
  let e := if a.e ≤ b.e then a.e else b.e
  compare (a.at e) (b.at e)

/-- The opposite value. -/
def FV.opp : FV → FV
  | .nan => .nan
  | .inf s => .inf (!s)
  | .fin d => .fin d.opp

/-- Exact addition (R119, R120). -/
def FV.add (rdn : Bool) (a b : FV) : Ex :=
  match a, b with
  | .nan, _ | _, .nan => { v := .nan, fl := 0 }
  | .inf s, .inf t => if s = t then { v := .inf s, fl := 0 } else { v := .nan, fl := Fl.nv }
  | .inf s, .fin _ => { v := .inf s, fl := 0 }
  | .fin _, .inf t => { v := .inf t, fl := 0 }
  | .fin x, .fin y => { v := .fin (x.add rdn y), fl := 0 }

/-- Exact multiplication (R120). -/
def FV.mul (a b : FV) : Ex :=
  match a, b with
  | .nan, _ | _, .nan => { v := .nan, fl := 0 }
  | .inf s, .inf t => { v := .inf (s != t), fl := 0 }
  | .inf s, .fin y => if y.m = 0 then { v := .nan, fl := Fl.nv } else { v := .inf (s != y.neg), fl := 0 }
  | .fin x, .inf t => if x.m = 0 then { v := .nan, fl := Fl.nv } else { v := .inf (x.neg != t), fl := 0 }
  | .fin x, .fin y => { v := .fin (x.mul y), fl := 0 }

/-- Exact a × b + c: a product 0 × ∞ is invalid even if c is NaN (R120). -/
def FV.fma (rdn : Bool) (a b c : FV) : Ex :=
  let p := a.mul b
  let s := FV.add rdn p.v c
  { v := s.v, fl := p.fl ||| s.fl }

/-- The quotient of two non-zero numbers with `p` bits and a sticky bit below them. -/
def Dy.div (p : Nat) (a b : Dy) : Dy :=
  let k : Nat := p + 2 + topBit b.m
  let num := a.m * 2 ^ k
  let q := num / b.m
  let r := num % b.m
  { neg := a.neg != b.neg, m := 2 * q + (if r = 0 then 0 else 1), e := a.e - b.e - k - 1 }

/-- Exact division (R120, R121); the quotient carries a sticky bit that decides every rounding to 53 bits or fewer. -/
def FV.div (a b : FV) : Ex :=
  match a, b with
  | .nan, _ | _, .nan => { v := .nan, fl := 0 }
  | .inf _, .inf _ => { v := .nan, fl := Fl.nv }
  | .inf s, .fin y => { v := .inf (s != y.neg), fl := 0 }
  | .fin x, .inf t => { v := .fin { neg := x.neg != t, m := 0, e := 0 }, fl := 0 }
  | .fin x, .fin y =>
    if y.m = 0 then
      if x.m = 0 then { v := .nan, fl := Fl.nv } else { v := .inf (x.neg != y.neg), fl := Fl.dz }
    else if x.m = 0 then { v := .fin { neg := x.neg != y.neg, m := 0, e := 0 }, fl := 0 }
    else { v := .fin (x.div 56 y), fl := 0 }

/-- The integer square root, bit by bit from bit `k` down, above a part `r` already found. -/
def isqrtFrom (n : Nat) : Nat → Nat → Nat
  | 0, r => if (r + 1) * (r + 1) ≤ n then r + 1 else r
  | k + 1, r =>
    let t := r + 2 ^ (k + 1)
    isqrtFrom n k (if t * t ≤ n then t else r)

/-- Square root (R119, R120): −0 stays, a value below zero is invalid. -/
def FV.sqrt (a : FV) : Ex :=
  match a with
  | .nan => { v := .nan, fl := 0 }
  | .inf s => if s then { v := .nan, fl := Fl.nv } else { v := .inf false, fl := 0 }
  | .fin x =>
    if x.m = 0 then { v := .fin x, fl := 0 }
    else if x.neg then { v := .nan, fl := Fl.nv }
    else
      let k : Nat := 2 * 58 + (if (x.e % 2 = 0) then 0 else 1)
      let n := x.m * 2 ^ k
      let r := isqrtFrom n (topBit n / 2 + 1) 0
      { v := .fin { neg := false, m := 2 * r + (if r * r = n then 0 else 1), e := (x.e - k) / 2 - 1 }, fl := 0 }

/-- The order of two values that are not NaN. -/
def FV.cmp (a b : FV) : Ordering :=
  match a, b with
  | .inf s, .inf t => if s = t then .eq else if s then .lt else .gt
  | .inf s, _ => if s then .lt else .gt
  | _, .inf t => if t then .gt else .lt
  | .fin x, .fin y => x.cmp y
  | _, _ => .eq

/-- Is a below b, −0 counting as smaller than +0 (R133)? -/
def FV.below (a b : FV) : Bool :=
  match FV.cmp a b with
  | .lt => true
  | .gt => false
  | .eq => a.neg && !b.neg

/-! ## Element types -/

/-- Width of a lane type in bits (R29, R129). -/
def Ty.width : Ty → Nat
  | .i8 | .u8 | .e4m3 | .e5m2 => 8
  | .i16 | .u16 | .f16 | .bf16 => 16
  | .i32 | .u32 | .f32 => 32
  | .i64 | .u64 | .f64 => 64
/-- Width in bytes. -/
def Ty.size (t : Ty) : Nat := t.width / 8
/-- The floating-point format of a type. -/
def Ty.ff : Ty → Option FF
  | .f16 => some .f16 | .bf16 => some .bf16 | .f32 => some .f32 | .f64 => some .f64 | .e4m3 => some .e4m3
  | .e5m2 => some .e5m2 | _ => none
/-- Signed integer types. -/
def Ty.signed : Ty → Bool
  | .i8 | .i16 | .i32 | .i64 => true
  | _ => false

/-- A result lane: the low bits extended by the type, signed integers by sign, all others by zeros (R129). -/
def Ty.extend (t : Ty) (v : Nat) : Word :=
  let b := v % 2 ^ t.width
  if t.signed && decide (2 ^ (t.width - 1) ≤ b) then BitVec.ofInt 64 ((b : Int) - 2 ^ t.width) else BitVec.ofNat 64 b
/-- The element that a word reads from a lane: its low bits (R129). -/
def Ty.low (t : Ty) (v : Word) : Nat := v.toNat % 2 ^ t.width
/-- The integer value of an element. -/
def Ty.toInt (t : Ty) (v : Word) : Int :=
  let b := t.low v
  if t.signed && decide (2 ^ (t.width - 1) ≤ b) then (b : Int) - 2 ^ t.width else b
/-- Least value of an integer type. -/
def Ty.lo (t : Ty) : Int := if t.signed then -(2 ^ (t.width - 1)) else 0
/-- Greatest value of an integer type. -/
def Ty.hi (t : Ty) : Int := if t.signed then 2 ^ (t.width - 1) - 1 else 2 ^ t.width - 1
/-- The number in an element, exact (R114): an integer or a decoded floating-point value. -/
def Ty.value (t : Ty) (v : Word) : FV :=
  match t.ff with
  | some f => f.decode (t.low v)
  | none => .fin (Dy.ofInt (t.toInt v) 0 false)

/-- A lane result: the lane's 64 bits, its flags, and whether a NaN was produced (R118). -/
structure Lane where
  v : Word
  fl : Fl
  nan : Bool
  deriving DecidableEq, Repr

/-- An integer lane, wrapped to its type (R132). -/
def Ty.ofInt (t : Ty) (i : Int) : Lane := { v := t.extend (i % 2 ^ t.width).toNat, fl := 0, nan := false }

/-- A floating-point lane from an exact result: rounded once, its NaN marked produced unless an operand was NaN. -/
def FF.lane (f : FF) (t : Ty) (mode : RM) (anyNan : Bool) (x : Ex) : Lane :=
  let r := f.round mode.arith false 0 x.v
  { v := t.extend r.bits, fl := x.fl ||| r.fl, nan := x.v.isNan && !anyNan }

/-- An integer rounded under a mode, with whether it is inexact (R114). -/
def roundInt (mode : RM) (n : Nat) (x : Dy) : Int × Bool :=
  let r := roundGrid mode x.neg n x.m x.e 0
  (if x.neg then -(r.1 : Int) else r.1, r.2)

/-- A value into an integer type, with the flags of R122. -/
def Ty.fromFV (t : Ty) (mode : RM) (n : Nat) (x : FV) : Rd :=
  let wrap (i : Int) : Nat := (i % 2 ^ t.width).toNat
  match x with
  | .nan => { bits := 0, fl := Fl.nv }
  | .inf s => { bits := wrap (if s then t.lo else t.hi), fl := Fl.nv }
  | .fin d =>
    let r := roundInt mode n d
    if r.1 < t.lo then { bits := wrap t.lo, fl := Fl.nv }
    else if t.hi < r.1 then { bits := wrap t.hi, fl := Fl.nv }
    else { bits := wrap r.1, fl := Fl.on r.2 Fl.nx }

/-- The lane types that are narrow formats: DITHER acts in a conversion or a store to one of them only (R112, entry 30). -/
def Ty.narrow : Ty → Bool
  | .i8 | .i16 | .u8 | .u16 | .f16 | .bf16 | .e4m3 | .e5m2 => true
  | .i32 | .i64 | .u32 | .u64 | .f32 | .f64 => false
/-- The rounding mode of a conversion into a type (R112). -/
def RM.into (m : RM) (t : Ty) : RM := if t.narrow then m else m.arith
/-- Is a float type of equal or wider range and precision than another (R122)? -/
def Ty.within (a b : Ty) : Bool :=
  match a, b with
  | .e4m3, .e4m3 | .e4m3, .f16 | .e4m3, .bf16 | .e4m3, .f32 | .e4m3, .f64 => true
  | .e5m2, .e5m2 | .e5m2, .f16 | .e5m2, .bf16 | .e5m2, .f32 | .e5m2, .f64 => true
  | .f16, .f16 | .f16, .f32 | .f16, .f64 => true
  | .bf16, .bf16 | .bf16, .f32 | .bf16, .f64 => true
  | .f32, .f32 | .f32, .f64 | .f64, .f64 => true
  | _, _ => false
/-- Conversion of an exact value of a source type into a destination type (R122): a float into one that holds it exactly, an infinity
with it whatever `sat` says; other floats by round_mode, with NV for an infinity that E4M3 cannot hold; integers clamped, an integer
source without a flag, into a type of any width (entry 95). -/
def convert (src dst : Ty) (mode : RM) (sat0 : Bool) (n : Nat) (x : FV) : Lane :=
  let sat := sat0 && !(src.within dst && (match x with | .inf _ => true | _ => false))
  match dst.ff with
  | some f =>
    let r := f.round (mode.into dst) sat n x
    let bad := !f.hasInf && !sat && (match x with | .inf _ => true | _ => false)
    { v := dst.extend r.bits, fl := r.fl ||| Fl.on bad Fl.nv
      nan := !x.isNan && (f.decode r.bits).isNan }
  | none =>
    let r := dst.fromFV (mode.into dst) n x
    { v := dst.extend r.bits, fl := if src.isInt then 0 else r.fl, nan := false }

/-! ## Lane operations of the arithmetic family (R131 to R134) -/

/-- The binary arithmetic of two values. -/
inductive Bin where
  | add | sub | mul | div
  deriving DecidableEq, Repr

/-- Exact result of a binary operation on values. -/
def Bin.exact (o : Bin) (rdn : Bool) (a b : FV) : Ex :=
  match o with
  | .add => FV.add rdn a b
  | .sub => FV.add rdn a b.opp
  | .mul => FV.mul a b
  | .div => FV.div a b

/-- Integer result of a binary operation, before it wraps; there is no integer division (R131). -/
def Bin.int (o : Bin) (a b : Int) : Int :=
  match o with
  | .add => a + b
  | .sub => a - b
  | .mul => a * b
  | .div => 0

/-- One lane of a binary operation (R119, R132). -/
def laneBin (o : Bin) (t : Ty) (mode : RM) (a b : Word) : Lane :=
  match t.ff with
  | some f =>
    let x := t.value a
    let y := t.value b
    f.lane t mode (x.isNan || y.isNan) (o.exact (mode.arith == .rdn) x y)
  | none => t.ofInt (o.int (t.toInt a) (t.toInt b))

/-- One lane of a square root. -/
def laneSqrt (t : Ty) (mode : RM) (a : Word) : Lane :=
  match t.ff with
  | some f => f.lane t mode (t.value a).isNan (t.value a).sqrt
  | none => t.ofInt 0

/-- One lane of a fused operation: ± a × b ± c (R134). -/
def laneFma (t : Ty) (mode : RM) (negP negC : Bool) (a b c : Word) : Lane :=
  match t.ff with
  | some f =>
    let x := t.value a
    let y := t.value b
    let z := t.value c
    let r := FV.fma (mode.arith == .rdn) (if negP then x.opp else x) y (if negC then z.opp else z)
    f.lane t mode (x.isNan || y.isNan || z.isNan) r
  | none => t.ofInt 0

/-- vmin and vmax (R132, R133): integers as signed, floats with −0 below +0, a NaN giving the canonical NaN, no flag. -/
def laneMin (max : Bool) (t : Ty) (a b : Word) : Lane :=
  match t.ff with
  | some f =>
    let x := t.value a
    let y := t.value b
    if x.isNan || y.isNan then { v := t.extend f.nanBits, fl := 0, nan := false }
    else
      let pickA := if max then !(FV.below x y) else !(FV.below y x)
      { v := t.extend (if pickA then t.low a else t.low b), fl := 0, nan := false }
  | none =>
    let x := t.toInt a
    let y := t.toInt b
    t.ofInt (if max then (if x < y then y else x) else (if y < x then y else x))

/-- The encoded sign bit of an element. -/
def Ty.signBit (t : Ty) (a : Word) : Bool := decide (2 ^ (t.width - 1) ≤ t.low a)
/-- An element with its sign bit replaced; a NaN gives the canonical NaN (R133). -/
def laneSign (t : Ty) (a : Word) (s : Bool) : Lane :=
  match t.ff with
  | some f =>
    if (t.value a).isNan then { v := t.extend f.nanBits, fl := 0, nan := false }
    else { v := t.extend (f.signed s (t.low a % 2 ^ (t.width - 1))), fl := 0, nan := false }
  | none => t.ofInt 0
/-- One lane of vabs (R132, R133). -/
def laneAbs (t : Ty) (a : Word) : Lane :=
  match t.ff with
  | some _ => laneSign t a false
  | none => t.ofInt (if t.toInt a < 0 then -(t.toInt a) else t.toInt a)
/-- One lane of vneg (R132, R133). -/
def laneNeg (t : Ty) (a : Word) : Lane :=
  match t.ff with
  | some _ => laneSign t a (!t.signBit a)
  | none => t.ofInt (-(t.toInt a))
/-- One lane of vcsgn: the magnitude of a with the encoded sign of b (R133). -/
def laneCsgn (t : Ty) (a b : Word) : Lane := laneSign t a (t.signBit b)

/-! ## Logic, comparison, classes -/

/-- Operations of the logic family (R135). -/
inductive Logic where
  | and | or | xor | andn | shl | shr | sra | rol
  deriving DecidableEq, Repr

/-- One lane of a logic operation; `n` is the shift amount (R135). -/
def laneLogic (o : Logic) (t : Ty) (a b : Word) (n : Nat) : Lane :=
  let w := t.width
  let x := t.low a
  let y := t.low b
  let top := decide (2 ^ (w - 1) ≤ x)
  let r : Nat := match o with
    | .and => x &&& y
    | .or => x ||| y
    | .xor => x ^^^ y
    | .andn => x &&& (2 ^ w - 1 - y)
    | .shl => if w ≤ n then 0 else x * 2 ^ n % 2 ^ w
    | .shr => if w ≤ n then 0 else x / 2 ^ n
    | .sra =>
      if w ≤ n then (if top then 2 ^ w - 1 else 0)
      else x / 2 ^ n + (if top then 2 ^ w - 2 ^ (w - n) else 0)
    | .rol =>
      let k := n % w
      (x * 2 ^ k) % 2 ^ w + x / 2 ^ (w - k)
  { v := t.extend r, fl := 0, nan := false }

/-- Conditions of vcmp (R136). -/
inductive Cond where
  | eq | ne | lt | le | gt | ge | un | ord
  deriving DecidableEq, Repr

/-- A condition on an order. -/
def Cond.ofOrder (c : Cond) (o : Ordering) : Bool :=
  match c with
  | .eq => o == .eq
  | .ne => o != .eq
  | .lt => o == .lt
  | .le => o != .gt
  | .gt => o == .gt
  | .ge => o != .lt
  | .un => false
  | .ord => true

/-- One lane of vcmp with its flags (R136). -/
def laneCmp (c : Cond) (t : Ty) (a b : Word) : Bool × Fl :=
  match t.ff with
  | some _ =>
    let x := t.value a
    let y := t.value b
    if x.isNan || y.isNan then
      match c with
      | .eq | .ord => (false, 0)
      | .ne | .un => (true, 0)
      | _ => (false, Fl.nv)
    else (c.ofOrder (FV.cmp x y), 0)
  | none => (c.ofOrder (compare (t.toInt a) (t.toInt b)), 0)

/-- The bit of vclass (R137). -/
def laneClass (t : Ty) (a : Word) : Lane :=
  let k : Nat := match t.ff, t.value a with
    | _, .nan => 8
    | _, .inf s => if s then 0 else 7
    | f, .fin d =>
      if d.m = 0 then (if d.neg then 3 else 4)
      else
        let mb := match f with | some g => g.mb | none => 0
        let sub := d.m < 2 ^ mb
        if d.neg then (if sub then 2 else 1) else (if sub then 5 else 6)
  { v := BitVec.ofNat 64 (2 ^ k), fl := 0, nan := false }

/-! ## Fixed orders (R124, R125) -/

/-- One level of the tree: pairs combined, an empty item passing its partner through. -/
def foldLevel {α : Type} (op : α → α → α) : List (Option α) → List (Option α)
  | [] => []
  | [x] => [x]
  | x :: y :: r =>
    (match x, y with
      | none, z => z
      | z, none => z
      | some a, some b => some (op a b)) :: foldLevel op r

/-- tree_fold of R124: levels until one item is left; `fuel` levels suffice for 2^fuel items. -/
def treeFold {α : Type} (op : α → α → α) : Nat → List (Option α) → Option α
  | 0, l => (l.head?).join
  | k + 1, l =>
    match l with
    | [] => none
    | [x] => x
    | _ => treeFold op k (foldLevel op l)

end Sys2Proof
end

