-- ==== Sys2Proof/Machine/Block.lean ====
section
/-! DEFINITION. Bank formats: little-endian bytes, the WB and MX8 blocks (R108 to R110), their decoding and the
quantisation of R123. -/
namespace Sys2Proof

/-- The number in bytes, the first the least significant (R2). -/
def leNat : List Byte → Nat
  | [] => 0
  | b :: r => b.toNat + 256 * leNat r
/-- The `n` low bytes of a number, the least significant first. -/
def leBytes : Nat → Nat → List Byte
  | 0, _ => []
  | n + 1, v => BitVec.ofNat 8 v :: leBytes n (v / 256)

/-- Payload bytes, elements and header bytes of a block (R110). -/
structure BlockShape where
  p : Nat
  b : Nat
  h : Nat
  deriving DecidableEq, Repr
/-- The block shape of a format; none for formats without blocks (R110). -/
def Fmt.block : Fmt → Option BlockShape
  | .mx8 => some { p := 32, b := 32, h := 1 }
  | .wb3 => some { p := 6, b := 16, h := 2 }
  | .wb5 => some { p := 10, b := 16, h := 2 }
  | .wb8 => some { p := 16, b := 16, h := 2 }
  | _ => none
/-- The element type of a format without blocks; none for RAW and the block formats (R148). -/
def Fmt.elem : Fmt → Option Ty
  | .f64 => some .f64 | .f32 => some .f32 | .bf16 => some .bf16 | .f16 => some .f16 | .e4m3 => some .e4m3
  | .e5m2 => some .e5m2 | .i8 => some .i8 | .i32 => some .i32 | _ => none
/-- Magnitude bits of a WB format (R109). -/
def Fmt.wbK : Fmt → Nat
  | .wb3 => 2 | .wb5 => 4 | _ => 7

/-- Element `i` of a WB block (R109): E = 255 is NaN, a zero magnitude keeps its sign. -/
def wbValue (k : Nat) (payload : Nat) (e micro : Nat) (i : Nat) : FV :=
  if e = 255 then .nan
  else
    let x := payload / 2 ^ ((k + 1) * i) % 2 ^ (k + 1)
    let m := x % 2 ^ k
    let mp : Int := if micro.testBit (i / 2) then 1 else 0
    .fin { neg := decide (2 ^ k ≤ x), m := m, e := (e : Int) - 127 - mp - (k - 1 : Nat) }

/-- Element `i` of an MX8 block (R108): a scale of 0xFF is NaN. -/
def mx8Value (payload scale i : Nat) : FV :=
  if scale = 255 then .nan
  else match FF.e4m3.decode (payload / 2 ^ (8 * i)) with
    | .fin d => .fin { d with e := d.e + (scale : Int) - 127 }
    | v => v

/-- Element `i` of a block given its payload and header bytes. -/
def blockValue (f : Fmt) (payload header : List Byte) (i : Nat) : FV :=
  match f with
  | .mx8 => mx8Value (leNat payload) (leNat header) i
  | _ => wbValue f.wbK (leNat payload) (leNat header % 256) (leNat header / 256 % 256) i

/-- An encoded block with the flags of its elements in order; a NaN block has none. -/
structure BlockRd where
  payload : List Byte
  header : List Byte
  fl : List Fl
  deriving DecidableEq, Repr

/-- The flags of a block, of all its elements (R123). -/
def BlockRd.flags (b : BlockRd) : Fl := b.fl.foldl (fun a x => a ||| x) 0

/-- The largest finite magnitude of a list with the index and sign of its first holder (R123). -/
def blockMax : List FV → Nat → Option (Dy × Nat)
  | [], _ => none
  | v :: r, i =>
    match v, blockMax r (i + 1) with
    | .fin d, none => some (d, i)
    | .fin d, some (x, j) =>
      if Dy.cmp { x with neg := false } { d with neg := false } = .gt then some (x, j) else some (d, i)
    | _, m => m

/-- A magnitude scaled by a power of two and rounded to an integer under the sign and index of its element (R123). -/
def roundMag (mode : RM) (d : Dy) (shift : Int) (n : Nat) : Nat × Bool := roundGrid mode d.neg n d.m (d.e + shift) 0

/-- A number clamped to 0 … 254. -/
def clampE (i : Int) : Nat := if i < 0 then 0 else if 254 < i then 254 else i.toNat

/-- The WB block of 16 values whose first destination element is `n0` (R123). -/
def quantWb (f : Fmt) (mode : RM) (n0 : Nat) (v : List FV) : BlockRd :=
  let k := f.wbK
  let bytes := match f.block with | some s => s.p | none => 0
  let maxM := 2 ^ k - 1
  if v.any FV.isNan then { payload := leBytes bytes 0, header := leBytes 2 255, fl := [] }
  else
    let e0 : Int := match blockMax v 0 with
      | some (d, i) =>
        if d.m = 0 then -127
        else
          let e : Int := topBit d.m + d.e
          if maxM < (roundMag mode d ((k - 1 : Nat) - e) (n0 + i)).1 then e + 1 else e
      | none => -127
    let ex := clampE (e0 + 127)
    let fits (x : FV) : Bool := match x with
      | .fin d => Dy.cmp { d with neg := false } { neg := false, m := maxM, e := (ex : Int) - 128 - (k - 1 : Nat) } != .gt
      | _ => false
    let get (i : Nat) : FV := v.getD i (.fin { neg := false, m := 0, e := 0 })
    let mp (p : Nat) : Bool := fits (get (2 * p)) && fits (get (2 * p + 1))
    let elem (i : Nat) : Nat × Fl :=
      match get i with
      | .fin d =>
        let q := roundMag mode d ((k - 1 : Nat) - ((ex : Int) - 127 - (if mp (i / 2) then 1 else 0))) (n0 + i)
        let s := if d.neg then 2 ^ k else 0
        if maxM < q.1 then (maxM + s, Fl.of ||| Fl.nx)
        else (q.1 + s, Fl.on q.2 Fl.nx ||| Fl.on (d.m != 0 && q.1 == 0) Fl.uf)
      | x => (maxM + (if x.neg then 2 ^ k else 0), 0)
    let es := (List.range 16).map elem
    { payload := leBytes bytes (es.foldr (fun x acc => x.1 + 2 ^ (k + 1) * acc) 0)
      header := leBytes 2 (ex + 256 * (List.range 8).foldr (fun p acc => (if mp p then 1 else 0) + 2 * acc) 0)
      fl := es.map (·.2) }

/-- The MX8 block of 32 values whose first destination element is `n0` (R123). An element that rounds inexactly to a subnormal sets UF
as a plain E4M3 result does (DESIGN CHOICE, entry 100; R116). -/
def quantMx8 (mode : RM) (n0 : Nat) (v : List FV) : BlockRd :=
  if v.any FV.isNan then { payload := leBytes 32 0, header := leBytes 1 255, fl := [] }
  else
    let e0 : Int := match blockMax v 0 with
      | some (d, i) =>
        if d.m = 0 then -127
        else
          let e : Int := topBit d.m + d.e - 8
          if 14 < (roundMag mode d (-e - 5) (n0 + i)).1 then e + 1 else e
      | none => -127
    let sc := clampE (e0 + 127)
    let scale (x : FV) : FV := match x with
      | .fin d => .fin { d with e := d.e - ((sc : Int) - 127) }
      | y => y
    let es := (List.range 32).map fun i =>
      FF.e4m3.round mode true (n0 + i) (scale (v.getD i (.fin { neg := false, m := 0, e := 0 })))
    { payload := es.map fun r => BitVec.ofNat 8 r.bits, header := leBytes 1 sc, fl := es.map (·.fl) }

/-- The block of a format (R122, R123). -/
def quantBlock (f : Fmt) (mode : RM) (n0 : Nat) (v : List FV) : BlockRd :=
  match f with
  | .mx8 => quantMx8 mode n0 v
  | _ => quantWb f mode n0 v

/-- Bytes of a bank (R181). -/
def bankSize : Nat := 131072

/-- The fields of a BANKFMT value (R182). -/
structure BankFmt where
  fmt : Fmt
  mode : RM
  sat : Bool
  scaleBase : Nat
  deriving DecidableEq, Repr

/-- The format of a FORMAT code; the reserved codes cannot be held and read as RAW. -/
def Fmt.ofCode (n : Nat) : Fmt :=
  match n with
  | 1 => .f64 | 2 => .f32 | 3 => .bf16 | 4 => .f16 | 5 => .e4m3 | 6 => .e5m2 | 7 => .mx8 | 8 => .wb3 | 9 => .wb5
  | 10 => .wb8 | 11 => .i8 | 12 => .i32 | _ => .raw

/-- The fields of a BANKFMT register value. -/
def BankFmt.of (w : Word) : BankFmt :=
  { fmt := Fmt.ofCode (w.toNat % 16), mode := RM.ofCode (w.toNat / 16 % 8), sat := w.toNat / 128 % 2 == 1
    scaleBase := w.toNat / 256 % 65536 * 64 }

end Sys2Proof
end

