-- ==== Sys2Proof/Config.lean ====
section
/-! DEFINITION. What an implementation fixes and the spec leaves open: the fixed sizes of the part, and the free values,
each an opaque constant with no body, so that no proof can see what it is. -/
namespace Sys2Proof.Config

/-- Working cores of a package (R1). -/
def coresPerPkg : Nat := 512
/-- Bytes of one core's scratchpad (R181). -/
def spadSize : Nat := 2097152
/-- Cycles after which a blocked queue operation raises QUEUE_STALL (R48, R103). -/
def stallLimit : Nat := 1048576
/-- Cycles of a correctable-error freeze (R199). -/
def freezeCycles : Nat := 16
/-- Core cycles of ELAPSED at which the watchdog fires (R178). -/
def watchdogLimit : Nat := 1000000

/-- FREE VALUE (entry 2): what a byte of memory that nothing has written reads as; `epoch` is the wake count of the core
whose scratchpad holds it, 0 elsewhere (R173, R186, R414). -/
opaque freeByte (epoch pa : Nat) : Byte
/-- FREE VALUE (entry 4): a free choice among `n` alternatives, the `k`-th of the run. -/
opaque freeChoice (k n : Nat) : Nat
/-- FREE VALUE (entry 90): how many more corrections are made with the `k`-th one drawn, or in the `k`-th window (R199, R412). -/
opaque freeCorrections (k : Nat) : Nat
/-- FREE VALUE (entry 5): the estimated energy in nJ that a core adds in the cycle of its counter value (R411). -/
opaque freeEnergy (core cycle : Nat) : Word
/-- FREE VALUE (entry 5): a tier's estimated power over an epoch, in tenths of a watt (R409, R411). -/
opaque freePower (tier draw : Nat) : Nat
/-- FREE VALUE (entry 6): the SM3 digest of a partition's device kernel image, of the `k`-th report (R403, R405). -/
opaque kernelDigest (k : Nat) : BitVec 256
/-- FREE VALUE (entry 6): the digests of the Nirust and IOD firmware of a package since its `k`-th boot (R403). -/
opaque firmwareDigests (p k : Nat) : List Byte
/-- FREE VALUE (entry 6): the package's answer to an SPDM request, whose measurement blocks report the partition table, the firmware
and the kernel images (R403). -/
opaque spdmAnswer (req table firmware : List Byte) (kernels : List (Nat × Byte)) : List Byte
/-- FREE VALUE (entry 6): whether a secure session stands after an SPDM request, from whether one stood before (R403). -/
opaque spdmSession (req state : List Byte) (old : Bool) : Bool
/-- FREE VALUE (entry 6): whether an IDE stream is established for a function after an SPDM request, from before (R404). -/
opaque ideStream (req state : List Byte) (f : Nat) (old : Bool) : Bool
/-- FREE VALUE (entry 6): whether a firmware image passes its verification at the `k`-th boot (R403, R418). -/
opaque firmwareGood (k : Nat) : Bool
/-- FREE VALUE (entry 6): whether another step of the `k`-th boot succeeds (R418). -/
opaque bootStepGood (k step : Nat) : Bool
/-- FREE VALUE (entry 3): a byte of a context slot whose place in its section the spec leaves open, the `k`-th drawn (R376). -/
opaque freeImage (k i : Nat) : Byte
/-- FREE VALUE (entry 7): the number of 5 mV steps between nominal and a hamlet's floor, fixed at test (R412). -/
opaque railFloor (hamlet : Nat) : Nat
/-- FREE VALUE (entry 8): the address of the producing word of a NaN that comes back out of a frame entry, which holds no
such address (R118, R371, R372). -/
opaque freeAddress (k : Nat) : BitVec 57

/-- FREE VALUE (entry 9): the automatic frame that the `k`-th frame of a pool backs from partition set-up on, if any (R196). -/
opaque freeFrame (p f k : Nat) : Option Nat

end Sys2Proof.Config
end

