-- ==== Sys2Proof/Machine/Tab.lean ====
section
/-! DEFINITION. Tables: lists of (key, value) pairs with strictly rising keys, the form in which the state keeps cores,
packages, tiles and everything else that is sparse; a missing key stands for the default value. -/
namespace Sys2Proof.Machine

/-- A sparse table by a natural-number key. -/
abbrev Tab (α : Type) := List (Nat × α)

/-- The entry under a key. -/
def Tab.find {α : Type} (t : Tab α) (k : Nat) : Option α :=
  match t with
  | [] => none
  | (j, a) :: r => if j = k then some a else Tab.find r k

/-- The table with the entry of a key set, its keys kept rising. -/
def Tab.put {α : Type} (t : Tab α) (k : Nat) (a : α) : Tab α :=
  match t with
  | [] => [(k, a)]
  | (j, b) :: r =>
    if k < j then (k, a) :: (j, b) :: r
    else if k = j then (k, a) :: r
    else (j, b) :: Tab.put r k a

/-- The table without a key. -/
def Tab.del {α : Type} (t : Tab α) (k : Nat) : Tab α :=
  match t with
  | [] => []
  | (j, b) :: r => if j = k then r else (j, b) :: Tab.del r k

/-- The table with every entry changed. -/
def Tab.mapVal {α : Type} (t : Tab α) (f : α → α) : Tab α := t.map fun x => (x.1, f x.2)

/-- The keys of a table are strictly rising. -/
def Tab.sorted {α : Type} (t : Tab α) : Bool :=
  match t with
  | [] => true
  | (j, _) :: r => (r.all fun x => decide (j < x.1)) && Tab.sorted r

/-- The list with its `k`-th element replaced. -/
def setNth {α : Type} (l : List α) (k : Nat) (a : α) : List α :=
  match l, k with
  | [], _ => []
  | _ :: r, 0 => a :: r
  | b :: r, k + 1 => b :: setNth r k a

/-- The list without its `k`-th element. -/
def dropNth {α : Type} (l : List α) (k : Nat) : List α :=
  match l, k with
  | [], _ => []
  | _ :: r, 0 => r
  | b :: r, k + 1 => b :: dropNth r k

/-- The natural numbers `0 … n - 1`. -/
def upto (n : Nat) : List Nat := List.range n

end Sys2Proof.Machine
end

