-- ==== Sys2Proof/Machine/State.lean ====
section
/-! DEFINITION. The state of the machine as plain data: cores with their two streams and engines, packages, partitions,
memory and everything in flight between them; the reasons a step can stop; the state after reset. -/
namespace Sys2Proof.Machine

/-- Why the machine stops with a fault. -/
inductive Fault where
  /-- Raised by nobody: every event the spec describes, a core stopped by a frame that does not fit among them (R368), is a
  state from which the machine goes on. Safe: no behaviour ends here. -/
  | stuck
  deriving DecidableEq, Repr

/-- Why an instruction is refused. -/
inductive Refusal where
  /-- Raised by an arm of `exec` for an instruction that has no meaning yet. Safe: nothing is claimed of it. -/
  | notModelled (mnemonic : String)
  deriving DecidableEq, Repr

/-- The causes of R362, in the order of their codes. -/
inductive Cause where
  | illegal | wrongStream | priv | misalign | pageFault | perm | ordFault | ue | issueConflict | lendBusy | bankLent
  | queueStall | forwardWait | overlap | param | report | abandonedFill | poisonedTile | selfPark | writeViaSee
  | badHandle | groupAbsent | groupEmpty | groupMemberUe | nanTrap | nonConv | engineDone | swt | sys | thermalSave
  | preemptWatchdog | debug | trimUe | mailNotify
  deriving DecidableEq, Repr

/-- A cause with its INFO (R362). -/
structure Trap where
  cause : Cause
  info : Word
  deriving DecidableEq, Repr

/-- A tile reference: home core (global number), entry and generation (R209). -/
structure TileRef where
  core : Nat
  tile : Nat
  gen : BitVec 16
  deriving DecidableEq, Repr

/-- A group see handle: group, ring, round, and for each member position the slot it covers, none for padding and for a
member absent under SKIP (R236). -/
structure GSee where
  gid : BitVec 12
  ring : Fin 16
  round : Word
  slots : List (Option TileRef)
  deriving DecidableEq, Repr

/-- A handle (R209). -/
inductive Handle where
  | null
  | fill (t : TileRef)
  | see (t : TileRef)
  | gsee (g : GSee)
  deriving DecidableEq, Repr

/-- States of a tile (R206). -/
inductive TileSt where
  | free | filling | published | poisoned
  deriving DecidableEq, Repr

/-- A tile table entry (R206); `parked` lists the accesses in its park list, by their numbers. -/
structure Tile where
  base : Nat
  size : Nat
  st : TileSt
  fill : Bool
  see : Nat
  gen : BitVec 16
  ring : Option (Fin 16)
  parked : List Nat
  deriving DecidableEq, Repr

/-- A core whose `tnext` waits at a ring for its cursor, or whose `gsee` (`cursor` none) waits for a round (R223, R236). -/
structure Reader where
  core : Nat
  cursor : Option Nat
  round : Word
  deriving DecidableEq, Repr

/-- A ring (R220); `waiters` are the cores whose `tclaim` waits at the home, in the order they reached it (R221), `readers` those
whose `tnext` or `gsee` waits for a claim (R223, R236). -/
structure Ring where
  base : Nat
  size : Nat
  slots : List Nat
  c : Nat
  claimed : Word
  arrived : Word
  next : List Word
  closed : Bool
  waiters : List Nat
  readers : List Reader
  deriving DecidableEq, Repr

/-- The twelve operations of R261 other than the formats they act on, and the vector operations of R154. -/
inductive AmoOp where
  | swap | add | and | or | xor | min | max | minu | maxu | fadd | fmin | fmax
  deriving DecidableEq, Repr

/-- What an access does at its home. -/
inductive AccOp where
  | load
  | store (v : Word)
  | amo (op : AmoOp) (v : Word)
  | red (op : AmoOp) (v : Word)
  | cas (old new : Word)
  deriving DecidableEq, Repr

/-- The address a request names: virtual, within the tile of a handle, an offset in the group window, or a local offset of
the core's own scratchpad (R154). -/
inductive ReqAddr where
  | virt (va : Word)
  | loc (off : Nat)
  | tile (h : Handle) (off : Int)
  | group (va : Word)
  deriving DecidableEq, Repr

/-- A request as its word made it, from which a replay issues it again (R262, R373); `ty` is the element's type. -/
structure Req where
  op : AccOp
  addr : ReqAddr
  ty : Ty
  ord : Ord
  zue : Bool
  kernel : Bool
  deriving DecidableEq, Repr

/-- Ordering kinds of an access (R243). -/
inductive Kind where
  | un | rc | so
  deriving DecidableEq, Repr

/-- Where an access lands: the physical byte address of R186 with the package above bit 43, or a place in a tile. -/
inductive Place where
  | phys (pa : Nat)
  | tile (t : TileRef) (off : Nat)
  deriving DecidableEq, Repr

/-- Where the answer of an access goes. -/
inductive Back where
  | nowhere
  | lq (q : Fin 2) (entry : Nat)
  | vlq (q : Fin 2) (entry : Nat) (lane : Nat)
  deriving DecidableEq, Repr

/-- A `fence.rel` that waits: its scope, and the era before which it covers vector accesses (R250, R251). -/
structure Fence where
  scope : Scope
  era : Nat
  deriving DecidableEq, Repr

/-- An access on its way to its home, in the order of issue (R241, R242). `fault` is what its checks recorded instead;
`era` is the era of a vector access at its issue (R251); `parked` says that it waits in a
park list or is held outside one (R215); `barrier` marks a `fence.rel` that later stores wait behind (R250). -/
structure Access where
  id : Nat
  core : Nat
  vec : Bool
  req : Req
  place : Place
  kind : Kind
  acq : Bool
  rel : Bool
  scope : Scope
  back : Back
  fault : Option Trap
  era : Nat
  parked : Bool
  barrier : Option Fence
  deriving DecidableEq, Repr

/-- What a queue entry or one of its lanes holds (R86, R152). -/
inductive Datum where
  | absent
  | value (v : Word)
  | fault (t : Trap)
  | poison (va : Word)
  | zeroed
  deriving DecidableEq, Repr

/-- An entry of lq0 or lq1 with the request it replays (R85, R86). -/
structure LqEntry where
  id : Nat
  datum : Datum
  flags : BitVec 5
  nan : Bool
  req : Req
  deriving DecidableEq, Repr

/-- An entry of vlq0 or vlq1: one datum and one request a lane, `none` for an inactive lane (R95, R152); `nanLane` is the
lowest lane that produced a NaN (R118). -/
structure VlqEntry where
  id : Nat
  lanes : List (Option Datum)
  reqs : List (Option Req)
  flags : BitVec 5
  nan : Bool
  nanLane : Nat
  deriving DecidableEq, Repr

/-- An entry of an address queue: its value once its producer is ready, and the cycles until it can be popped (R60, R94). -/
structure AqEntry where
  value : Word
  left : Nat
  deriving DecidableEq, Repr

/-- The flag register F (R96). -/
structure FReg where
  any : Bool
  all : Bool
  none : Bool
  count : Nat
  deriving DecidableEq, Repr

/-- A loop level (R87). -/
structure Level where
  start : Word
  stop : Word
  count : BitVec 32
  armed : Bool
  deriving DecidableEq, Repr

/-- What a pending vector result is, with the codes of R371's KIND. -/
inductive PKind where
  | v | k | a | f | store | elems | red
  deriving DecidableEq, Repr

/-- A vector result or local store in flight, with the fields of a frame entry (R371) and the stream cycle it is due;
`src` is the address of its word where that is known (R118), `pva` the virtual addresses of the granules that poisoned its
lanes, where they have one (R201); of a store or reduction, `home` is the number of its bank, `runs` the memory keys it writes,
`era` the era of its issue (R251), and `seq` the number of the access that came next (R242). -/
structure PEntry where
  kind : PKind
  reg : Nat
  value : Lanes
  lanes : Mask
  poison : Mask
  due : Nat
  flags : BitVec 5
  nan : Bool
  nanLane : Nat
  src : Option Word
  pva : Tab Word
  offset : Word
  home : Nat
  runs : List (Nat × Nat)
  era : Nat
  seq : Nat
  bank : BitVec 24
  op : Nat
  ty : Ty
  deriving DecidableEq, Repr

/-- A scalar result in flight: the cycles left, which do not count while `waits` names the local load that it waits for
(R46, R50). -/
structure Busy where
  reg : Nat
  left : Nat
  waits : Option Nat
  deriving DecidableEq, Repr

/-- A local load of the control stream that has not had its bank's stream port yet: `id` is the number of the access that came
next, `seq` its number among the stream's local accesses, `acq` says that it acquires, `so` that it is strongly ordered (R50,
R243). -/
structure LLoad where
  id : Nat
  seq : Nat
  off : Nat
  ty : Ty
  bank : Nat
  acq : Bool
  so : Bool
  deriving DecidableEq, Repr

/-- A local store of the control stream in flight (R83, R50); `id` is the number of the access that came next, `so` says that it
is strongly ordered (R243); `seq` is its number among the stream's local accesses, `bank` the bank whose port it still waits
for. -/
structure LStore where
  id : Nat
  so : Bool
  off : Nat
  bytes : List Byte
  left : Nat
  bank : Option Nat
  seq : Nat
  deriving DecidableEq, Repr

/-- What holds a word back in this cycle: queue operations, by their codes (R362, code 11), or any other wait. A word that waits for
several things is blocked on each queue operation among them (R48). -/
inductive Wait where
  | queue (code : Nat) (more : List Nat := [])
  | other
  | rendezvous
  deriving DecidableEq, Repr

/-- A blocking load in flight (R83): its number, its destination, the cycles before which its datum
cannot return (R46), and the INFO that names its handle (R362). -/
structure BlkLoad where
  id : Nat
  d : Nat
  left : Nat
  info : Word
  deriving DecidableEq, Repr

/-- The answer a home gave to a blocking word past its commit point: a handle and a status value (R260, R275). -/
structure Reply where
  handle : Handle
  status : Word
  deriving DecidableEq, Repr

/-- What the last offered word of a stream did. -/
inductive Offer where
  | idle | issued | held | trapped
  deriving DecidableEq, Repr

/-- The control stream of a core (R41). `poison` holds, for a poisoned register, the INFO of the UE it will raise; `words`
the unit fetched at PC, `idle` its IDLE cycles not yet elapsed, both empty until it is fetched; `nan` a NANTRAP to take
before the next word (R56); `qcnt` the cycles for which the stream has been blocked on each queue operation (R48); `drained` the
members at which the ring that a waiting `gsee` names has ended without its round (R236). -/
structure Ctl where
  running : Bool
  pc : Word
  s : Vector Word 32
  poison : Vector (Option Word) 32
  kernel : Bool
  f : FReg
  words : List Word
  idle : Option Nat
  nan : Option Word
  busy : List Busy
  loads : List LLoad
  stores : List LStore
  lseq : Nat
  div : Nat
  lq : Vector (List LqEntry) 2
  blk : Option BlkLoad
  reply : Option Reply
  committed : Bool
  asked : Bool
  drained : List Nat
  wait : Option Wait
  qcnt : Tab Nat
  offer : Offer
  acquire : Option Nat
  shadow : Vector Word 6
  shadowPoison : Vector (Option Word) 6
  h : Vector Handle 16
  deriving DecidableEq, Repr

/-- How the vector stream stands: stopped, running, or held while a handler runs, with a kernel run apart (R369). -/
inductive VRun where
  | stopped | running | held | kernelRun
  deriving DecidableEq, Repr

/-- What a frame has no field for and its return puts back: the stream cycle of the capture, the last users of the two
resources that are not pipelined, and the entries as they were (R91, R118, R372); `next` is the number of the access that came next
(R242). -/
structure VFrame where
  now : Nat
  next : Nat
  divAt : Option Nat
  idxAt : Option Nat
  pend : List PEntry
  deriving DecidableEq, Repr

/-- The vector stream of a core (R87). `pva` holds the virtual addresses behind poisoned lanes, by register × 64 + lane; `trap`
is a trap found at offer that waits (R88), `nan` a NANTRAP to take, in the first cycle after a return if `nanNow` (R372);
`frames` is by the local offset of a frame; `era` counts the rendezvous and completed `vjoin` words so far (R251). -/
structure Vec where
  run : VRun
  pc : Word
  v : Vector Lanes 32
  poison : Vector Mask 32
  pva : Tab Word
  k : Vector Mask 8
  a : Vector Word 12
  loops : Vector Level 4
  aq : Vector (List AqEntry) 4
  vlq : Vector (List VlqEntry) 2
  lent2 : Bool
  lent3 : Bool
  pend : List PEntry
  now : Nat
  words : List Word
  idle : Option Nat
  wait : Option Wait
  qcnt : Tab Nat
  offer : Offer
  divAt : Option Nat
  idxAt : Option Nat
  frames : Tab VFrame
  trap : Option Trap
  nan : Option Word
  nanNow : Bool
  era : Nat
  ports : List Nat
  deriving DecidableEq, Repr

/-- The CSRs of R53 that hold plain data; the numbered families are vectors. CORE is computed from the core's number. -/
structure Csrs where
  fsr : Word
  uvec : Word
  uframe : Word
  ucause : Word
  uinfo : Word
  uie : Word
  bankfmt : Vector Word 16
  pace : Vector Word 6
  mtol : Word
  mitl : Word
  momega : Word
  macc : Word
  mnorm : Word
  mclamp : Word
  mpwl : Word
  mctl : Word
  det : Word
  cycle : Word
  rank : Word
  ncores : Word
  seq : Vector (BitVec 32) 6
  pseq : Vector (BitVec 32) 6
  mres : Word
  miter : Word
  mhist : Word
  uezcount : Word
  eccfreeze : Word
  euse : Word
  kvec : Word
  kframe : Word
  kcause : Word
  kinfo : Word
  udeleg : Word
  ptbase : Word
  ctxid : Word
  preempt : Word
  tenant : Word
  errinj : Word
  deriving DecidableEq, Repr

/-- Carter operations (R304). -/
inductive CarterOp where
  | copy | gath (z : Bool) | scat | fill (b63 : Bool) | put | get | red (op : AmoOp) (ty : Ty) | pin (off : Bool)
  deriving DecidableEq, Repr

/-- What a queue entry's command is (R292). -/
inductive CmdOp where
  | carter (o : CarterOp)
  | mill (m : MillCmd)
  | qwait (m : Fin 6) (v : BitVec 32)
  | qfence (until_ : List (Nat × BitVec 32))
  | qsig
  deriving DecidableEq, Repr

/-- The state a command captures (R352). -/
structure Cap where
  det : Bool
  kernel : Bool
  nantrap : Bool
  mtol : BitVec 32
  mitl : BitVec 16
  momega : BitVec 32
  macc : Bool
  mnorm : Bool
  mclamp : Word
  mpwl : Fin 4
  mctl : BitVec 8
  deriving DecidableEq, Repr

/-- What is ordered before a command (R301): of each queue the numbers up to one, but for some. -/
structure Before where
  upTo : List (Nat × BitVec 32)
  but : List (Nat × BitVec 32)
  deriving DecidableEq, Repr

/-- A command: what it does, its resolved parameters, what its completion does, its issuer, number and handles, its place in
the numbering order across the queues (R302), and the number of the first access of its issuer that it need not wait for, with the
era of the vector accesses that it waits for (R251, R255). -/
structure Cmd where
  op : CmdOp
  p : Params
  i : Bool
  w : Bool
  follow : Option FollowOn
  issuer : Nat
  num : BitVec 32
  order : Nat
  before : Nat
  era : Nat
  cap : Cap
  hfill : Option TileRef
  hsee : Option TileRef
  after : Before
  deriving DecidableEq, Repr

/-- A queue entry: a command, or a chain with the address word of the element to read next, its issuer, its privilege, and
the command of the chain that runs (R296, R297). -/
inductive QEntry where
  | cmd (c : Cmd)
  | chain (next : Word) (issuer : Nat) (kernel : Bool) (before era : Nat) (open_ : Option Word) (cur : Option Cmd) (link : Word)
  deriving DecidableEq, Repr

/-- How far a converting copy has come: the run it reads next, the bytes of that run it has used, the elements it has used of the
unit that follows them, the key of the first byte of that run, and that of its destination (R305, R306). -/
structure Conv where
  run : Nat
  byte : Nat
  skip : Nat
  key : Nat
  dst : Nat
  deriving DecidableEq, Repr

/-- The running state of a queue's head: next chunk or row group, sampled bank formats, the place of a copy that converts, flags and
NaN report so far, whether a zero-on-UE substitution was made, the fault it halted on, whether all its work is done (R306, R310),
the number of the claim that an `m.mmr` has taken (R317), whether a `c.put` has rung its
doorbells (R395), and whether the ring of an `m.mmr` has been deleted (R317). -/
structure Run where
  pos : Nat
  fmts : Tab Word
  conv : Option Conv
  claim : Word
  flags : BitVec 5
  nan : Option Word
  zue : Bool
  halted : Option Trap
  done : Bool
  sent : Nat
  acked : Nat
  claims : Nat
  share : Option TileRef
  indices : List Nat
  touched : List Nat
  members : List Nat
  report : Word
  trace : Word
  nonconv : Bool
  rung : Bool
  ended : Bool
  deriving DecidableEq, Repr

/-- A command pushed under DET.EN = 1 that has started: its queue, its number, its place in the numbering order, and the runs
of bytes of its read and write sets (R301, R302). -/
structure Past where
  q : Nat
  num : BitVec 32
  order : Nat
  reads : List (Nat × Nat)
  writes : List (Nat × Nat)
  deriving DecidableEq, Repr

/-- An engine queue (R292): its entries, the running state of its head, the core cycles since the last start (R294). -/
structure EQueue where
  entries : List QEntry
  run : Option Run
  since : Option Nat
  deriving DecidableEq, Repr

/-- A weight plane: the bytes loaded, bytes beyond them zero, the poisoned elements, the format (R311, R312). -/
structure Plane where
  fmt : Fmt
  payload : List Byte
  headers : List Byte
  bad : List Nat
  deriving DecidableEq, Repr

/-- A piecewise-linear table: 192 FP32 words, words beyond the list zero (R311, R312). -/
structure Pwl where
  words : List (BitVec 32)
  deriving DecidableEq, Repr

/-- The derivative plane (R324). -/
structure Deriv where
  d : List (List (BitVec 32))
  b : Nat
  n : Nat
  plane : Fin 2
  fmt : Fmt
  bad : List Nat
  deriving DecidableEq, Repr

/-- One row of a relaxation (R321). -/
structure RelaxRow where
  z : List (BitVec 32)
  inj : List (BitVec 32)
  fp : List (BitVec 32)
  gp : List (BitVec 32)
  al : List (BitVec 32)
  pr : List (BitVec 32)
  act : Bool
  hist : Bool
  st : Nat
  it : Nat
  res : BitVec 32
  gam : BitVec 32
  deriving DecidableEq, Repr

/-- A relaxation in progress (R321, R325). -/
structure Relax where
  rows : List RelaxRow
  n : Nat
  k : Nat
  fallback : Nat
  res : BitVec 32
  deriving DecidableEq, Repr

/-- The mill (R311): which queue runs (0 mq0, 1 mq1), the relaxation of each, and the chain that reserved this mill. -/
structure Mill where
  planes : Vector Plane 2
  tables : Vector Pwl 4
  deriv : Option Deriv
  relax : Option Relax
  active : Option (Fin 2)
  reservedBy : Option Nat
  deriving DecidableEq, Repr

/-- An engine fault waiting for its issuer: queue of the faulting core, number, c, and the core of the queue (R310, R370). -/
structure EFault where
  core : Nat
  q : Nat
  num : BitVec 32
  c : Nat
  trap : Trap
  deriving DecidableEq, Repr

/-- Pending events of a core (R363), with the latest value of each V cause, in the order of PEND bits 32 to 35. -/
structure Events where
  debug : Bool
  thermal : Bool
  watchdog : Bool
  trimUe : Option Word
  engine : List EFault
  vals : Vector Word 4
  deriving DecidableEq, Repr

/-- Where a core's cycle stands: its results land, then the words of both streams are offered, then the cycle ends. -/
inductive Phase where
  | land | offer | tick
  deriving DecidableEq, Repr

/-- A core that is not running its streams normally. -/
inductive Mode where
  | normal
  | saving (cause : Cause)
  | saved
  | halted
  | haltPending
  | resuming
  | stopped
  | gated
  deriving DecidableEq, Repr

/-- A cached translation: first address and size (in bits) of its page, context, G, and the leaf it was made from (R192). -/
structure TlbEntry where
  va : Nat
  bits : Nat
  ctx : BitVec 16
  glob : Bool
  pte : Word
  deriving DecidableEq, Repr

/-- One core (R41, R87, R206, R219, R292). `landed` and `landedMem` are the bits that hardware has merged into FSR and MEMFLAGS in
this cycle (R117, R254), `fresh` those of `landed` that were clear before, `corrected` says that a correction of this cycle has frozen it (R199). -/
structure Core where
  ctl : Ctl
  vec : Vec
  csr : Csrs
  landed : Word
  fresh : Word
  landedMem : BitVec 5
  corrected : Bool
  queues : Vector EQueue 6
  order : Nat
  past : List Past
  rr : Fin 4
  mill : Mill
  tiles : Tab Tile
  rings : Tab Ring
  boxes : Vector (List Handle) 4
  coming : Vector Nat 4
  tlb : List TlbEntry
  events : Events
  phase : Phase
  mode : Mode
  freeze : Nat
  wakes : Nat
  live : List Nat
  start : Nat
  task : Bool
  lost : Option Word
  elapsed : Bool
  lastPush : Vector (BitVec 32) 6
  debugSel : Word
  deriving DecidableEq, Repr

/-- A context slot (R376): its header, its image below 0x1_0000 as a core's state, its ring area, the 256-byte blocks written
so far. `home` is the core that was saved, `gang` the cores of its slice in rank order, `at_` the memory key of the slot, `bad` the
local offsets of the poisoned granules of the scratchpad in it (entry 3). -/
structure CtxSlot where
  state : Nat
  rank : Nat
  cause : Word
  slice : BitVec 32
  tenant : Word
  image : Option Core
  rings : Tab Ring
  written : Nat
  home : Nat
  gang : List Nat
  at_ : Nat
  bad : List Nat
  deriving DecidableEq, Repr

/-- A partition entry's fields (R386). -/
structure PEntryTab where
  valid : Bool
  err : Bool
  klaunch : Bool
  tier : Fin 4
  tag : BitVec 32
  ncores : Word
  ptbase : Word
  ctxid : Word
  kvec : Word
  kframe : Word
  coreset : BitVec 512
  slotsCw : BitVec 256
  slotsCcw : BitVec 256
  membase : Word
  memsize : Word
  ctxbase : Word
  btbase : Word
  btblocks : Word
  poolbase : Word
  poolframes : Word
  deriving DecidableEq, Repr

/-- An inbound window entry (R394). -/
structure Window where
  base : Word
  size : Word
  va : Word
  doorbell : Word
  ptbase : Word
  ctxid : Word
  deriving DecidableEq, Repr

/-- An MSI-X table entry with its pending bit and the events held by coalescing (R398, R399). -/
structure Msix where
  addr : Word
  data : BitVec 32
  masked : Bool
  pending : Bool
  holding : Bool
  held : Nat
  deriving DecidableEq, Repr

/-- TDISP interface states (R404, R406). -/
inductive Tdi where
  | unlocked | locked | run | error
  deriving DecidableEq, Repr

/-- A PCI Express function: registers, submissions, MSI-X, TDISP (R398 to R406). -/
structure Func where
  subs : List Word
  ovf : Bool
  coreErr : Bool
  coalCount : BitVec 16
  coalInterval : BitVec 16
  errCause : BitVec 8
  errCore : BitVec 9
  msix : Tab Msix
  tdi : Tdi
  ide : Bool
  session : Bool
  bar0 : Word
  bar2 : Word
  report : List Byte
  part : PEntryTab
  windows : Tab Window
  deriving DecidableEq, Repr

/-- A hamlet's power and sensor state (R412 to R416); the rail counts 5 mV steps below nominal; `noLower`
counts the windows in which it is not lowered; `recent` holds the samples of the last second, the newest first (R416); `ue` says that an uncorrectable
error arose below nominal and the controller has not acted yet (R413). -/
structure Hamlet where
  ue : Bool
  gated : Bool
  hold : Bool
  request : Bool
  rail : Nat
  safe : Nat
  corrections : Nat
  noLower : Nat
  failed : Bool
  tl : Int
  td : Int
  recent : List SensorReading
  deriving DecidableEq, Repr

/-- A die's swap engine, trips and shared translation cache (R192, R196, R197, R415). `place` maps a frame number to its
backing frame, `counts` and `pins` are by frame number, `pool` lists the free backing frames. -/
structure Die where
  place : Tab Nat
  counts : Tab Nat
  pins : Tab (BitVec 16)
  pool : List Nat
  swapping : Option (Nat × Nat)
  plan : List (Nat × Nat)
  cache : List TlbEntry
  warn : Bool
  trip1 : Bool
  trip2 : Bool
  trip3 : Bool
  halted : Bool
  deriving DecidableEq, Repr

/-- A block of the block-table store (R194). -/
structure BtStore where
  keys : Tab Nat
  counts : Tab Nat
  deriving DecidableEq, Repr

/-- A package (R386 to R418). `routes` is the route table of its IOD: for each node number the link of the one path to it (R389). -/
structure Pkg where
  on : Bool
  inReset : Bool
  nodeid : Word
  funcs : Tab Func
  bt : Tab BtStore
  hamlets : Vector Hamlet 32
  dies : Vector Die 4
  pcap : BitVec 16
  tfloor : Vector (BitVec 16) 4
  interval : Vector Nat 4
  held : Vector Bool 4
  trimue : BitVec 8
  routes : Tab (Fin 18)
  replays : Vector Nat 18
  linkDown : Vector Bool 18
  boots : Nat
  hostWrites : List Nat
  out : List (Word × List Byte)
  deriving DecidableEq, Repr

/-- A group descriptor (R227). -/
structure Group where
  members : List (BitVec 32)
  skip : Bool
  acc : Nat
  op : Nat
  deriving DecidableEq, Repr

/-- A preparation entry as read at submission (R172). -/
inductive Prep where
  | image (rank : Option Nat) (dst : Nat) (bytes : List Byte)
  | bankfmt (rank : Option Nat) (bank : Fin 16) (v : Word)
  deriving DecidableEq, Repr

/-- A launch record as read at submission (R162). -/
structure Launch where
  addr : Word
  entry : Word
  frame : Word
  n : Nat
  levels : List Word
  flags : BitVec 8
  msivec : Nat
  caddr : Word
  qbase : Word
  slice : BitVec 32
  prep : List Prep
  pkg : Nat
  func : Fin 64
  deriving DecidableEq, Repr

/-- A partition at run time, across its packages (R104, R176, R227, R254). -/
structure Part where
  launch : Option Launch
  started : Bool
  groups : Tab Group
  memflags : BitVec 5
  slots : Tab CtxSlot
  deriving DecidableEq, Repr

/-- What the leaf of a group load gave (R231, R235): a value in the accumulation type, an absent member, a leaf fault. -/
inductive Leaf where
  | unread
  | empty
  | value (v : Word)
  | absent
  | fault (t : Trap)
  deriving DecidableEq, Repr

/-- Where the root of a group load goes. -/
inductive GDest where
  | blocking
  | queue (b : Back)
  deriving DecidableEq, Repr

/-- A group load in flight (R230, R238): its descriptor as read at issue, offset of each member's leaf, leaves so far;
`era` as for an access (R251), `fault` what its checks recorded instead, `kernel` the privilege it was made at (R369). -/
structure GLoad where
  id : Nat
  core : Nat
  vec : Bool
  kernel : Bool
  era : Nat
  fault : Option Trap
  group : Group
  x : Nat
  ty : Ty
  dest : GDest
  see : Option GSee
  slots : List (Option Nat)
  leaves : List Leaf
  flags : BitVec 5
  nan : Bool
  deriving DecidableEq, Repr

/-- A message between cores: drops of handles and handles sent to a mailbox (R214, R216, R219); `before` is the number of
the first access that the message need not wait for; `poison` says that the fill is abandoned (R218). -/
inductive Msg where
  | fillDrop (t : TileRef) (core : Nat) (before : Nat) (poison : Bool)
  | seeDrop (t : TileRef) (core : Nat) (before : Nat)
  | handle (src dst : Nat) (box : Fin 4) (h : Handle) (notify : Bool) (before : Nat)
  deriving DecidableEq, Repr

/-- A fence token under way behind a release, with the stops it has still to pass (R257). -/
structure Token where
  core : Nat
  before : Nat
  scope : Scope
  stops : List Nat
  deriving DecidableEq, Repr

/-- A flit on the die ring: its source and destination stop and where it stands (R384, R385). -/
structure Flit where
  at_ : Nat
  dst : Nat
  cw : Bool
  access : Nat
  deriving DecidableEq, Repr

/-- A remote chunk under way (R340, R393 to R396); `seq` is its number among the requests of its core (R390). -/
structure Chunk where
  seq : Nat
  src : Nat
  q : Fin 4
  target : Nat
  put : Bool
  offset : Nat
  bytes : List Byte
  bad : List Nat
  dst : Nat
  c : Nat
  last : Bool
  resends : Nat
  performed : Bool
  deriving DecidableEq, Repr

/-- What the machine does next: a core goes on with its cycle, or an event takes place. -/
inductive Move where
  | core (c : Nat)
  | event (i : Instr)
  deriving DecidableEq, Repr, Inhabited

end Sys2Proof.Machine

namespace Sys2Proof.Config
/-- FREE VALUE (entry 4): the `k`-th move of a run where the agenda names none. -/
opaque freeMove (k : Nat) : Machine.Move
end Sys2Proof.Config

namespace Sys2Proof.Machine

/-- The whole machine. `cores` and `pkgs` by their numbers, a missing core in the state of `Core.reset`; `mem` by physical
address with the package above bit 43; `poison` the first bytes of poisoned granules; `oldWords` words replaced by stores,
with the word they held and the number of the access that came next (R44); `agenda`, `draws` and `cur` are the model's own (entry 4). -/
structure State where
  cores : Tab Core
  pkgs : Tab Pkg
  parts : Tab Part
  mem : List Host.Cell
  poison : List Nat
  oldWords : List (Nat × Word × Nat)
  flight : List Access
  gloads : List GLoad
  msgs : List Msg
  tokens : List Token
  flits : List Flit
  chunks : List Chunk
  hostOut : List (Nat × Word × List Byte)
  nextId : Nat
  draws : Nat
  cur : Nat
  agenda : List Move
  deriving DecidableEq, Repr

/-- A vector of `n` equal elements, in a form that evaluates on numerals. -/
def rep (n : Nat) {α : Type} (a : α) : Vector α n := Vector.replicate n a

/-- Lanes of zeros. -/
def Lanes.zero : Lanes := rep 64 0

/-- The control stream at rest, with the values R42 gives a gang start (entry 1). -/
def Ctl.reset : Ctl :=
  { running := false, pc := 0, s := rep 32 0, poison := rep 32 none, kernel := false
    f := { any := false, all := true, none := true, count := 0 }
    words := [], idle := none, nan := none, busy := [], loads := [], stores := [], lseq := 0, div := 0, lq := rep 2 [], blk := none, reply := none
    committed := false, asked := false, drained := [], wait := none, qcnt := [], offer := .idle, acquire := none, shadow := rep 6 0
    shadowPoison := rep 6 none, h := rep 16 .null }

/-- The vector stream at rest (R87, entry 1). -/
def Vec.reset : Vec :=
  { run := .stopped, pc := 0, v := rep 32 Lanes.zero, poison := rep 32 0, pva := [], k := rep 8 0, a := rep 12 0
    loops := rep 4 { start := 0, stop := 0, count := 0, armed := false }
    aq := rep 4 [], vlq := rep 2 [], lent2 := false, lent3 := false, pend := [], now := 0, words := [], idle := none
    wait := none, qcnt := [], offer := .idle, divAt := none, idxAt := none, frames := [], trap := none, nan := none
    nanNow := false, era := 0, ports := [] }

/-- Every CSR at the Reset column of R53: 0. -/
def Csrs.reset : Csrs :=
  { fsr := 0, uvec := 0, uframe := 0, ucause := 0, uinfo := 0, uie := 0, bankfmt := rep 16 0, pace := rep 6 0
    mtol := 0, mitl := 0, momega := 0, macc := 0, mnorm := 0, mclamp := 0, mpwl := 0, mctl := 0, det := 0
    cycle := 0, rank := 0, ncores := 0, seq := rep 6 0, pseq := rep 6 0, mres := 0, miter := 0, mhist := 0
    uezcount := 0, eccfreeze := 0, euse := 0, kvec := 0, kframe := 0, kcause := 0, kinfo := 0, udeleg := 0
    ptbase := 0, ctxid := 0, preempt := 0, tenant := 0, errinj := 0 }

/-- An empty engine queue (R292). -/
def EQueue.reset : EQueue := { entries := [], run := none, since := none }

/-- The mill after package reset: FP32 zeros, zero tables, no derivative plane (R311). -/
def Mill.reset : Mill :=
  { planes := rep 2 { fmt := .f32, payload := [], headers := [], bad := [] }
    tables := rep 4 { words := [] }, deriv := none, relax := none, active := none, reservedBy := none }

/-- No event pending. -/
def Events.reset : Events :=
  { debug := false, thermal := false, watchdog := false, trimUe := none, engine := [], vals := rep 4 0 }

/-- A tile table entry that is FREE, with generation 0 (R206, entry 1). -/
def Tile.reset : Tile :=
  { base := 0, size := 0, st := .free, fill := false, see := 0, gen := 0, ring := none, parked := [] }

/-- A core after package reset. -/
def Core.reset : Core :=
  { ctl := .reset, vec := .reset, csr := .reset, landed := 0, fresh := 0, landedMem := 0, corrected := false
    queues := rep 6 .reset, order := 0, past := [], rr := 3, mill := .reset
    tiles := [], rings := [], boxes := rep 4 [], coming := rep 4 0, tlb := [], events := .reset, phase := .land
    mode := .gated, freeze := 0, wakes := 0, live := [], start := 0, task := false, lost := none
    elapsed := false, lastPush := rep 6 0, debugSel := 0 }

/-- A partition entry with every field 0 (entry 1). -/
def PEntryTab.reset : PEntryTab :=
  { valid := false, err := false, klaunch := false, tier := 0, tag := 0, ncores := 0, ptbase := 0, ctxid := 0, kvec := 0
    kframe := 0, coreset := 0, slotsCw := 0, slotsCcw := 0, membase := 0, memsize := 0, ctxbase := 0, btbase := 0
    btblocks := 0, poolbase := 0, poolframes := 0 }

/-- A function after reset (R398). -/
def Func.reset : Func :=
  { subs := [], ovf := false, coreErr := false, coalCount := 0, coalInterval := 0, errCause := 0
    errCore := 0, msix := [], tdi := .unlocked, ide := false, session := false, bar0 := 0, bar2 := 0, report := []
    part := .reset, windows := [] }

/-- A hamlet after reset: gated, at nominal voltage, its sensor working (R418, entry 1). -/
def Hamlet.reset : Hamlet :=
  { ue := false, gated := true, hold := false, request := false, rail := 0, safe := 0, corrections := 0, noLower := 0
    failed := false, tl := 250, td := 250, recent := [] }

/-- A die after reset (R417, entry 1). -/
def Die.reset : Die :=
  { place := [], counts := [], pins := [], pool := [], swapping := none, plan := [], cache := [], warn := false
    trip1 := false, trip2 := false, trip3 := false, halted := false }

/-- A package after a package reset that has run through R418. -/
def Pkg.reset : Pkg :=
  { on := true, inReset := false, nodeid := 0, funcs := [], bt := [], hamlets := rep 32 .reset, dies := rep 4 .reset
    pcap := 1650, tfloor := rep 4 0, interval := rep 4 0, held := rep 4 false, trimue := 0, routes := []
    replays := rep 18 0, linkDown := rep 18 false, boots := 0, hostWrites := [], out := [] }

/-- A partition without a launch. -/
def Part.reset : Part := { launch := none, started := false, groups := [], memflags := 0, slots := [] }

/-- The machine after reset: one package, all its cores in the state of `Core.reset`, memory with nothing listed. -/
def State.reset : State :=
  { cores := [], pkgs := [(0, .reset)], parts := [], mem := [], poison := [], oldWords := [], flight := [], gloads := []
    msgs := [], tokens := [], flits := [], chunks := [], hostOut := [], nextId := 0, draws := 0, cur := 0, agenda := [] }

end Sys2Proof.Machine
end

