-- ==== Sys2Proof/Machine/Mem.lean ====
section
/-! DEFINITION. Memory: the physical map of R186, bytes in canonical form, poisoned granules (R199, R201), and the lookup
of cores and packages in the state's tables. -/
namespace Sys2Proof.Machine

/-- Core `c`; a core that is not listed is in its reset state. -/
def State.core (s : State) (c : Nat) : Core := (s.cores.find c).getD .reset
/-- The state with core `c` replaced. -/
def State.setCore (s : State) (c : Nat) (x : Core) : State := { s with cores := s.cores.put c x }
/-- The state with core `c` changed. -/
def State.modCore (s : State) (c : Nat) (f : Core → Core) : State := s.setCore c (f (s.core c))
/-- The package of a core. -/
def pkgOf (c : Nat) : Nat := c / 512
/-- The index of a core in its package: DIE × 128 + HAMLET × 16 + SLOT (R186). -/
def idxOf (c : Nat) : Nat := c % 512
/-- The die of a core. -/
def dieOf (c : Nat) : Nat := idxOf c / 128
/-- The hamlet of a core, 0 to 31 in its package. -/
def hamletOf (c : Nat) : Nat := idxOf c / 16
/-- Package `p`, if there is one. -/
def State.pkg? (s : State) (p : Nat) : Option Pkg := s.pkgs.find p
/-- Package `p`; a package that is not there reads as a reset one. -/
def State.pkg (s : State) (p : Nat) : Pkg := (s.pkg? p).getD .reset
/-- The state with package `p` replaced. -/
def State.setPkg (s : State) (p : Nat) (x : Pkg) : State := { s with pkgs := s.pkgs.put p x }
/-- The state with package `p` changed, if it is there. -/
def State.modPkg (s : State) (p : Nat) (f : Pkg → Pkg) : State :=
  match s.pkg? p with
  | some x => s.setPkg p (f x)
  | none => s
/-- Function `f` of a package. -/
def Pkg.func (p : Pkg) (f : Nat) : Func := (p.funcs.find f).getD .reset
/-- The state with function `f` of package `p` changed. -/
def State.modFunc (s : State) (p f : Nat) (g : Func → Func) : State :=
  s.modPkg p fun x => { x with funcs := x.funcs.put f (g (x.func f)) }
/-- MEMBER of a package's NODEID (R388). -/
def Pkg.member (p : Pkg) : Nat := p.nodeid.toNat % 4096
/-- DOMAIN of a package's NODEID (R388). -/
def Pkg.domain (p : Pkg) : Nat := p.nodeid.toNat / 4096 % 512

/-- A package that stands in a list of packages under a node number of a domain. -/
def findNode (l : Tab Pkg) (dom node : Nat) : Option Nat :=
  match l with
  | [] => none
  | (p, x) :: r => if x.on ∧ x.domain = dom ∧ x.member = node then some p else findNode r dom node

/-- The link of the live route of a package to a node, if its table has one and the link is up (R389, R391). -/
def Pkg.route (x : Pkg) (node : Nat) : Option (Fin 18) :=
  match x.routes.find node with
  | some l => if x.linkDown[l] then none else some l
  | none => none
/-- The package that node number `node` names as seen from package `p`: its own, or one of its domain to which a route is
live (R186, R389, R391). -/
def State.nodePkg (s : State) (p node : Nat) : Option Nat :=
  let own := s.pkg p
  if own.member = node then some p
  else match own.route node with
    | some _ => findNode s.pkgs own.domain node
    | none => none

/-- What a range of PA[43:0] holds (R186). -/
inductive Region where
  | stacked | spad | tier2 | auto | cxl | host | empty
  deriving DecidableEq, Repr
/-- The region of an offset within a node (R186). -/
def regionOf (o : Nat) : Region :=
  if o < 0x20_0000_0000 then .stacked
  else if o < 0x20_4000_0000 then .spad
  else if o < 0x100_0000_0000 then .empty
  else if o < 0x280_0000_0000 then .tier2
  else if o < 0x400_0000_0000 then .empty
  else if o < 0x800_0000_0000 then .auto
  else if o < 0xC00_0000_0000 then .cxl
  else .host

/-- The bytes of a node's address range: PA[43:0]. -/
def nodeSize : Nat := 0x1000_0000_0000
/-- A memory key: the package above PA[43:0]. -/
def key (p o : Nat) : Nat := p * nodeSize + o
/-- First offset of the scratchpad range. -/
def spadStart : Nat := 0x20_0000_0000
/-- The memory key of a local offset of a core's scratchpad. -/
def spadKey (c off : Nat) : Nat := key (pkgOf c) (spadStart + idxOf c * Config.spadSize + off)
/-- The core whose scratchpad holds a key, if one does. -/
def spadOwner (k : Nat) : Option Nat :=
  match regionOf (k % nodeSize) with
  | .spad => some (k / nodeSize * 512 + (k % nodeSize - spadStart) / Config.spadSize)
  | _ => none
/-- The local offset of a scratchpad key. -/
def spadOff (k : Nat) : Nat := (k % nodeSize - spadStart) % Config.spadSize
/-- The core whose vault holds a key of stacked DRAM (R186). -/
def vaultOwner (k : Nat) : Option Nat :=
  match regionOf (k % nodeSize) with
  | .stacked => some (k / nodeSize * 512 + k % nodeSize / 0x1000_0000)
  | _ => none

/-! ## Bytes -/

/-- The byte listed at a key. -/
def cellAt (m : List Host.Cell) (k : Nat) : Option Byte :=
  match m with
  | [] => none
  | (j, b) :: r => if j = k then some b else cellAt r k
/-- Bytes with their keys, from a first key on. -/
def enumFrom (k : Nat) : List Byte → List Host.Cell
  | [] => []
  | b :: r => (k, b) :: enumFrom (k + 1) r
/-- The cells below a key. -/
def cellsBelow (m : List Host.Cell) (k : Nat) : List Host.Cell := m.filter fun x => decide (x.1 < k)
/-- The cells from a key on. -/
def cellsFrom (m : List Host.Cell) (k : Nat) : List Host.Cell := m.filter fun x => decide (k ≤ x.1)
/-- The cells with a run of bytes written: the cells below, the run, the cells above. -/
def writeCells (m : List Host.Cell) (k : Nat) (bs : List Byte) : List Host.Cell :=
  cellsBelow m k ++ enumFrom k bs ++ cellsFrom m (k + bs.length)
/-- The canonical form of memory: keys strictly rising. An unlisted byte has no fixed value that an entry could equal: it
reads as a free value (entry 2). -/
def Memory.wf (m : List Host.Cell) : Bool := Tab.sorted m

/-- The wake count that names the contents of a byte nothing has written (entry 2). -/
def State.epoch (s : State) (k : Nat) : Nat :=
  match spadOwner k with
  | some c => (s.core c).wakes
  | none => 0
/-- One byte. -/
def State.readByte (s : State) (k : Nat) : Byte := (cellAt s.mem k).getD (Config.freeByte (s.epoch k) k)
/-- `n` bytes from a key on. -/
def State.readBytes (s : State) (k n : Nat) : List Byte := (upto n).map fun i => s.readByte (k + i)
/-- A little-endian number of `n` bytes. -/
def State.readNat (s : State) (k n : Nat) : Nat := leNat (s.readBytes k n)
/-- An 8-byte word. -/
def State.readWord (s : State) (k : Nat) : Word := BitVec.ofNat 64 (s.readNat k 8)

/-- Bytes of a granule: 8 in scratchpad, 64 elsewhere (R199). -/
def granuleSize (k : Nat) : Nat := match regionOf (k % nodeSize) with | .spad => 8 | _ => 64
/-- The first byte of the granule of a byte. -/
def granuleOf (k : Nat) : Nat := k / granuleSize k * granuleSize k
/-- The first poisoned byte's granule that `n` bytes from `k` touch. -/
def State.poisonAt (s : State) (k n : Nat) : Option Nat :=
  s.poison.find? fun g => decide (g < k + n ∧ k < g + granuleSize g)
/-- Do `n` bytes from `k` touch a poisoned granule? -/
def State.poisoned (s : State) (k n : Nat) : Bool := (s.poisonAt k n).isSome
/-- The state with the granule of a byte poisoned (R201). -/
def State.poisonGranule (s : State) (k : Nat) : State :=
  if s.poison.contains (granuleOf k) then s else { s with poison := granuleOf k :: s.poison }
/-- The state with every granule that a run touches poisoned, as an engine writes poison (R201). -/
def State.poisonRun (s : State) (k : Nat) : Nat → State
  | 0 => s
  | n + 1 => (s.poisonRun k n).poisonGranule (k + n)

/-- Does a list of runs cover a byte? -/
def covers {α : Type} (rs : List (Nat × List α)) (k : Nat) : Bool := rs.any fun r => decide (r.1 ≤ k ∧ k < r.1 + r.2.length)
/-- The words that a run touches, with what they hold before it, for the fetches of R44. -/
def State.wordsOf (s : State) (k n : Nat) : List (Nat × Word × Nat) :=
  (upto ((k % 8 + n + 7) / 8)).map fun i => (k / 8 * 8 + 8 * i, s.readWord (k / 8 * 8 + 8 * i), s.nextId)

/-- One write of several runs of bytes, the later ones over the earlier: the bytes change, a granule that the write covers
whole loses its poison (R201), and the words replaced are remembered for fetches (R44). -/
def State.writeRuns (s : State) (rs : List (Nat × List Byte)) : State :=
  { s with
    mem := rs.foldl (fun m r => writeCells m r.1 r.2) s.mem
    poison := s.poison.filter fun g => !((upto (granuleSize g)).all fun i => covers rs (g + i))
    oldWords := rs.foldl (fun o r => s.wordsOf r.1 r.2.length ++ o) s.oldWords }
/-- A write of one run. -/
def State.write (s : State) (k : Nat) (bs : List Byte) : State := s.writeRuns [(k, bs)]
/-- A write of a number of `n` bytes. -/
def State.writeNat (s : State) (k n v : Nat) : State := s.write k (leBytes n v)

/-! ## Corrections and injected errors -/

/-- The die that manages a frame number of a package (R196). -/
def State.frameDie (s : State) (p f : Nat) : Die := (s.pkg p).dies.toList.getD (f % 4) .reset
/-- The frame number of a key of the automatic range. -/
def frameOf (k : Nat) : Nat := k % nodeSize / 65536 % 2 ^ 26
/-- The key at which a datum stands in a vault or the second tier: of an automatic frame, that of its backing (R196). -/
def State.backing (s : State) (k : Nat) : Nat :=
  match regionOf (k % nodeSize) with
  | .auto => match (s.frameDie (k / nodeSize) (frameOf k)).place.find (frameOf k) with
    | some a => key (k / nodeSize) (a + k % 65536)
    | none => k
  | _ => k
/-- The hamlet whose scratchpads or vaults hold a key, as package and index; behind an automatic frame, that of its backing
(R413). -/
def State.hamletAt (s : State) (k : Nat) : Option (Nat × Nat) :=
  match spadOwner k, vaultOwner (s.backing k) with
  | some c, _ => some (pkgOf c, hamletOf c)
  | none, some c => some (pkgOf c, hamletOf c)
  | none, none => none
/-- The state with hamlet `h` of package `p` changed. -/
def State.modHamlet (s : State) (p h : Nat) (f : Hamlet → Hamlet) : State :=
  s.modPkg p fun x => { x with hamlets := x.hamlets.set! h (f (x.hamlets.toList.getD h .reset)) }
/-- A correction counted in the window of a hamlet; the ninth raises the rail by one step (R412). -/
def Hamlet.count (h : Hamlet) : Hamlet :=
  { h with corrections := h.corrections + 1, rail := if h.corrections + 1 = 9 then h.rail - 1 else h.rail }
/-- `n` corrections counted in the window of a hamlet (R412). -/
def Hamlet.countMany (n : Nat) (h : Hamlet) : Hamlet :=
  { h with corrections := h.corrections + n
           rail := if h.corrections < 9 ∧ 9 ≤ h.corrections + n then h.rail - 1 else h.rail }
/-- A correction at a key. -/
def State.countCorrection (s : State) (k : Nat) : State :=
  match s.hamletAt k with
  | some h => s.modHamlet h.1 h.2 Hamlet.count
  | none => s
/-- An uncorrectable error at a key: its granule is poisoned (R201), and a hamlet below nominal voltage has the controller act
(R413). -/
def State.breakGranule (s : State) (k : Nat) : State :=
  let t := s.poisonGranule k
  match s.hamletAt k with
  | some h => t.modHamlet h.1 h.2 fun x => if x.rail = 0 then x else { x with ue := true }
  | none => t

/-- A correctable error at a core: it freezes for 16 cycles, after the freeze it is in; all those of one cycle cause one freeze
(R199). -/
def Core.correct (c : Core) : Core :=
  if c.corrected then c else { c with freeze := c.freeze + Config.freezeCycles, corrected := true }
/-- The injection of R205 that is armed for a target. -/
def Core.armed (c : Core) (target : Nat) : Bool :=
  c.csr.errinj.toNat % 2 == 1 && c.csr.errinj.toNat / 8 == target
/-- ARM cleared. -/
def Core.disarm (c : Core) : Core := { c with csr := { c.csr with errinj := c.csr.errinj &&& ~~~1 } }
/-- A data read through a target of a core's ERRINJ: an armed injection fires. KIND 1 poisons the granule read; KIND 0
freezes the core at its own ports (R205, R199). -/
def State.fire (s : State) (c target k : Nat) (freezes : Bool) : State :=
  let x := s.core c
  if x.armed target then
    let s := s.setCore c x.disarm
    if x.csr.errinj.toNat / 2 % 4 = 1 then s.breakGranule k
    else if freezes then (s.modCore c Core.correct).countCorrection k else s.countCorrection k
  else s
/-- A read by a core's own stream at a local offset. -/
def State.onLocalRead (s : State) (c k : Nat) : State := s.fire c 0 k true
/-- Any other data read, issued by core `c`: at an engine port, from stacked DRAM or from the second tier, a frame of the automatic
range from its backing; `feed` says that the vault feed of the core performs it. -/
def State.onRead (s : State) (c k : Nat) (feed : Bool := false) : State :=
  match regionOf (s.backing k % nodeSize) with
  | .spad => match spadOwner k with
    | some h => s.fire h 1 k true
    | none => s
  | .stacked => s.fire c 2 k feed
  | .tier2 => s.fire c 3 k false
  | _ => s

end Sys2Proof.Machine
end

