-- ==== Sys2Proof/Machine/Translate.lean ====
section
/-! DEFINITION. Translation: the page-table walk of R188 to R190, the translation caches of R192, the checks of R58 and
R185 on a page, and the places that no access reaches (R186, R196, R369, R391). -/
namespace Sys2Proof.Machine

/-- What an access needs of a page. -/
structure Need where
  r : Bool
  w : Bool
  x : Bool
  deriving DecidableEq, Repr
/-- A load. -/
def Need.load : Need := { r := true, w := false, x := false }
/-- A store. -/
def Need.store : Need := { r := false, w := true, x := false }
/-- An atomic, which reads and writes. -/
def Need.both : Need := { r := true, w := true, x := false }
/-- An instruction fetch. -/
def Need.fetch : Need := { r := false, w := false, x := true }

/-- Bit `n` of a page-table entry. -/
def pteBit (e : Word) (n : Nat) : Bool := e.getLsbD n
/-- PA[55:16] of an entry, as an address. -/
def ptePa (e : Word) : Nat := e.toNat / 65536 * 65536 % 2 ^ 56
/-- TIER of an entry. -/
def pteTier (e : Word) : Nat := e.toNat / 512 % 4
/-- ORD of an entry. -/
def pteOrd (e : Word) : Nat := e.toNat / 32 % 4
/-- Is the TIER the one that the range of R186 requires (R190)? -/
def tierOk (tier : Nat) (r : Region) : Bool :=
  match r with
  | .auto => tier == 0
  | .stacked | .spad => tier == 1
  | .tier2 => tier == 2
  | .cxl | .host => tier == 3
  | .empty => false

/-- What one entry of a walk says (R190). -/
inductive PteStep where
  | bad
  | next
  | leaf
  deriving DecidableEq, Repr
/-- The checks of R190 on the entry of a level. -/
def pteCheck (level : Nat) (e : Word) : PteStep :=
  if !pteBit e 0 then .bad
  else if e.toNat / 2 ^ 56 ≠ 0 ∨ e.toNat / 2 ^ 12 % 16 ≠ 0 then .bad
  else if pteBit e 8 then
    if level = 1 then .bad
    else if pteBit e 2 && !pteBit e 1 then .bad
    else if level = 3 ∧ ptePa e % 2 ^ 26 ≠ 0 then .bad
    else if level = 2 ∧ ptePa e % 2 ^ 36 ≠ 0 then .bad
    else if tierOk (pteTier e) (regionOf (ptePa e % nodeSize)) then .leaf else .bad
  else if level = 4 then .bad
  else if e.toNat % 4096 / 2 ≠ 0 then .bad else .next

/-- Is a frame of a swap engine's pool named directly (R196)? -/
def Pkg.inPool (x : Pkg) (o n : Nat) : Bool :=
  x.funcs.any fun f =>
    f.2.part.valid &&
      decide (o < f.2.part.poolbase.toNat % nodeSize + 65536 * f.2.part.poolframes.toNat
        ∧ f.2.part.poolbase.toNat % nodeSize < o + n)

/-- What an offset within package `q` itself says to an access of `n` bytes: PAGE_FAULT where nothing lies, or behind an automatic
frame without backing, PERM in a frame of a pool (R186, R196). -/
def State.reserved (s : State) (q o n : Nat) : Option Cause :=
  match regionOf o with
  | .empty => some .pageFault
  | .auto => if ((s.frameDie q (o / 65536 % 2 ^ 26)).place.find (o / 65536 % 2 ^ 26)).isSome then none else some .pageFault
  | .stacked | .tier2 => if (s.pkg q).inPool o n then some .perm else none
  | .spad | .cxl | .host => none

/-- How a walk ends: a leaf with the size of its page in bits, a fault, a table that may not be read, a poisoned entry, an
unreachable node. -/
inductive Walk where
  | leaf (bits : Nat) (pte : Word)
  | fault
  | denied
  | poison
  | absent (node : Nat)
  deriving DecidableEq, Repr

/-- The index bits of a level: its lowest bit and its width (R188). -/
def levelBits (level : Nat) : Nat × Nat :=
  match level with
  | 1 => (46, 11) | 2 => (36, 10) | 3 => (26, 10) | _ => (16, 10)

/-- A walk from the table of a level on, at a 56-bit physical address; `fuel` levels remain (R188). -/
def State.walkFrom (s : State) (p va : Nat) : Nat → Nat → Nat → Walk
  | 0, _, _ => .fault
  | fuel + 1, level, table =>
    match s.nodePkg p (table / nodeSize) with
    | none => .absent (table / nodeSize)
    | some q =>
      let lb := levelBits level
      let k := key q (table % nodeSize + 8 * (va / 2 ^ lb.1 % 2 ^ lb.2))
      match s.reserved q (k % nodeSize) 8 with
      | some .perm => .denied
      | some _ => .fault
      | none =>
        if s.poisoned k 8 then .poison
        else
          let e := s.readWord k
          match pteCheck level e with
          | .bad => .fault
          | .leaf => .leaf lb.1 e
          | .next => s.walkFrom p va fuel (level + 1) (ptePa e)

/-- A walk from a PTBASE value (R188). -/
def State.walk (s : State) (p : Nat) (ptbase : Word) (va : Nat) : Walk := s.walkFrom p va 4 1 (ptePa ptbase)

/-- Does a cached translation serve an address in a context (R192)? -/
def TlbEntry.hits (e : TlbEntry) (va : Nat) (ctx : BitVec 16) : Bool :=
  e.va == va / 2 ^ e.bits * 2 ^ e.bits && (e.glob || e.ctx == ctx)
/-- A cache with an entry added; at its capacity a victim that the spec leaves open is dropped (R192). -/
def cacheInsert (cap draw : Nat) (l : List TlbEntry) (e : TlbEntry) : List TlbEntry :=
  if l.length < cap then e :: l else e :: dropNth l (Config.freeChoice draw l.length % l.length)

/-- How an access is translated: to a memory key with its leaf, to an unreachable node, or to a trap (R58, R391). -/
inductive Xlate where
  | ok (k : Nat) (pte : Word)
  | absent (node : Nat)
  | trap (c : Cause)
  deriving DecidableEq, Repr

/-- Is one of `n` bytes at a local offset in a live kernel frame (R369)? -/
def Core.inLiveFrame (c : Core) (off n : Nat) : Bool := c.live.any fun b => decide (b < off + n ∧ off < b + 20480)

/-- A physical address against what lies there: unpopulated or unbacked ranges, pool frames, live kernel frames. -/
def State.placeAt (s : State) (p pa n : Nat) (pte : Word) (write guard : Bool) : Xlate :=
  match s.nodePkg p (pa / nodeSize) with
  | none => .absent (pa / nodeSize)
  | some q =>
    let o := pa % nodeSize
    let k := key q o
    match s.reserved q o n with
    | some c => .trap c
    | none => match spadOwner k with
      | some h => if (guard || write) && (s.core h).inLiveFrame (spadOff k) n then .trap .perm else .ok k pte
      | none => .ok k pte

/-- The permission checks on a leaf, in the order of R190: PERM, then ORD_FAULT. A fetch from a page whose ORD is 11 raises none,
because R43 names only PAGE_FAULT and PERM for a fetch (DESIGN CHOICE, entry 109). -/
def leafCheck (need : Need) (kernel : Bool) (e : Word) : Option Cause :=
  if (need.r && !pteBit e 1) || (need.w && !pteBit e 2) || (need.x && !pteBit e 3) then some .perm
  else if !kernel && !pteBit e 4 then some .perm
  else if pteOrd e = 3 && !need.x then some .ordFault
  else none

/-- A leaf applied to an address: the place, then the checks of R58 (page fault, permission, ordering). -/
def State.useLeaf (s : State) (p va n bits : Nat) (e : Word) (need : Need) (kernel guard : Bool) : Xlate :=
  match s.placeAt p (ptePa e + va % 2 ^ bits) n e need.w guard with
  | .ok k pte => match leafCheck need kernel e with
    | some c => .trap c
    | none => .ok k pte
  | .trap .perm => .trap .perm
  | .trap c => .trap c
  | .absent node => match leafCheck need kernel e with
    | some c => .trap c
    | none => .absent node

/-- The end of a walk as a translation. -/
def State.useWalk (s : State) (p va n : Nat) (w : Walk) (need : Need) (kernel guard : Bool) : Xlate :=
  match w with
  | .leaf bits e => s.useLeaf p va n bits e need kernel guard
  | .fault => .trap .pageFault
  | .denied => .trap .perm
  | .poison => .trap .ue
  | .absent node => .absent node

/-- The die of a core, in its package. -/
def State.die (s : State) (c : Nat) : Die := (s.pkg (pkgOf c)).dies.toList.getD (dieOf c) .reset
/-- The state with die `d` of package `p` changed. -/
def State.modDie (s : State) (p d : Nat) (f : Die → Die) : State :=
  s.modPkg p fun x => { x with dies := x.dies.set! d (f (x.dies.toList.getD d .reset)) }

/-- The 64-byte accesses that `n` bytes at a key of the automatic range come to are counted by the die of the frame (R197). -/
def State.countFrame (s : State) (k n : Nat) : State :=
  match regionOf (k % nodeSize) with
  | .auto =>
    let f := frameOf k
    s.modDie (k / nodeSize) (f % 4) fun d =>
      { d with counts := d.counts.put f ((d.counts.find f).getD 0 + (k % 64 + n + 63) / 64) }
  | _ => s

/-- The reads of a walk from the table of a level on counted where they fall on automatic frames (R188, R197). -/
def State.countWalkFrom (s : State) (p va : Nat) : Nat → Nat → Nat → State
  | 0, _, _ => s
  | fuel + 1, level, table =>
    match s.nodePkg p (table / nodeSize) with
    | none => s
    | some q =>
      let lb := levelBits level
      let k := key q (table % nodeSize + 8 * (va / 2 ^ lb.1 % 2 ^ lb.2))
      if (s.reserved q (k % nodeSize) 8).isSome then s
      else
        let t := s.countFrame k 8
        if s.poisoned k 8 then t
        else match pteCheck level (s.readWord k) with
          | .next => t.countWalkFrom p va fuel (level + 1) (ptePa (s.readWord k))
          | _ => t
/-- The reads of a walk counted (R197). -/
def State.countWalk (s : State) (p : Nat) (ptbase : Word) (va : Nat) : State := s.countWalkFrom p va 4 1 (ptePa ptbase)

/-- The translation of a page by a core: its own cache, the die's, then a walk, whose leaf both caches take (R192). -/
def State.lookup (s : State) (c va : Nat) : State × Walk :=
  let x := s.core c
  let ctx := x.csr.ctxid.setWidth 16
  match x.tlb.find? fun e => e.hits va ctx with
  | some e => (s, .leaf e.bits e.pte)
  | none =>
    match (s.die c).cache.find? fun e => e.hits va ctx with
    | some e => ({ s.modCore c fun y => { y with tlb := cacheInsert 128 s.draws y.tlb e } with draws := s.draws + 1 },
        .leaf e.bits e.pte)
    | none =>
      match s.walk (pkgOf c) x.csr.ptbase va with
      | .leaf bits e =>
        let t : TlbEntry := { va := va / 2 ^ bits * 2 ^ bits, bits := bits, ctx := ctx, glob := pteBit e 11, pte := e }
        let s1 := (s.countWalk (pkgOf c) x.csr.ptbase va).modCore c fun y => { y with tlb := cacheInsert 128 s.draws y.tlb t }
        let s2 := s1.modDie (pkgOf c) (dieOf c) fun d => { d with cache := cacheInsert 16384 (s.draws + 1) d.cache t }
        ({ s2 with draws := s.draws + 2 }, .leaf bits e)
      | w => (s.countWalk (pkgOf c) x.csr.ptbase va, w)

/-- A data access or fetch of `n` bytes by a core at a virtual address: R185, then the page. `guard` says that a live kernel
frame stops it even if it only reads, as at U (R369). -/
def State.translate (s : State) (c : Nat) (va : Word) (n : Nat) (need : Need) (kernel : Bool) (guard : Bool := !kernel) :
    State × Xlate :=
  if va.toNat / 2 ^ 57 ≠ 0 then (s, .trap .pageFault)
  else if va.toNat / 2 ^ 56 ≠ 0 then (s, .trap .perm)
  else
    let w := s.lookup c va.toNat
    (w.1, w.1.useWalk (pkgOf c) va.toNat n w.2 need kernel guard)

/-- An access of the device itself for a partition, through the entry's context with the rights of K (R387). -/
def State.translateDev (s : State) (p : Nat) (ptbase : Word) (va : Word) (n : Nat) (need : Need) : Xlate :=
  if va.toNat / 2 ^ 57 ≠ 0 then .trap .pageFault
  else if va.toNat / 2 ^ 56 ≠ 0 then .trap .perm
  else s.useWalk p va.toNat n (s.walk p ptbase va.toNat) need true false

/-- The translations that a `tlbi` keeps in the caches of the core's die: any core of the die walks again for the others (R81). -/
def State.tlbi (s : State) (c : Nat) (keep : TlbEntry → Bool) : State :=
  let s : State := { s with cores := s.cores.map fun x =>
    if x.1 / 128 = c / 128 then (x.1, { x.2 with tlb := x.2.tlb.filter keep }) else x }
  s.modDie (pkgOf c) (dieOf c) fun d => { d with cache := d.cache.filter keep }

/-- The page kind of a leaf (R189); a leaf with ORD 11 never gets here. -/
def kindOf (pte : Word) : Kind := match pteOrd pte with | 0 => .un | 1 => .rc | _ => .so
/-- The kind of an access and whether it acquires or releases (R243). -/
def accessKind (page : Kind) (o : Ord) : Kind × Bool :=
  match o with
  | .plain => (page, false)
  | .sync => (page, true)
  | .strong => (.so, false)
/-- The scope of an acquire or release without a scope field: sys in the CXL and host ranges, else dom (R249). -/
def scopeAt (k : Nat) : Scope := match regionOf (k % nodeSize) with | .cxl | .host => .sys | _ => .dom

end Sys2Proof.Machine
end

