-- ==== Sys2Proof/Machine/Part.lean ====
section
/-! DEFINITION. Partitions at run time: the entry that holds a core (R386), the cores of a partition in rank order (R165),
and the core errors that a partition reports (R368, R387). -/
namespace Sys2Proof.Machine

/-- Bit `n` of a wide field. -/
def hasCore (set : BitVec 512) (i : Nat) : Bool := set.getLsbD i

/-- The number of the valid entry of a package that holds a core index (R386). -/
def Pkg.funcOf (x : Pkg) (i : Nat) : Option Nat :=
  (x.funcs.find? fun f => f.2.part.valid && hasCore f.2.part.coreset i).map (·.1)
/-- The function whose valid entry holds a core. -/
def State.funcOf (s : State) (c : Nat) : Option Nat := (s.pkg (pkgOf c)).funcOf (idxOf c)
/-- The partition entry of function `f` of package `p`. -/
def State.entry (s : State) (p f : Nat) : PEntryTab := ((s.pkg p).func f).part
/-- Does a package work: it is there, powered and out of reset (R403, R415, R418)? -/
def State.up (s : State) (p : Nat) : Bool := match s.pkg? p with | some x => x.on && !x.inReset | none => false
/-- The key of a partition in the state's table: its domain, its TAG and its function (R386). -/
def partKey (dom : Nat) (tag : BitVec 32) (f : Nat) : Nat := (dom * 2 ^ 32 + tag.toNat) * 64 + f
/-- The key of the partition of function `f` of package `p`. -/
def State.partOf (s : State) (p f : Nat) : Nat := partKey (s.pkg p).domain (s.entry p f).tag f
/-- Partition `k` at run time. -/
def State.part (s : State) (k : Nat) : Part := (s.parts.find k).getD .reset
/-- The state with partition `k` changed. -/
def State.modPart (s : State) (k : Nat) (g : Part → Part) : State := { s with parts := s.parts.put k (g (s.part k)) }
/-- The partition of a core. -/
def State.partOfCore (s : State) (c : Nat) : Option Nat := (s.funcOf c).map fun f => s.partOf (pkgOf c) f

/-- A list with an element inserted by a weight, equal weights in order of insertion. -/
def insertBy (w : Nat → Nat) (a : Nat) : List Nat → List Nat
  | [] => [a]
  | b :: r => if w a < w b then a :: b :: r else b :: insertBy w a r
/-- A list in rising order of a weight. -/
def sortBy (w : Nat → Nat) (l : List Nat) : List Nat := l.foldl (fun acc a => insertBy w a acc) []

/-- The packages in which a partition has a valid entry, in the order of their node numbers (R386). -/
def State.partPkgs (s : State) (dom k : Nat) : List Nat :=
  sortBy (fun p => (s.pkg p).member)
    ((s.pkgs.filter fun x =>
      x.2.on && x.2.domain == dom && (x.2.func (k % 64)).part.valid
        && partKey dom (x.2.func (k % 64)).part.tag (k % 64) == k).map (·.1))
/-- The cores of an entry, in the order of CORE. -/
def entryCores (p : Nat) (e : PEntryTab) : List Nat :=
  ((upto 512).filter fun i => hasCore e.coreset i).map fun i => p * 512 + i
/-- The cores of a partition in rank order (R165, R386). -/
def State.partCores (s : State) (dom k : Nat) : List Nat :=
  (s.partPkgs dom k).flatMap fun p => entryCores p (s.entry p (k % 64))
/-- The cores of the launch that a core belongs to, in rank order. -/
def State.gang (s : State) (c : Nat) : List Nat :=
  match s.partOfCore c with
  | some k => s.partCores (s.pkg (pkgOf c)).domain k
  | none => []
/-- The core of a rank, as seen from a core of the launch. -/
def State.rankCore (s : State) (c : Nat) (rank : Nat) : Option Nat := (s.gang c)[rank]?
/-- Is a core's package reachable from another core (R391)? -/
def State.reaches (s : State) (c d : Nat) : Bool :=
  pkgOf c == pkgOf d || s.nodePkg (pkgOf c) (s.pkg (pkgOf d)).member == some (pkgOf d)
/-- The INFO that names a core's node (R391). -/
def State.nodeInfo (s : State) (d : Nat) : Word := BitVec.ofNat 64 (s.pkg (pkgOf d)).member

/-- A core error: FSTAT.CORE_ERR and FERR of the function whose entry holds the core (R398). -/
def State.coreError (s : State) (c : Nat) (code : Nat) : State :=
  match s.funcOf c with
  | some f => s.modFunc (pkgOf c) f fun x =>
      { x with coreErr := true, errCause := BitVec.ofNat 8 code, errCore := BitVec.ofNat 9 (idxOf c) }
  | none => s

/-- The value of CORE (R54). -/
def State.coreCsr (s : State) (c : Nat) : Word := BitVec.ofNat 64 ((s.pkg (pkgOf c)).member * 512 + idxOf c)

end Sys2Proof.Machine
end

