-- ==== Sys2Proof/Machine/Access.lean ====
section
/-! DEFINITION. Accesses on their way to their homes: how a request is resolved (R82, R85, R210, R213, R230), the order in
which accesses of a stream may be performed (R242 to R250, R257), and what an access does at its home (R252 to R254). -/
namespace Sys2Proof.Machine

/-! ## Handles and groups as seen from a core -/

/-- Tile entry `t` of a core. -/
def Core.tile (x : Core) (t : Nat) : Tile := (x.tiles.find t).getD .reset
/-- The tile that a reference names, at its home. -/
def State.tileOf (s : State) (t : TileRef) : Tile := (s.core t.core).tile t.tile
/-- Is a reference live: does its entry still hold its generation (R210)? -/
def State.live (s : State) (t : TileRef) : Bool := (s.tileOf t).gen == t.gen
/-- The state with the tile of a reference changed. -/
def State.modTile (s : State) (t : TileRef) (f : Tile → Tile) : State :=
  s.modCore t.core fun x => { x with tiles := x.tiles.put t.tile (f (x.tile t.tile)) }
/-- Does one of h0 to h15 hold the fill handle of a tile (R213)? -/
def Core.holdsFill (x : Core) (t : TileRef) : Bool := x.ctl.h.toList.contains (.fill t)
/-- The memory key of an offset within a tile. -/
def State.tileKey (s : State) (t : TileRef) (off : Nat) : Nat := spadKey t.core ((s.tileOf t).base + off)

/-- An unreachable home (R391). -/
def State.absentTrap (s : State) (d : Nat) : Trap := { cause := .groupAbsent, info := s.nodeInfo d }
/-- The trap that names an unreachable node number. -/
def nodeTrap (node : Nat) : Trap := { cause := .groupAbsent, info := BitVec.ofNat 64 node }

/-- Does a live kernel frame hold one of `n` bytes of a tile (R369)? PERM for it follows the checks of the handle and the offset, and
of a leaf those of the leaf (DESIGN CHOICE, entry 104). -/
def State.frameInTile (s : State) (t : TileRef) (off n : Nat) : Bool :=
  (s.core t.core).inLiveFrame ((s.tileOf t).base + off) n
/-- The checks on a fill or see handle in a handle-relative access, in the order of R82 and R213: absence, BAD_HANDLE, the
offset and, at U, the live kernel frames (R369), then the causes of the table. `info` names the handle (R362). -/
def State.checkHandle (s : State) (c : Nat) (h : Handle) (off : Int) (n : Nat) (store kernel : Bool) (info : Word) :
    Except Trap TileRef :=
  let check (t : TileRef) (see : Bool) : Except Trap TileRef :=
    if !s.reaches c t.core then .error (s.absentTrap t.core)
    else if !s.live t then .error { cause := .badHandle, info := info }
    else if off < 0 ∨ ((s.tileOf t).size : Int) < off + n ∨ (kernel = false ∧ s.frameInTile t off.toNat n = true) then
      .error { cause := .perm, info := BitVec.ofInt 64 off }
    else if see && store then .error { cause := .writeViaSee, info := info }
    else if see && (s.core c).holdsFill t then .error { cause := .selfPark, info := info }
    else .ok t
  match h with
  | .fill t => check t false
  | .see t => check t true
  | _ => .error { cause := .badHandle, info := info }

/-- A group of the partition of a core (R227). -/
def State.group? (s : State) (c gid : Nat) : Option Group :=
  match s.partOfCore c with
  | some k => (s.part k).groups.find gid
  | none => none
/-- Is a group's ACC a float type (R227)? -/
def Group.isFloat (g : Group) : Bool := g.acc == 0 || g.acc == 1
/-- The accumulation type. -/
def Group.accTy (g : Group) : Ty := match g.acc with | 0 => .f32 | 1 => .f64 | 2 => .i64 | _ => .u64
/-- Is a delivery type accepted for a group's ACC (R233)? A scalar load delivers u32 or i64 under a float ACC. -/
def Group.accepts (g : Group) (vec : Bool) (t : Ty) : Bool :=
  if g.isFloat then (if vec then t.isFlt else t == .u32 || t == .i64) else t.isInt
/-- The core of a member word; none for padding. -/
def State.member (s : State) (c : Nat) (m : BitVec 32) : Option Nat :=
  if m = 0xFFFFFFFF then none else s.rankCore c m.toNat

/-- The checks of R230 on a plain group load: the group it reduces and its offset. -/
def State.checkGroup (s : State) (c : Nat) (va : Word) (vec : Bool) (t : Ty) : Except Trap (Group × Nat) :=
  let x := va.toNat % 2 ^ 44
  let perm : Except Trap (Group × Nat) := .error { cause := .perm, info := va }
  if va.toNat / 2 ^ 57 ≠ 0 then .error { cause := .pageFault, info := va }
  else if va.toNat / 2 ^ 56 = 0 then perm
  else match s.group? c (va.toNat / 2 ^ 44 % 4096) with
    | none => perm
    | some g => if 0x20_0000 ≤ x ∨ !g.accepts vec t then perm else .ok (g, x)

/-- The command that an entry holds, of a chain the one that runs. -/
def QEntry.cmd? : QEntry → Option Cmd
  | .cmd x => some x
  | .chain _ _ _ _ _ _ cur _ => cur

/-! ## Resolving a request -/

/-- What an operation needs of a page. -/
def AccOp.need : AccOp → Need
  | .load => .load
  | .store _ => .store
  | _ => .both
/-- Does an operation write? -/
def AccOp.writes : AccOp → Bool
  | .load => false
  | _ => true

/-- Where an access goes and how it is ordered. -/
structure Route where
  place : Place
  kind : Kind
  sync : Bool
  scope : Scope
  deriving DecidableEq, Repr

/-- The route of a request of core `c`; group addresses have none and are a fault here (R82, R85, R262). -/
def State.route (s : State) (c : Nat) (r : Req) (info : Word) : State × Except Trap Route :=
  match r.addr with
  | .virt va =>
    match s.translate c va r.ty.size r.op.need r.kernel with
    | (s1, .ok k pte) =>
      let a := accessKind (kindOf pte) r.ord
      (s1, .ok { place := .phys k, kind := a.1, sync := a.2, scope := scopeAt k })
    | (s1, .absent node) => (s1, .error (nodeTrap node))
    | (s1, .trap cause) => (s1, .error { cause := cause, info := va })
  | .tile h off =>
    match s.checkHandle c h off r.ty.size r.op.writes r.kernel info with
    | .ok t =>
      let a := accessKind .rc r.ord
      let see := match h with | .see _ => true | _ => false
      (s, .ok { place := .tile t off.toNat, kind := a.1, sync := a.2 || see, scope := .dom })
    | .error t => (s, .error t)
  | .loc off => (s, .ok { place := .phys (spadKey c off), kind := .rc, sync := false, scope := .core })
  | .group va => (s, .error { cause := .perm, info := va })

/-! ## Sending -/

/-- A ring stop or switch: the die of a home, numbered across packages (R257). -/
def stopOf (k : Nat) : Nat :=
  match spadOwner k, vaultOwner k with
  | some c, _ => c / 128
  | none, some c => c / 128
  | none, none => k / nodeSize * 4
/-- The memory key of a place. -/
def State.keyOf (s : State) : Place → Nat
  | .phys k => k
  | .tile t off => s.tileKey t off
/-- Is an access a store, reduction or atomic that has still to be performed? -/
def Access.isWrite (a : Access) : Bool := a.req.op.writes && a.barrier.isNone
/-- The stops that a core's stores under way have passed, other than the core's own die (R257). -/
def State.stopsOf (s : State) (c : Nat) : List Nat :=
  ((s.flight.filter fun a => a.core == c && a.isWrite).map fun a => stopOf (s.keyOf a.place)).eraseDups.filter
    (· != c / 128)

/-- The ring stop of a home as seen from a package: its die, of an automatic frame that of its backing, or the IOD (R384). -/
def State.ringStop (s : State) (p k : Nat) : Nat :=
  if k / nodeSize ≠ p then 4
  else match spadOwner k, vaultOwner (s.backing k) with
    | some c, _ => dieOf c
    | none, some c => dieOf c
    | none, none => 4
/-- Has a direction of the ring of package `p` a slot for the traffic of a partition, or, for no partition, a free one (R384)? Traffic of
a partition that has no entry in the package goes in free slots (entry 65). -/
def State.slotIn (s : State) (p : Nat) (owner : Option Nat) (cw : Bool) : Bool :=
  let slots (e : PEntryTab) : BitVec 256 := if cw then e.slotsCw else e.slotsCcw
  let free : Bool := ((s.pkg p).funcs.foldl (fun a x => if x.2.part.valid then a ||| slots x.2.part else a) 0) != BitVec.allOnes 256
  match owner with
  | some f => if (s.entry p f).valid then slots (s.entry p f) != 0 else free
  | none => free
/-- Does the way from a stop to another go in ascending direction: the one with fewer hops (R385)? -/
def goesCw (src dst : Nat) : Bool := decide ((dst + 5 - src) % 5 ≤ 2)
/-- Has the traffic between two stops of a package's ring slots to travel in, its answers too (R384)? -/
def State.ringWay (s : State) (p : Nat) (owner : Option Nat) (src dst : Nat) : Bool :=
  src == dst || (s.slotIn p owner (goesCw src dst) && s.slotIn p owner (!goesCw src dst))
/-- May a flit of a core's traffic enter a slot of its direction: one that its partition owns, or for the second tier, CXL and the
host a free one (R384)? -/
def State.slotFor (s : State) (c : Nat) (f : Flit) (free : Bool) : Bool :=
  if free then s.slotIn (pkgOf c) none f.cw
  else match s.funcOf c with
    | some i => s.slotIn (pkgOf c) (some i) f.cw
    | none => false
/-- Does a key's traffic travel in free slots: to the second tier, behind an automatic frame too, to CXL and to the host (R384)? -/
def State.freeClass (s : State) (c k : Nat) : Bool :=
  k / nodeSize == pkgOf c && (match regionOf (s.backing k % nodeSize) with | .tier2 | .cxl | .host | .auto => true | _ => false)
/-- The function by which a core's partition goes in package `q`: the one with the same number and TAG in its domain (R386). -/
def State.ownerIn (s : State) (c q : Nat) : Option Nat :=
  match s.partOfCore c with
  | some k => if (s.partPkgs (s.pkg (pkgOf c)).domain k).contains q then some (k % 64) else none
  | none => none
/-- Has the traffic between a core's die and the home of a key ring slots to travel in, its answers too: in the core's own package, and
from the IOD of the home's package on (R384)? -/
def State.mayCross (s : State) (c k : Nat) : Bool :=
  let p := pkgOf c
  let q := k / nodeSize
  s.ringWay p (if s.freeClass c k then none else s.funcOf c) (dieOf c) (s.ringStop p k)
    && (q == p || s.ringWay q (s.ownerIn c q) 4 (s.ringStop q k))
/-- Has the traffic of a core to a stop, which takes no time on the ring, no flit before it: none of its partition that waits for a slot
in its direction at its own stop, and none that has entered there for the same stop (R385, entry 65)? -/
def State.ringClear (s : State) (c k : Nat) : Bool :=
  let src := dieOf c
  let dst := s.ringStop (pkgOf c) k
  src == dst || s.flits.all fun f => match s.flight.find? fun a => a.id == f.access with
    | none => true
    | some a => pkgOf a.core != pkgOf c || dieOf a.core != src || f.cw != goesCw src dst
        || (if f.at_ = src then s.funcOf a.core != s.funcOf c else f.dst != dst)
/-- May traffic of a core that is no flit of the model go to the home of a key now (R384, R385)? -/
def State.mayGo (s : State) (c k : Nat) : Bool := s.mayCross c k && s.ringClear c k
/-- The flit of an access whose home lies at another stop of the ring, in the direction with fewer hops (R385). -/
def State.flitOf (s : State) (a : Access) : List Flit :=
  let src := dieOf a.core
  let dst := s.ringStop (pkgOf a.core) (s.keyOf a.place)
  if a.fault.isSome || a.barrier.isSome || src = dst then []
  else [{ at_ := src, dst := dst, cw := goesCw src dst, access := s.nextId }]
/-- The tokens of a release of core `c`: at die scope or wider one along every path that carries one of its stores, under the
next number (R257). -/
def State.releaseTokens (s : State) (c : Nat) (scope : Scope) : List Token :=
  let stops := s.stopsOf c
  if scope != .core && !stops.isEmpty then [{ core := c, before := s.nextId, scope := scope, stops := stops }] else []
/-- The tokens that core `c` sent under a number have reached the ends of their paths (R257). -/
def State.tokensThrough (s : State) (c n : Nat) : Bool := s.tokens.all fun t => !(t.core == c && t.before == n)
/-- A release of core `c` at dom scope that is no access: its tokens, and the number that they go by (R257). -/
def State.release (s : State) (c : Nat) : State :=
  { s with tokens := s.tokens ++ s.releaseTokens c .dom, nextId := s.nextId + 1 }
/-- An access put in flight under the next number, at the era of its core, with the tokens of a release (R257). -/
def State.send (s : State) (a : Access) : State :=
  { s with flight := s.flight ++ [{ a with id := s.nextId, era := (s.core a.core).vec.era }]
           flits := s.flits ++ s.flitOf a
           tokens := s.tokens ++ (if a.rel || a.barrier.isSome then s.releaseTokens a.core a.scope else [])
           nextId := s.nextId + 1 }

/-- An access of a request on its route. An ordering on a load acquires, on a store releases, on an atomic does both. A decoupled
load acquires at its pop, after which nothing is left to hold (R249). -/
def accessOf (c : Nat) (vec : Bool) (r : Req) (t : Route) (back : Back) : Access :=
  { id := 0, core := c, vec := vec, req := r, place := t.place, kind := t.kind
    acq := t.sync && (match r.op with | .store _ | .red _ _ => false | .load => back == .nowhere | _ => true)
    rel := t.sync && r.op.writes, scope := t.scope, back := back, fault := none, era := 0, parked := false
    barrier := none }
/-- An access whose checks recorded a fault in its queue entry (R85, R152). -/
def faultedAccess (c : Nat) (vec : Bool) (r : Req) (t : Trap) (back : Back) : Access :=
  { id := 0, core := c, vec := vec, req := r, place := .phys 0, kind := .un, acq := false, rel := false, scope := .core
    back := back, fault := some t, era := 0, parked := false, barrier := none }

/-- A group load put in flight, at the era of its core (R230, R238). -/
def State.sendGroup (s : State) (g : GLoad) : State :=
  { s with gloads := s.gloads ++ [{ g with id := s.nextId, era := (s.core g.core).vec.era }], nextId := s.nextId + 1 }
/-- A plain group load (R230). -/
def plainGroup (c : Nat) (vec kernel : Bool) (g : Group) (x : Nat) (t : Ty) (d : GDest) : GLoad :=
  { id := 0, core := c, vec := vec, kernel := kernel, era := 0, fault := none, group := g, x := x, ty := t, dest := d, see := none
    slots := g.members.map fun m => if m = 0xFFFFFFFF then none else some x
    leaves := g.members.map fun _ => .unread, flags := 0, nan := false }
/-- A group load whose checks recorded a fault (R85, R152). -/
def faultedGroup (c : Nat) (vec kernel : Bool) (t : Ty) (d : GDest) (f : Trap) : GLoad :=
  { id := 0, core := c, vec := vec, kernel := kernel, era := 0, fault := some f
    group := { members := [], skip := false, acc := 0, op := 0 }, x := 0, ty := t, dest := d, see := none
    slots := [], leaves := [], flags := 0, nan := false }

/-- INFO of the group causes: member position and x (R362). -/
def memberInfo (m x : Nat) : Word := BitVec.ofNat 64 (m % 65536 * 2 ^ 44 + x % 2 ^ 44)

/-- A load through a group see handle: its checks at issue and its load; a slot that cannot be reached is a matter of its leaf
(R235, R237, R238). -/
def State.seeGroup (s : State) (c : Nat) (kernel : Bool) (g : GSee) (off : Int) (t : Ty) (d : GDest) (info : Word) :
    Except Trap GLoad :=
  match s.group? c g.gid.toNat with
  | none => .error { cause := .badHandle, info := info }
  | some desc =>
    let inSlot (r : TileRef) : Bool := decide (0 ≤ off ∧ off + t.size ≤ (s.tileOf r).size)
    let refs := g.slots.filterMap id
    if !((refs.filter fun r => s.reaches c r.core).all inSlot) then .error { cause := .perm, info := BitVec.ofInt 64 off }
    else if !desc.accepts false t then .error { cause := .perm, info := BitVec.ofInt 64 off }
    else if refs.any (s.core c).holdsFill then .error { cause := .selfPark, info := info }
    else .ok
      { id := 0, core := c, vec := false, kernel := kernel, era := 0, fault := none, group := desc, x := off.toNat, ty := t
        dest := d, see := some g
        slots := g.slots.map fun r => r.map fun q => (s.tileOf q).base + off.toNat
        leaves := g.slots.map fun _ => .unread, flags := 0, nan := false }

/-- A queue request issued, or issued again by a replay: it goes in flight, or its fault does (R85, R152, R373). `info` is
the access address that a recorded fault of a handle names (R362). -/
def State.issueQueued (s : State) (c : Nat) (vec : Bool) (r : Req) (back : Back) : State :=
  match r.addr with
  | .group va =>
    match s.checkGroup c va vec r.ty with
    | .ok (g, x) => s.sendGroup (plainGroup c vec r.kernel g x r.ty (.queue back))
    | .error t => s.sendGroup (faultedGroup c vec r.kernel r.ty (.queue back) t)
  | .tile (.gsee g) off =>
    match s.seeGroup c r.kernel g off r.ty (.queue back) (BitVec.ofInt 64 off) with
    | .ok l => s.sendGroup l
    | .error t => s.sendGroup (faultedGroup c vec r.kernel r.ty (.queue back) t)
  | .tile _ off =>
    match s.route c r (BitVec.ofInt 64 off) with
    | (s1, .ok t) => s1.send (accessOf c vec r t back)
    | (s1, .error t) => s1.send (faultedAccess c vec r t back)
  | .virt _ | .loc _ =>
    match s.route c r 0 with
    | (s1, .ok t) => s1.send (accessOf c vec r t back)
    | (s1, .error t) => s1.send (faultedAccess c vec r t back)

/-! ## The order in which accesses may be performed -/

/-- Do two places share bytes through the same path (R242)? -/
def Place.meets (a b : Place) (n m : Nat) : Bool :=
  match a, b with
  | .phys x, .phys y => decide (x < y + m ∧ y < x + n)
  | .tile t x, .tile u y => t == u && decide (x < y + m ∧ y < x + n)
  | _, _ => false

/-- Is an address a local offset? Local and translated accesses are different paths (R242). -/
def ReqAddr.isLoc : ReqAddr → Bool
  | .loc _ => true
  | _ => false
/-- Is it a non-returning reduction? -/
def AccOp.isRed : AccOp → Bool
  | .red _ _ => true
  | _ => false
/-- The home memory port of a key: a scratchpad, a vault, or what else a package's range holds (DEDUCED, entry 91; R241, R252). -/
def homePort (k : Nat) : Region × Nat :=
  match spadOwner k, vaultOwner k with
  | some c, _ => (.spad, c)
  | none, some c => (.stacked, c)
  | none, none => (regionOf (k % nodeSize), k / nodeSize)
/-- Are two accesses the lanes of one decoupled load (R247)? -/
def Access.sameEntry (a b : Access) : Bool :=
  match a.back, b.back with
  | .vlq q e _, .vlq r f _ => q == r && e == f && a.req.op == .load
  | _, _ => false
/-- Must access `a` wait for the earlier access `b` of its stream? Same bytes on one path, strong order, an earlier acquire, an own
release, a `fence.rel` or a release that has not completed, reductions to one home, the lower part of an access that straddles
pages of which one is SO (R242 to R252, R257). UN accesses wait for bytes alone (R246). -/
def State.waitsFor (s : State) (a b : Access) : Bool :=
  a.core == b.core && a.vec == b.vec &&
    ((a.req.addr.isLoc == b.req.addr.isLoc && a.place.meets b.place a.req.ty.size b.req.ty.size)
      || (a.kind == .so && b.kind == .so)
      || (b.acq && a.kind != .un)
      || (a.rel && b.kind != .un)
      || ((b.barrier.isSome || (b.rel && b.scope != .core)) && a.isWrite && a.kind != .un)
      || (a.req.op.isRed && b.req.op.isRed && homePort (s.keyOf a.place) == homePort (s.keyOf b.place))
      || (a.sameEntry b && a.kind != b.kind && (a.kind == .so || b.kind == .so)))

/-- Has a core a write to the host range that the host has not acknowledged (R241, R400)? -/
def State.hostBusy (s : State) (c : Nat) : Bool := (s.pkg (pkgOf c)).hostWrites.contains c
/-- Is a result in flight a store or reduction? -/
def PKind.writes : PKind → Bool
  | .store | .elems | .red => true
  | .v | .k | .a | .f => false
/-- The results of a core's vector stream that are in flight, or that a frame holds until its return (R367, R372). -/
def Core.allPending (x : Core) : List PEntry := x.vec.pend ++ x.vec.frames.flatMap fun f => f.2.pend
/-- Is a vector store or reduction still due that issued before an era, in flight or in a frame (R251, R372)? -/
def Core.coveredStores (x : Core) (era : Nat) : Bool := x.allPending.any fun e => e.kind.writes && decide (e.era < era)
/-- The vector stores and reductions of a core that come before its access `n` and are not performed: those in flight, and those that
a frame has taken since the access was issued (R242, R372). -/
def Core.storesBefore (x : Core) (n : Nat) : List PEntry :=
  (x.vec.pend ++ x.vec.frames.flatMap fun f => if n < f.2.next then f.2.pend else []).filter fun e =>
    e.kind.writes && decide (e.seq ≤ n)

/-- Is every local access of core `c` before access `n` performed? -/
def Ctl.localDone (x : Ctl) (n : Nat) : Bool := (x.stores.all fun y => decide (n < y.id)) && x.loads.all fun y => decide (n < y.id)
/-- Nothing that a fence waits for is left of core `c` before access `n`: accesses of the control stream and those of the vector
stream from before an era, queue entries not yet present, local accesses. UN accesses count if `full` (R250, R251). -/
def State.fenceClear (s : State) (c n era : Nat) (full : Bool) (scope : Scope) : Bool :=
  (s.flight.all fun b =>
      b.core != c || decide (n ≤ b.id) || (b.vec && decide (era ≤ b.era)) || (b.back == .nowhere && !full && b.kind == .un))
    && (s.gloads.all fun g => g.core != c || decide (n ≤ g.id) || (g.vec && decide (era ≤ g.era)) || g.dest == .blocking)
    && (s.core c).ctl.localDone n
    && !(s.core c).coveredStores era
    && !(scope == .sys && s.hostBusy c)
/-- Has an entry of an engine queue been pushed by core `c` before its access `n`, and does its command not observe yet everything
that came before the push (R255)? -/
def State.pushOpen (s : State) (c n : Nat) : QEntry → Bool
  | .cmd y => y.issuer == c && decide (y.before ≤ n) && !s.fenceClear c y.before y.era false .dom
  | .chain _ _ _ _ _ _ _ _ => false
/-- Is a release of core `c` that is no access under way, from before its access `n`: a fill drop that has not reached the home, or
the push of an engine command? Later stores are not performed until it completes (R214, R255, R257). -/
def State.behindRelease (s : State) (c n : Nat) : Bool :=
  (s.msgs.any fun m => match m with | .fillDrop _ d k poison => d == c && !poison && decide (k ≤ n) | _ => false)
    || s.cores.any fun x => x.2.queues.toList.any fun q => q.entries.any (s.pushOpen c n)
/-- Is every load of core `c` through a group see handle before number `n` done? Each is an RC access (R238, R243). -/
def State.seesDone (s : State) (c n : Nat) : Bool :=
  s.gloads.all fun g => g.core != c || g.vec || g.see.isNone || decide (n ≤ g.id)
/-- Is every acquire of the control stream of core `c` before number `n` performed (R248)? -/
def State.acquiresDone (s : State) (c n : Nat) : Bool :=
  s.flight.all fun a => a.core != c || a.vec || !a.acq || decide (n ≤ a.id)
/-- Has every earlier load of core `c` returned, with every queue entry that an acquire fence waits for (R250)? -/
def State.loadsClear (s : State) (c n era : Nat) : Bool :=
  (s.flight.all fun b => b.core != c || decide (n ≤ b.id) || (b.vec && decide (era ≤ b.era)) || b.back == .nowhere)
    && (s.gloads.all fun g => g.core != c || decide (n ≤ g.id) || (g.vec && decide (era ≤ g.era)) || g.dest == .blocking)
    && (s.core c).ctl.loads.isEmpty

/-- The tokens of a release have reached the ends of their paths (R257). -/
def State.tokensDone (s : State) (a : Access) : Bool := s.tokensThrough a.core a.id

/-- The keys that an access touches. -/
def State.runOf (s : State) (a : Access) : Nat × Nat := (s.keyOf a.place, a.req.ty.size)
/-- Do two runs of keys share a byte? -/
def keysMeet (a b : Nat × Nat) : Bool := decide (a.1 < b.1 + b.2 ∧ b.1 < a.1 + a.2)
/-- Is an earlier local vector store or reduction still due on the bytes of a local atomic of its stream (R242)? -/
def State.behindStores (s : State) (a : Access) : Bool :=
  a.req.addr.isLoc && ((s.core a.core).storesBefore a.id).any fun e => e.runs.any (keysMeet (s.runOf a))

/-- Do the rules of order let the access at place `k` of the flight be performed (R242 to R252, R257)? -/
def State.ordered (s : State) (k : Nat) (a : Access) : Bool :=
  match a.barrier with
  | some f => s.fenceClear a.core a.id f.era false f.scope && s.tokensDone a
  | none =>
    ((s.flight.take k).all fun b => !s.waitsFor a b) && (s.flits.all fun f => f.access != a.id)
      && (!a.rel || ((s.core a.core).ctl.localDone a.id && s.tokensDone a && s.seesDone a.core a.id))
      && (a.vec || !a.isWrite || a.kind == .un || !s.behindRelease a.core a.id)
      && (!((a.rel && a.scope == .sys) || a.kind == .so) || !s.hostBusy a.core)
      && (a.kind != .so || (((s.core a.core).ctl.stores.all fun x => !x.so || decide (a.id < x.id))
        && (s.core a.core).ctl.loads.all fun x => !x.so || decide (a.id < x.id)))
      && !s.behindStores a
/-- The other package that a core's request goes to, if its home is in one (R389). -/
def State.otherPkg (s : State) (a : Access) : Option Nat :=
  if a.fault.isSome || a.barrier.isSome || s.keyOf a.place / nodeSize = pkgOf a.core then none else some (s.keyOf a.place / nodeSize)
/-- The distinct slots that a group see handle covers (R236). -/
def GSee.refs (g : GSee) : List TileRef := (g.slots.filterMap id).eraseDups
/-- Has core `c` performed every RC and SO access of its control stream before number `n`, with every `fence.rel` and every acquire
among them, of whatever kind its page is (R246, R248, R250)? -/
def State.released (s : State) (c n : Nat) : Bool :=
  (s.flight.all fun a => a.core != c || a.vec || decide (n ≤ a.id) || (a.kind == .un && a.barrier.isNone && !a.acq))
    && s.seesDone c n && (s.core c).ctl.localDone n
/-- Has every load of core `c` through a tile's handle before number `n` returned (R216, R237)? -/
def State.readsDone (s : State) (c n : Nat) (t : TileRef) : Bool :=
  (s.flight.all fun a => a.core != c || decide (n ≤ a.id) || a.req.op.writes ||
      (match a.place with | .tile u _ => u != t | .phys _ => true))
    && (s.gloads.all fun g => g.core != c || decide (n ≤ g.id) ||
      (match g.see with | some h => !h.refs.contains t | none => true))
/-- Every access that core `c` made through the fill handle of a tile is performed: the stores (R219), and the loads, for which R213
rules out that they find the tile PUBLISHED. -/
def State.tileStoresDone (s : State) (c : Nat) (t : TileRef) : Bool :=
  s.flight.all fun a => a.core != c || (match a.req.addr with | .tile h _ => h != .fill t | _ => true)
/-- Every slot that a group see handle covers and that can be reached is PUBLISHED, and every earlier acquire of the stream is performed
(R238, R248); a plain load waits for nothing (R239). -/
def State.gloadReady (s : State) (g : GLoad) : Bool :=
  match g.see with
  | none => true
  | some h => s.acquiresDone g.core g.id && h.refs.all fun t => !s.reaches g.core t.core || (s.tileOf t).st != .filling
/-- Has a leaf of a group load at a member in package `q` still to be read? -/
def State.leafOpen (s : State) (g : GLoad) (q : Nat) : Bool :=
  (g.leaves.zip g.group.members).any fun l => l.1 == .unread && match s.member g.core l.2 with
    | some d => pkgOf d == q
    | none => false
/-- Is a message a request of core `c` to package `q` that has been sent, no later than access `n`: what it waits for at its source is
done (R214, R216, R219, R257)? -/
def State.msgSent (s : State) (c q n : Nat) : Msg → Bool
  | .fillDrop t d k poison => d == c && pkgOf t.core == q && decide (k ≤ n) && (poison || (s.released d k && s.tokensThrough d k))
  | .seeDrop t d k => d == c && pkgOf t.core == q && decide (k ≤ n) && s.readsDone d k t
  | .handle src dst _ h _ k => src == c && pkgOf dst == q && decide (k ≤ n) && (match h with | .fill t => s.tileStoresDone src t | _ => true)
/-- The package that a chunk names, if it can be reached. -/
def State.remoteHome (s : State) (c target : Nat) : Option Nat :=
  if target / 4096 == (s.pkg (pkgOf c)).domain then s.nodePkg (pkgOf c) (target % 4096) else none
/-- Has core `c` sent a request to the other package `q` before number `n` that is not delivered yet: an access, a leaf of a group load,
one of some messages, one of some chunks? The request network delivers them in the order sent (R390, R396). -/
def State.behindSent (s : State) (c q n : Nat) (ms : List Msg) (chs : List Chunk) : Bool :=
  q != pkgOf c &&
    ((s.flight.zipIdx.any fun b =>
        b.1.core == c && decide (b.1.id < n) && !b.1.parked && s.otherPkg b.1 == some q && s.ordered b.2 b.1)
      || (s.gloads.any fun g => g.core == c && decide (g.id < n) && g.fault.isNone && s.leafOpen g q && s.gloadReady g)
      || ms.any (s.msgSent c q n)
      || chs.any fun h => h.src == c && decide (h.seq ≤ n) && !h.performed && s.remoteHome c h.target == some q)
/-- Is an earlier request of the core to the same package sent and not yet delivered (R390)? -/
def State.behindRequest (s : State) (a : Access) : Bool :=
  match s.otherPkg a with
  | none => false
  | some q => s.behindSent a.core q a.id s.msgs s.chunks
/-- Is it a request upstream for a function in ERROR, which is not sent (R406)? -/
def State.unsent (s : State) (a : Access) : Bool :=
  regionOf (s.keyOf a.place % nodeSize) == .host && a.fault.isNone &&
    match s.funcOf a.core with
    | some f => ((s.pkg (pkgOf a.core)).func f).tdi == .error
    | none => false
/-- May the access at place `k` of the flight be performed now? -/
def State.mayPerform (s : State) (k : Nat) (a : Access) : Bool :=
  s.ordered k a && !s.behindRequest a && !s.unsent a
    && (a.fault.isSome || a.barrier.isSome || s.mayCross a.core (s.keyOf a.place))

/-! ## At the home -/

/-- Does a swap hold writes to a key (R198)? -/
def State.writeHeld (s : State) (k : Nat) : Bool :=
  match regionOf (k % nodeSize) with
  | .auto =>
    match (s.frameDie (k / nodeSize) (frameOf k)).swapping with
    | some (g, _) => g == frameOf k
    | none => false
  | _ => false

/-- The unsigned type of a width (R261). -/
def unsignedTy : Ty → Ty
  | .i8 => .u8 | .i16 => .u16 | .i32 => .u32 | .i64 => .u64 | t => t
/-- The new value of an atomic on one element, with its flags (R154, R252, R253, R261): adds round to nearest even, min and
max are those of R133, integers wrap. -/
def AmoOp.apply (o : AmoOp) (t : Ty) (old b : Word) : Lane :=
  match o with
  | .swap => { v := t.extend (t.low b), fl := 0, nan := false }
  | .add | .fadd => laneBin .add t .rne old b
  | .and => laneLogic .and t old b 0
  | .or => laneLogic .or t old b 0
  | .xor => laneLogic .xor t old b 0
  | .min | .fmin => laneMin false t old b
  | .max | .fmax => laneMin true t old b
  | .minu => laneMin false (unsignedTy t) old b
  | .maxu => laneMin true (unsignedTy t) old b

/-- What an access brought back: its datum, the flags it carries and whether a NaN was produced. -/
structure Result where
  datum : Datum
  flags : BitVec 5
  nan : Bool
  deriving DecidableEq, Repr
/-- A datum without flags. -/
def Result.of (d : Datum) : Result := { datum := d, flags := 0, nan := false }

/-- The virtual address that a UE names: the granule's, for an address that was translated; 0 where there is none (R201). -/
def ReqAddr.granule (a : ReqAddr) (k : Nat) : Word :=
  match a with
  | .virt va => va - BitVec.ofNat 64 (k % granuleSize k)
  | _ => 0

/-- MEMFLAGS of the partition of a core takes flags (R254). -/
def State.memFlags (s : State) (c : Nat) (f : BitVec 5) : State :=
  match s.partOfCore c with
  | some k =>
    if f = 0 then s
    else (s.modPart k fun p => { p with memflags := p.memflags ||| f }).modCore c fun x => { x with landedMem := x.landedMem ||| f }
  | none => s

/-- A write to the host range is acknowledged later (R241). -/
def State.noteHost (s : State) (c k : Nat) : State :=
  match regionOf (k % nodeSize) with
  | .host => if s.hostBusy c then s else s.modPkg (pkgOf c) fun x => { x with hostWrites := c :: x.hostWrites }
  | _ => s

/-- A request performed at a memory key (R252, R262 to R264). A poisoned granule stops an atomic or a reduction from
writing. -/
def State.performKey (s : State) (c : Nat) (r : Req) (k : Nat) : State × Result :=
  let n := r.ty.size
  let s := s.countFrame k n
  let s := match r.op, r.addr with
    | .store _, _ => s
    | _, .loc _ => s.onLocalRead c k
    | _, _ => s.onRead c k
  let bad := s.poisoned k n
  let old := r.ty.extend (s.readNat k n)
  let poisonDatum : Datum := if r.zue then .zeroed else .poison (r.addr.granule k)
  match r.op with
  | .load => (s, .of (if bad then poisonDatum else .value old))
  | .store v => ((s.writeNat k n (v.toNat % 2 ^ (8 * n))).noteHost c k, .of .absent)
  | .amo op v =>
    if bad then (s, .of poisonDatum)
    else
      let l := op.apply r.ty old v
      ((s.writeNat k n (r.ty.low l.v)).noteHost c k, { datum := .value old, flags := l.fl, nan := l.nan })
  | .red op v =>
    if bad then (s, .of .absent)
    else
      let l := op.apply r.ty old v
      (((s.writeNat k n (r.ty.low l.v)).noteHost c k).memFlags c l.fl, .of .absent)
  | .cas e v =>
    if bad then (s, .of poisonDatum)
    else if r.ty.low old = r.ty.low e then ((s.writeNat k n (r.ty.low v)).noteHost c k, .of (.value old))
    else (s, .of (.value old))

/-- What a home answers an access with: it is done, or parks there (R215), or is held by a swap (R198). -/
inductive Answer where
  | done (r : Result)
  | park
  | held
  deriving DecidableEq, Repr

/-- The home of a place can still be reached by a core (R391). -/
def State.reachesPlace (s : State) (c : Nat) : Place → Bool
  | .phys k => k / nodeSize == pkgOf c || s.nodePkg (pkgOf c) (s.pkg (k / nodeSize)).member == some (k / nodeSize)
  | .tile t _ => s.reaches c t.core
/-- The node that an access to a place names when it cannot be reached. -/
def State.placeNode (s : State) : Place → Word
  | .phys k => BitVec.ofNat 64 (s.pkg (k / nodeSize)).member
  | .tile t _ => s.nodeInfo t.core

/-- An access performed at its home, with the checks that only the home can make (R210, R213, R215, R391). -/
def State.performHome (s : State) (a : Access) : State × Answer :=
  let err (t : Trap) : State × Answer := (s, .done (.of (.fault t)))
  let run (k : Nat) : State × Answer :=
    if a.req.op.writes && s.writeHeld k then (s, .held)
    else
      let r := s.performKey a.core a.req k
      (r.1, .done r.2)
  match a.fault with
  | some t => err t
  | none =>
    if !s.reachesPlace a.core a.place then
      if a.back == .nowhere && a.req.op.writes then
        (s.modCore a.core fun x => { x with lost := some (s.placeNode a.place) }, .done (.of .absent))
      else err { cause := .groupAbsent, info := s.placeNode a.place }
    else match a.place, a.req.addr with
      | .phys k, _ => run k
      | .tile t off, .tile (.see _) o =>
        if !s.live t then err { cause := .badHandle, info := BitVec.ofInt 64 o }
        else match (s.tileOf t).st with
          | .filling => (s, .park)
          | .poisoned => err { cause := .poisonedTile, info := BitVec.ofInt 64 o }
          | _ => run (s.tileKey t off)
      | .tile t off, .tile _ o =>
        if s.live t then run (s.tileKey t off) else err { cause := .badHandle, info := BitVec.ofInt 64 o }
      | .tile t off, _ => run (s.tileKey t off)

/-- The access at place `k` is parked at its home: in the park list if it has room, else held outside it (R215). -/
def State.parkAccess (s : State) (k : Nat) (a : Access) : State :=
  let s := { s with flight := setNth s.flight k { a with parked := true } }
  match a.place with
  | .tile t _ => if (s.tileOf t).parked.length < 16
      then s.modTile t fun x => { x with parked := x.parked ++ [a.id] } else s
  | .phys _ => s

/-- Is an entry of a queue present: its datum or its fault has arrived (R85)? -/
def Datum.present : Datum → Bool
  | .absent => false
  | _ => true
/-- Is an entry of vlq present: every active lane has its datum or a fault (R95)? -/
def VlqEntry.present (e : VlqEntry) : Bool := e.lanes.all fun d => match d with | some x => x.present | none => true

/-- Entry `id` of a load queue filled. -/
def fillLq (l : List LqEntry) (id : Nat) (r : Result) : List LqEntry :=
  l.map fun e => if e.id = id then { e with datum := r.datum, flags := e.flags ||| r.flags, nan := e.nan || r.nan } else e
/-- Lane `lane` of entry `id` of a vector load queue filled. -/
def fillVlq (l : List VlqEntry) (id lane : Nat) (r : Result) : List VlqEntry :=
  l.map fun e =>
    if e.id = id then
      { e with lanes := setNth e.lanes lane (some r.datum), flags := e.flags ||| r.flags, nan := e.nan || r.nan
               nanLane := if r.nan && (!e.nan || decide (lane < e.nanLane)) then lane else e.nanLane } else e
/-- A result delivered into a queue entry. -/
def State.deliver (s : State) (c : Nat) (b : Back) (r : Result) : State :=
  match b with
  | .nowhere => s
  | .lq q id => s.modCore c fun x => { x with ctl := { x.ctl with lq := x.ctl.lq.set q (fillLq x.ctl.lq[q] id r) } }
  | .vlq q id lane =>
    s.modCore c fun x => { x with vec := { x.vec with vlq := x.vec.vlq.set q (fillVlq x.vec.vlq[q] id lane r) } }

/-- The access at place `k` of the flight goes as far as it can: it waits, parks, or is performed, delivers what it brought
back and leaves the flight. -/
def State.perform (s : State) (k : Nat) : State :=
  match s.flight[k]? with
  | none => s
  | some a =>
    if a.parked || !s.mayPerform k a then s
    else if a.barrier.isSome then { s with flight := dropNth s.flight k }
    else match s.performHome a with
      | (s1, .done r) => { s1 with flight := dropNth s1.flight k }.deliver a.core a.back r
      | (s1, .park) => s1.parkAccess k a
      | (s1, .held) => s1

end Sys2Proof.Machine
end

