-- ==== Sys2Proof/Machine/Frame.lean ====
section
/-! DEFINITION. The frame of R370 and R371: its fields, its 20 KiB of bytes, and the reading of a frame with the checks that
a return makes. -/
namespace Sys2Proof

/-- The code of a type in an entry's META (R29). -/
def Ty.num (t : Ty) : Nat :=
  match t with
  | .i8 => 0 | .i16 => 1 | .i32 => 2 | .i64 => 3 | .u8 => 4 | .u16 => 5 | .u32 => 6 | .u64 => 7
  | .f16 => 8 | .bf16 => 9 | .f32 => 10 | .f64 => 11 | .e4m3 => 12 | .e5m2 => 13
/-- The type of a code. -/
def Ty.ofNum (n : Nat) : Ty :=
  match n with
  | 0 => .i8 | 1 => .i16 | 2 => .i32 | 3 => .i64 | 4 => .u8 | 5 => .u16 | 6 => .u32 | 7 => .u64
  | 8 => .f16 | 9 => .bf16 | 10 => .f32 | 11 => .f64 | 12 => .e4m3 | _ => .e5m2

end Sys2Proof

namespace Sys2Proof.Machine

/-- A frame entry (R371). -/
structure FrameEntry where
  value : List Word
  lanes : Mask
  poison : Mask
  valid : Bool
  kind : PKind
  reg : Nat
  remain : Nat
  nan : Bool
  flags : BitVec 5
  offset : Word
  bank : BitVec 24
  op : Nat
  ty : Nat
  deriving DecidableEq, Repr

/-- The header of a frame (R370) and its entries, valid or not, in order. -/
structure Frame where
  cpc : Word
  vpc : Word
  savedK : Bool
  vrun : Bool
  csync : Bool
  vsync : Bool
  nanPend : Bool
  vidle : Nat
  cidle : Nat
  cause : Word
  info : Word
  info2 : Word
  info3 : Word
  qctl : Nat
  f : FReg
  loops : List Level
  pnan : Word
  entries : List FrameEntry
  deriving DecidableEq, Repr

/-- Bytes of a frame. -/
def frameSize : Nat := 20480
/-- The local offsets at which a frame fits: it lies within 0x00_0000 to 0x1F_FFBF (R368). -/
def frameFits (off : Nat) : Bool := decide (off + frameSize ≤ 0x1F_FFC0)

/-- The KIND code of a pending result (R371). -/
def PKind.code : PKind → Nat
  | .v => 0 | .k => 1 | .a => 2 | .f => 3 | .store => 4 | .elems => 5 | .red => 6
/-- The kind of a KIND code; 7 is reserved. -/
def PKind.ofCode (n : Nat) : Option PKind :=
  match n with
  | 0 => some .v | 1 => some .k | 2 => some .a | 3 => some .f | 4 => some .store | 5 => some .elems | 6 => some .red
  | _ => none

/-- F as a frame holds it (R370). -/
def FReg.code (f : FReg) : Nat :=
  f.count + (if f.any then 256 else 0) + (if f.all then 512 else 0) + (if f.none then 1024 else 0)
/-- F from its code. -/
def FReg.ofCode (n : Nat) : FReg :=
  { any := n.testBit 8, all := n.testBit 9, none := n.testBit 10, count := n % 128 }

/-- One bit at a place. -/
def bitAt (b : Bool) (n : Nat) : Nat := if b then 2 ^ n else 0

/-- The 576 bytes of an entry (R371). -/
def FrameEntry.bytes (e : FrameEntry) : List Byte :=
  ((upto 64).map fun i => leBytes 8 (e.value.getD i 0).toNat).flatten
    ++ leBytes 8 e.lanes.toNat ++ leBytes 8 e.poison.toNat
    ++ leBytes 8 (e.reg + 256 * e.kind.code + bitAt e.valid 15)
    ++ leBytes 4 e.remain ++ leBytes 4 (e.flags.toNat + bitAt e.nan 7)
    ++ leBytes 8 e.offset.toNat ++ leBytes 8 (e.ty + 16 * e.op + 256 * e.bank.toNat) ++ leBytes 16 0

/-- The 32 bytes of a loop level (R370). -/
def Level.bytes (l : Level) : List Byte :=
  leBytes 8 l.start.toNat ++ leBytes 8 l.stop.toNat ++ leBytes 8 l.count.toNat ++ leBytes 8 (bitAt l.armed 0)

/-- `n` bytes of zeros. -/
def zeros (n : Nat) : List Byte := List.replicate n 0

/-- STATE of a frame (R370). -/
def Frame.state (f : Frame) : Nat :=
  bitAt f.savedK 15 + bitAt f.vrun 14 + bitAt f.csync 13 + bitAt f.vsync 12 + bitAt f.nanPend 11

/-- The 20 KiB of a frame (R370). -/
def Frame.bytes (f : Frame) : List Byte :=
  leBytes 8 f.cpc.toNat ++ leBytes 8 f.vpc.toNat ++ leBytes 8 f.state ++ leBytes 8 (f.cidle + 65536 * f.vidle)
    ++ leBytes 8 f.cause.toNat ++ leBytes 8 f.info.toNat ++ leBytes 8 f.info2.toNat ++ leBytes 8 f.info3.toNat
    ++ leBytes 8 f.qctl ++ leBytes 8 f.f.code ++ (f.loops.map Level.bytes).flatten ++ leBytes 8 f.pnan.toNat
    ++ zeros (0x800 - 0xD8) ++ (f.entries.map FrameEntry.bytes).flatten ++ zeros (576 * (32 - f.entries.length))

/-- A little-endian number inside a list of bytes. -/
def at_ (b : List Byte) (off n : Nat) : Nat := leNat ((b.drop off).take n)
/-- A word inside a list of bytes. -/
def wordAt (b : List Byte) (off : Nat) : Word := BitVec.ofNat 64 (at_ b off 8)
/-- Is a bit of a number set? -/
def hasBit (n k : Nat) : Bool := n.testBit k

/-- Does META hold a reserved code: a type of 14 or 15, a FORMAT of 13 to 15 or a ROUND of 5 to 7 (R29, R112, R173)? -/
def metaReserved (m : Nat) : Bool := decide (14 ≤ m % 16 ∨ 13 ≤ m / 256 % 16 ∨ 5 ≤ m / 4096 % 8)
/-- Does a kind's entry name a register or a `vredm` operation that does not exist (R87, R155)? -/
def PKind.badCode (kind : PKind) (reg op ty : Nat) : Bool :=
  match kind with
  | .k => decide (8 ≤ reg)
  | .a => decide (12 ≤ reg)
  | .red => decide (op = 0 ∨ (if ty < 8 then 6 else 3) < op)
  | .v | .f | .store | .elems => false
/-- Does a kind use OFFSET (R371)? -/
def PKind.usesOffset (kind : PKind) : Bool :=
  match kind with
  | .store | .red => true
  | .v | .k | .a | .f | .elems => false
/-- Does a kind use one word of VALUE alone (R371)? -/
def PKind.oneWord (kind : PKind) : Bool :=
  match kind with
  | .k | .a | .f => true
  | .v | .store | .elems | .red => false
/-- Does a kind use META? META holds what a store or a reduction needs when it lands (R371). -/
def PKind.usesMeta (kind : PKind) : Bool :=
  match kind with
  | .store | .elems | .red => true
  | .v | .k | .a | .f => false

/-- An entry from its bytes. A set bit of a reserved field, a set zero byte or field and a reserved code give none, as does a valid
entry whose REMAIN is 0 or above 30, or that names a register or an operation that does not exist (R370). A field that the kind
does not use is a zero field (entry 88). -/
def FrameEntry.parse (b : List Byte) : Option FrameEntry :=
  let dest := at_ b 528 8
  let remain := at_ b 536 4
  let fl := at_ b 540 4
  let m := at_ b 552 8
  match PKind.ofCode (dest / 256 % 8) with
  | none => none
  | some kind =>
    let valid := hasBit dest 15
    if dest / 65536 ≠ 0 ∨ dest / 2 ^ 11 % 16 ≠ 0 ∨ dest / 32 % 8 ≠ 0 ∨ fl / 256 ≠ 0 ∨ fl / 32 % 4 ≠ 0
        ∨ m / 2 ^ 32 ≠ 0 ∨ metaReserved m ∨ at_ b 560 16 ≠ 0 ∨ (at_ b 544 8 ≠ 0 ∧ !kind.usesOffset) ∨ (m ≠ 0 ∧ !kind.usesMeta)
        ∨ (kind.oneWord ∧ ((b.drop 8).take 504).any (· != 0)) then none
    else if valid ∧ (remain = 0 ∨ 30 < remain ∨ kind.badCode (dest % 32) (m / 16 % 16) (m % 16)) then none
    else some
      { value := (upto 64).map fun i => wordAt b (8 * i), lanes := wordAt b 512, poison := wordAt b 520
        valid := valid, kind := kind, reg := dest % 32, remain := remain, nan := hasBit fl 7
        flags := BitVec.ofNat 5 (fl % 32), offset := wordAt b 544, bank := BitVec.ofNat 24 (m / 256)
        op := m / 16 % 16, ty := m % 16 }

/-- A loop level from its bytes; none where a reserved part is not zero. -/
def Level.parse (b : List Byte) : Option Level :=
  if at_ b 24 8 ≥ 2 ∨ at_ b 16 8 ≥ 2 ^ 32 then none
  else some { start := wordAt b 0, stop := wordAt b 8, count := BitVec.ofNat 32 (at_ b 16 8), armed := hasBit (at_ b 24 8) 0 }

/-- A frame from its bytes, with every check of R370 on reserved fields, reserved codes and zero bytes. -/
def Frame.parse (b : List Byte) : Option Frame :=
  let st := at_ b 0x10 8
  let idle := at_ b 0x18 8
  let qctl := at_ b 0x40 8
  let f := at_ b 0x48 8
  let loops := (upto 4).filterMap fun i => Level.parse ((b.drop (0x50 + 32 * i)).take 32)
  let es := (upto 32).filterMap fun i => FrameEntry.parse ((b.drop (0x800 + 576 * i)).take 576)
  let cause := at_ b 0x20 8
  if st / 65536 ≠ 0 ∨ st % 2 ^ 11 ≠ 0 ∨ cause / 65536 ≠ 0 ∨ cause / 256 % 32 ≠ 0 ∨ at_ b 0x30 8 % 2 ^ 32 ≥ 16
      ∨ (!hasBit cause 13 ∧ (at_ b 0x30 8 ≠ 0 ∨ at_ b 0x38 8 ≠ 0)) ∨ (!hasBit st 11 ∧ at_ b 0xD0 8 ≠ 0) ∨ idle / 2 ^ 26 ≠ 0 ∨ idle / 2 ^ 10 % 64 ≠ 0 ∨ qctl / 256 ≠ 0
      ∨ qctl % 4 = 3 ∨ qctl / 4 % 4 = 3 ∨ qctl / 16 % 4 = 3 ∨ qctl / 64 = 3
      ∨ f / 2 ^ 11 ≠ 0 ∨ hasBit f 7 ∨ loops.length ≠ 4 ∨ es.length ≠ 32
      ∨ ((b.drop 0xD8).take (0x800 - 0xD8)).any (· != 0) then none
  else some
    { cpc := wordAt b 0, vpc := wordAt b 8, savedK := hasBit st 15, vrun := hasBit st 14, csync := hasBit st 13
      vsync := hasBit st 12, nanPend := hasBit st 11, vidle := idle / 65536, cidle := idle % 1024
      cause := wordAt b 0x20, info := wordAt b 0x28, info2 := wordAt b 0x30, info3 := wordAt b 0x38, qctl := qctl
      f := FReg.ofCode f, loops := loops, pnan := wordAt b 0xD0, entries := es }

/-- A pending result as a frame entry, at a stream cycle (R367). -/
def PEntry.toFrame (e : PEntry) (now : Nat) : FrameEntry :=
  { value := e.value.toList, lanes := e.lanes, poison := e.poison, valid := true, kind := e.kind, reg := e.reg
    remain := e.due - now, nan := e.nan, flags := e.flags
    offset := if e.kind.usesOffset then e.offset else 0
    bank := if e.kind.usesMeta then e.bank else 0, op := if e.kind.usesMeta then e.op else 0
    ty := if e.kind.usesMeta then e.ty.num else 0 }
/-- The lanes of a list of words, in a form that evaluates on numerals. -/
def lanesOf (l : List Word) : Lanes := Vector.ofFn fun i => l.getD i.val 0
/-- A frame entry back in flight at a stream cycle (R372); the address of its word is not in the frame. -/
def FrameEntry.toPending (e : FrameEntry) (now : Nat) : PEntry :=
  { kind := e.kind, reg := e.reg, value := lanesOf e.value, lanes := e.lanes, poison := e.poison, due := now + e.remain
    flags := e.flags, nan := e.nan, nanLane := 0, src := none, pva := [], offset := e.offset, home := e.offset.toNat / bankSize % 16
    runs := [], era := 0, seq := 0, bank := e.bank, op := e.op, ty := Ty.ofNum e.ty }

end Sys2Proof.Machine
end

