-- ==== Sys2Proof/Machine/Ops.lean ====
section
/-! DEFINITION. The shared operations of the meanings: registers, flags, how a word issues, waits or traps, taking an
exception (R367, R368) and the return from one (R368, R370, R372, R373). -/
namespace Sys2Proof.Machine

/-! ## How an offered word ends -/

/-- A word that does not issue: it waits in this cycle, or it traps. -/
inductive Stop where
  | hold (w : Wait)
  | trap (t : Trap)
  deriving DecidableEq, Repr
/-- A word that has an effect: it issues and the next word follows; it issues and transfers; it issues and its stream waits
for an answer with PC still at it; it goes on waiting with an effect at a home. -/
inductive Done where
  | go (s : State)
  | jump (s : State) (pc : Word)
  | block (s : State)
  | stay (s : State) (w : Wait)
  deriving DecidableEq, Repr
/-- The result of a word. -/
abbrev Issue := Except Stop Done
/-- A trap of a word. -/
def trapOf {α : Type} (c : Cause) (info : Word) : Except Stop α := .error (.trap { cause := c, info := info })
/-- A wait of a word. -/
def waitOf {α : Type} (w : Wait) : Except Stop α := .error (.hold w)
/-- A check that holds or traps. -/
def require (b : Bool) (c : Cause) (info : Word) : Except Stop Unit := if b then .ok () else trapOf c info
/-- A condition of issue. -/
def awaits (b : Bool) (w : Wait) : Except Stop Unit := if b then .ok () else waitOf w
/-- Two waits as one: the queue operations of both, each once (R48). -/
def Wait.join : Wait → Wait → Wait
  | .queue a l, .queue b m => .queue a (l ++ (b :: m).filter fun n => n != a && !l.contains n)
  | .queue a l, _ => .queue a l
  | _, w => w
/-- A condition of issue that comes before another: a word that it holds is blocked on the queue operations of the other too (R48). -/
def alsoBlocked {α : Type} (a : Except Stop α) (b : Except Stop Unit) : Except Stop α :=
  match a, b with
  | .error (.hold v), .error (.hold w) => .error (.hold (v.join w))
  | a, _ => a
/-- Two conditions of issue (R48). -/
def together (a b : Except Stop Unit) : Except Stop Unit := do
  alsoBlocked a b
  b
/-- A checked value whose failure is a trap. -/
def orTrap {α : Type} (e : Except Trap α) : Except Stop α :=
  match e with
  | .ok a => .ok a
  | .error t => .error (.trap t)

/-! ## Registers and status -/

/-- The core whose word runs. -/
def State.me (s : State) : Core := s.core s.cur
/-- The state with the core whose word runs changed. -/
def State.onMe (s : State) (f : Core → Core) : State := s.modCore s.cur f
/-- The control stream changed. -/
def Core.withCtl (x : Core) (f : Ctl → Ctl) : Core := { x with ctl := f x.ctl }
/-- The vector stream changed. -/
def Core.withVec (x : Core) (f : Vec → Vec) : Core := { x with vec := f x.vec }
/-- The CSRs changed. -/
def Core.withCsr (x : Core) (f : Csrs → Csrs) : Core := { x with csr := f x.csr }

/-- A scalar register; s0 reads zero (R41). -/
def Ctl.reg (x : Ctl) (r : Fin 32) : Word := if r = 0 then 0 else x.s[r]
/-- A scalar register written, its poison cleared; a write to s0 is discarded (R41, R201). -/
def Ctl.setReg (x : Ctl) (r : Fin 32) (v : Word) : Ctl :=
  if r = 0 then x else { x with s := x.s.set r v, poison := x.poison.set r none }
/-- A scalar register poisoned, with the INFO of the UE it will raise (R201). -/
def Ctl.poisonReg (x : Ctl) (r : Fin 32) (info : Word) : Ctl :=
  if r = 0 then x else { x with poison := x.poison.set r (some info) }
/-- A mask register; k0 reads all ones (R87). -/
def Vec.mask (x : Vec) (k : Fin 8) : Mask := if k = 0 then BitVec.allOnes 64 else x.k[k]
/-- The word that a stream offers, for the INFO of its causes (R362). -/
def Ctl.offered (x : Ctl) : Word := x.words.headD 0
/-- The word that the vector stream offers. -/
def Vec.offered (x : Vec) : Word := x.words.headD 0

/-- A bit of a CSR. -/
def bitOf (w : Word) (n : Nat) : Bool := w.getLsbD n
/-- A word with a bit set. -/
def setBit (w : Word) (n : Nat) : Word := w ||| BitVec.ofNat 64 (2 ^ n)
/-- A word with a bit cleared. -/
def clearBit (w : Word) (n : Nat) : Word := w &&& ~~~(BitVec.ofNat 64 (2 ^ n))
/-- FSR.NANTRAP (R115). -/
def Core.nanTraps (x : Core) : Bool := bitOf x.csr.fsr 11
/-- FSR.RM (R115). -/
def Core.rm (x : Core) : RM := RM.ofCode (x.csr.fsr.toNat / 256 % 8)
/-- Bits that hardware merges into FSR in this cycle (R117). -/
def Core.mergeFsr (x : Core) (w : Word) : Core :=
  { x with csr := { x.csr with fsr := x.csr.fsr ||| w }, landed := x.landed ||| w
           fresh := x.fresh ||| (w &&& ~~~x.csr.fsr) }
/-- Flags merged into FSR (R117). -/
def Core.mergeFlags (x : Core) (f : BitVec 5) : Core := x.mergeFsr (f.setWidth 64)
/-- A zero-on-UE substitution counted (R86, R203). -/
def Core.countUez (x : Core) : Core :=
  (x.mergeFsr (BitVec.ofNat 64 (2 ^ 15))).withCsr fun r => { r with uezcount := r.uezcount + 1 }
/-- UIE.ACTIVE (R366). -/
def Core.uliActive (x : Core) : Bool := bitOf x.csr.uie 1
/-- Is the control stream completing a word past its commit point (R260)? -/
def Ctl.past (x : Ctl) : Bool := x.committed || x.reply.isSome

/-! ## Local accesses of the control stream -/

/-- Bytes from a local offset on, with a local store laid over them. -/
def LStore.over (st : LStore) (off : Nat) (bs : List Byte) : List Byte :=
  bs.zipIdx.map fun b =>
    if st.off ≤ off + b.2 ∧ off + b.2 < st.off + st.bytes.length then st.bytes.getD (off + b.2 - st.off) 0 else b.1
/-- Bytes at a local offset as the control stream reads them: its own stores in flight over the memory (R50, R242). -/
def State.localBytes (s : State) (c off n : Nat) : List Byte :=
  (s.core c).ctl.stores.foldl (fun bs st => st.over off bs) (s.readBytes (spadKey c off) n)
/-- The local stores in flight that come before a local access of the stream. -/
def Ctl.storesBefore (x : Ctl) (seq : Nat) : List LStore := x.stores.filter fun st => decide (st.seq < seq)
/-- Bytes at a local offset as a local load reads them: the stores before it over the memory (R50, R242). -/
def State.bytesBefore (s : State) (c seq off n : Nat) : List Byte :=
  ((s.core c).ctl.storesBefore seq).foldl (fun bs st => st.over off bs) (s.readBytes (spadKey c off) n)
/-- Poison of `n` bytes at a local offset as a local load reads them: a store before it that covers a granule whole has
cleared it (R50, R201). -/
def State.poisonBefore (s : State) (c seq off n : Nat) : Bool :=
  s.poison.any fun g => decide (g < spadKey c off + n ∧ spadKey c off < g + granuleSize g)
    && ((s.core c).ctl.storesBefore seq).all fun st => !(st.bytes.length == 8 && spadKey c st.off == g)

/-- The local accesses that wait for a stream port, in program order: their numbers and banks (R50). -/
def Ctl.portWaits (x : Ctl) : List (Nat × Nat) :=
  let l := (x.loads.map fun l => (l.seq, l.bank)) ++ x.stores.filterMap fun st => st.bank.map fun b => (st.seq, b)
  (sortBy (fun n => n) (l.map (·.1))).filterMap fun n => l.find? fun w => w.1 == n
/-- Those that get their port: in program order, none behind one that still waits, a port once a cycle (R50). -/
def grantPorts : List Nat → List (Nat × Nat) → List (Nat × Nat)
  | _, [] => []
  | used, w :: r => if used.contains w.2 then [] else w :: grantPorts (w.2 :: used) r
/-- Does a local access that issues now have its bank's port at once: no earlier one is left waiting, and neither the vector word of
this cycle nor an earlier access takes the port (R50)? -/
def Core.portFree (x : Core) (bank : Nat) : Bool :=
  let w := x.ctl.portWaits
  (grantPorts x.vec.ports w).length == w.length && !x.vec.ports.contains bank && w.all fun a => a.2 != bank

/-- The datum of a local load into the register that still waits for it; a local acquire counts on from here (R46, R50, R201,
R243). -/
def Ctl.landLoad (x : Ctl) (l : LLoad) (v : Word) (bad : Bool) : Ctl :=
  let y := match x.busy.find? fun b => b.waits == some l.seq with
    | some b =>
      let z := x.setReg (Fin.ofNat 32 b.reg) v
      if bad then z.poisonReg (Fin.ofNat 32 b.reg) 0 else z
    | none => x
  { y with
    loads := y.loads.filter fun m => m.seq != l.seq
    busy := y.busy.map fun b => if b.waits == some l.seq then { b with waits := none } else b
    acquire := if l.acq then some 4 else y.acquire }
/-- Does an armed injection make the control stream's own read of its scratchpad an uncorrectable error (R205)? -/
def Core.armedUe (x : Core) : Bool := x.armed 0 && x.csr.errinj.toNat / 2 % 4 == 1
/-- A local load has its port: it reads its bytes (R50). -/
def State.landLoad (s : State) (c : Nat) (l : LLoad) : State :=
  let s1 := s.onLocalRead c (spadKey c l.off)
  let v := l.ty.extend (leNat (s1.bytesBefore c l.seq l.off l.ty.size))
  let bad := (s.core c).armedUe || s1.poisonBefore c l.seq l.off l.ty.size
  s1.modCore c fun x => x.withCtl fun t => t.landLoad l v bad
/-- The loads that have their port in this cycle read their bytes (R50). -/
def State.grantLoads (s : State) (c : Nat) (won : List Nat) : State :=
  ((s.core c).ctl.loads.filter fun l => won.contains l.seq).foldl (fun s l => s.landLoad c l) s

/-! ## Taking an exception -/

/-- The code of a cause (R362). -/
def Cause.code : Cause → Nat
  | .illegal => 0 | .wrongStream => 1 | .priv => 2 | .misalign => 3 | .pageFault => 4 | .perm => 5 | .ordFault => 6
  | .ue => 7 | .issueConflict => 8 | .lendBusy => 9 | .bankLent => 10 | .queueStall => 11 | .forwardWait => 12
  | .overlap => 13 | .param => 14 | .report => 15 | .abandonedFill => 16 | .poisonedTile => 17 | .selfPark => 18
  | .writeViaSee => 19 | .badHandle => 20 | .groupAbsent => 21 | .groupEmpty => 22 | .groupMemberUe => 23
  | .nanTrap => 24 | .nonConv => 25 | .engineDone => 26 | .swt => 27 | .sys => 28 | .thermalSave => 29
  | .preemptWatchdog => 30 | .debug => 31 | .trimUe => 32 | .mailNotify => 33
/-- The causes that UDELEG can delegate (R362). -/
def Cause.delegable (c : Cause) : Bool :=
  decide (c.code ≤ 24) && c != .priv || c == .swt

/-- What is taken: a cause with its INFO, where it came from, and the queue, number and chunk of an engine fault (R370). -/
structure Event where
  trap : Trap
  vstream : Bool
  engine : Bool
  async : Bool
  info2 : Word
  info3 : Word
  deriving DecidableEq, Repr
/-- A synchronous trap of a stream. -/
def Event.sync (t : Trap) (v : Bool) : Event :=
  { trap := t, vstream := v, engine := false, async := false, info2 := 0, info3 := 0 }
/-- An asynchronous event. -/
def Event.ofAsync (t : Trap) : Event :=
  { trap := t, vstream := false, engine := false, async := true, info2 := 0, info3 := 0 }
/-- UCAUSE or KCAUSE (R365). -/
def Event.causeWord (e : Event) : Word :=
  BitVec.ofNat 64 (e.trap.cause.code + bitAt e.engine 13 + bitAt e.vstream 14 + bitAt e.async 15)
/-- Is it the NANTRAP of a stream itself (R367)? -/
def Event.ownNan (e : Event) : Bool := e.trap.cause == .nanTrap && !e.async

/-- The local loads and stores of the control stream performed, in program order (R56, R367). -/
def State.performLocal (s : State) (c : Nat) : State :=
  let x := (s.core c).ctl
  ((sortBy (fun n => n) (x.loads.map (·.seq) ++ x.stores.map (·.seq))).foldl (fun s n =>
    match x.loads.find? fun l => l.seq == n with
    | some l => s.landLoad c l
    | none => match x.stores.find? fun st => st.seq == n with
      | some st => s.write (spadKey c st.off) st.bytes
      | none => s) s).modCore c fun x => x.withCtl fun t => { t with stores := [] }

/-- A core leaves the park lists and the queues of claims in which it waits, and its blocking load is cancelled (R84, R215,
R260). -/
def State.withdraw (s : State) (c : Nat) : State :=
  let id? := (s.core c).ctl.blk.map (·.id)
  let mine (n : Nat) : Bool := id? == some n
  let s1 := { s with
    flight := s.flight.filter fun a => !mine a.id
    flits := s.flits.filter fun f => !mine f.access
    gloads := s.gloads.filter fun g => !mine g.id
    cores := Tab.mapVal s.cores fun x =>
      { x with
        tiles := Tab.mapVal x.tiles fun t => { t with parked := t.parked.filter fun n => !mine n }
        rings := Tab.mapVal x.rings fun r =>
          { r with waiters := r.waiters.filter (· != c), readers := r.readers.filter (·.core != c) } } }
  s1.modCore c fun x => x.withCtl fun t => { t with blk := none, asked := false, drained := [] }

/-- The frame that an event writes (R367, R370, R371). -/
def Core.frame (x : Core) (e : Event) : Frame :=
  let pend : Option Word :=
    if e.ownNan then (if e.vstream then none else x.vec.nan)
    else match x.ctl.nan with | some i => some i | none => x.vec.nan
  { cpc := x.ctl.pc, vpc := x.vec.pc, savedK := x.ctl.kernel, vrun := x.vec.run == .running || x.vec.run == .kernelRun
    csync := x.ctl.wait == some .rendezvous, vsync := x.vec.wait == some .rendezvous, nanPend := pend.isSome
    vidle := x.vec.idle.getD 0, cidle := x.ctl.idle.getD 0, cause := e.causeWord, info := e.trap.info
    info2 := e.info2, info3 := e.info3, qctl := 0, f := x.ctl.f, loops := x.vec.loops.toList, pnan := pend.getD 0
    entries := x.vec.pend.map fun p => p.toFrame x.vec.now }

/-- Both streams after a capture: the control stream's results have landed, the vector stream is held, its results in flight
stand in the frame; a NANTRAP that is taken or recorded clears FSR.NANTRAP (R118, R367). -/
def Core.captured (x : Core) (e : Event) : Core :=
  let nan := e.ownNan || x.ctl.nan.isSome || x.vec.nan.isSome
  { x with
    ctl := { x.ctl with words := [], idle := none, nan := none, busy := [], div := 0, wait := none, qcnt := []
                        offer := .trapped, acquire := none }
    vec := { x.vec with run := .held, words := [], idle := none, pend := [], wait := none, qcnt := [], offer := .idle
                        trap := none, nan := none, nanNow := false }
    csr := if nan then { x.csr with fsr := clearBit x.csr.fsr 11 } else x.csr }

/-- The local offset that UFRAME or KFRAME names (R365). -/
def frameOff (w : Word) : Nat := w.toNat / 64 * 64 % 2 ^ 21
/-- The address in UVEC or KVEC (R365). -/
def vecAddr (w : Word) : Word := w &&& ~~~7

/-- A core's results and waits settled, and the frame of an event written at a local offset (R367, R368). -/
def State.capture (s : State) (c : Nat) (e : Event) (off : Nat) : State :=
  let s1 := (s.performLocal c).withdraw c
  let x := s1.core c
  (s1.write (spadKey c off) (x.frame e).bytes).setCore c ((x.captured e).withVec fun v =>
    { v with frames := v.frames.put off { now := x.vec.now, next := s1.nextId, divAt := x.vec.divAt, idxAt := x.vec.idxAt, pend := x.vec.pend } })

/-- s24 to s29 exchanged with the shadow set (R368). -/
def Ctl.swapShadow (x : Ctl) : Ctl :=
  { x with
    s := Vector.ofFn fun i => if 24 ≤ i.val ∧ i.val < 30 then x.shadow.toList.getD (i.val - 24) 0 else x.s[i]
    shadow := Vector.ofFn fun i => x.s.toList.getD (i.val + 24) 0
    poison := Vector.ofFn fun i => if 24 ≤ i.val ∧ i.val < 30 then (x.shadowPoison.toList.getD (i.val - 24) none) else x.poison[i]
    shadowPoison := Vector.ofFn fun i => x.poison.toList.getD (i.val + 24) none }

/-- Kernel entry: the frame at KFRAME, KCAUSE and KINFO, privilege K, KFRAME.BASE + 320, and on at KVEC. A frame that does
not fit stops the core with a core error (R368). -/
def State.enterKernel (s : State) (c : Nat) (e : Event) : State :=
  let off := frameOff (s.core c).csr.kframe
  if frameFits off then
    (s.capture c e off).modCore c fun x =>
      { x with
        ctl := { x.ctl with running := true, kernel := true, pc := vecAddr x.csr.kvec }
        csr := { x.csr with kcause := e.causeWord, kinfo := e.trap.info, kframe := x.csr.kframe + 320 * 64 }
        live := off :: x.live }
  else (s.modCore c fun x => { x with mode := .stopped }).coreError c e.trap.cause.code

/-- A user-level interrupt: the frame at UFRAME, UCAUSE and UINFO, ACTIVE, the shadow set, and on at UVEC; one whose frame
does not fit is a kernel trap PERM (R368). -/
def State.enterUli (s : State) (c : Nat) (e : Event) : State :=
  let off := frameOff (s.core c).csr.uframe
  if frameFits off then
    (s.capture c e off).modCore c fun x =>
      { x with
        ctl := { x.ctl.swapShadow with running := true, pc := vecAddr x.csr.uvec }
        csr := { x.csr with ucause := e.causeWord, uinfo := e.trap.info, uie := setBit x.csr.uie 1 } }
  else s.enterKernel c { e with trap := { cause := .perm, info := (s.core c).csr.uframe } }

/-- Taking a cause of kind S or E: as a user-level interrupt where UDELEG delegates it, the core is at U and no handler runs;
otherwise as a kernel trap (R364). -/
def State.take (s : State) (c : Nat) (e : Event) : State :=
  let x := s.core c
  if e.trap.cause.delegable && bitOf x.csr.udeleg e.trap.cause.code && !x.ctl.kernel && !x.uliActive then s.enterUli c e
  else s.enterKernel c e

/-! ## The return from an exception -/

/-- A frame's entries back in flight. An entry that stands as its capture wrote it is the result that was captured, with its NaN
lane and its word (R118, R372). -/
def Frame.pending (f : Frame) (k : Option VFrame) (now : Nat) : List PEntry :=
  (f.entries.zipIdx.filter (·.1.valid)).map fun e =>
    match k with
    | some v => match v.pend[e.2]? with
      | some p => if p.toFrame v.now == e.1 then { p with due := now + e.1.remain } else e.1.toPending now
      | none => e.1.toPending now
    | none => e.1.toPending now
/-- How the vector stream stands after a return: outside every handler it runs or is stopped; inside one it is held, or goes
on with a kernel run (R369). -/
def runAfter (inHandler : Bool) (f : Frame) : VRun :=
  if inHandler then (if f.vrun then .kernelRun else .held) else if f.vrun then .running else .stopped

/-- Both streams as a frame at a local offset holds them; a core that was idle when its handler began is idle again. The stream is at
the cycle of the capture again (R91, R372). Stream time does not advance in the return's own cycle, and both residual IDLE counts run from the next one, in which a pending NANTRAP of
the frame is taken (R372). -/
def Core.restore (x : Core) (off : Nat) (f : Frame) (kernel inHandler : Bool) : Core :=
  let k := x.vec.frames.find off
  let now := match k with | some v => v.now | none => x.vec.now
  { x with
    ctl := { x.ctl with running := inHandler || x.task, pc := f.cpc, kernel := kernel, f := f.f, words := [], idle := some f.cidle, wait := none, qcnt := []
                        offer := .issued }
    vec := { x.vec with pc := f.vpc &&& ~~~7, run := runAfter inHandler f, words := [], now := now
                        idle := if f.vrun then some f.vidle else none
                        loops := Vector.ofFn fun i => f.loops.getD i.val x.vec.loops[i]
                        pend := f.pending k now, wait := some .other, qcnt := [], trap := none
                        divAt := k.bind (·.divAt), idxAt := k.bind (·.idxAt)
                        frames := x.vec.frames.del off
                        nan := if f.nanPend then some f.pnan else none, nanNow := f.nanPend } }

/-- Does a datum record a fault or poison? -/
def Datum.bad : Datum → Bool
  | .fault _ | .poison _ => true
  | _ => false
/-- The head of a load queue under its QCTL code (R373). -/
def State.qctlLq (s : State) (c : Nat) (q : Fin 2) (code : Nat) : State :=
  match (s.core c).ctl.lq[q] with
  | [] => s
  | e :: r =>
    let put (e : LqEntry) : State := s.modCore c fun x => x.withCtl fun t => { t with lq := t.lq.set q (e :: r) }
    if !e.datum.bad then s
    else if code = 1 then (put { e with datum := .absent }).issueQueued c false e.req (.lq q e.id)
    else if code = 2 then put { e with datum := .value 0 }
    else s
/-- The faulted lanes of a vector entry issued again, lane by lane. -/
def State.replayLanes (s : State) (c : Nat) (q : Fin 2) (id : Nat) :
    Nat → List (Option Datum) → List (Option Req) → State
  | lane, some d :: ds, some r :: rs =>
    let s1 := if d.bad then s.issueQueued c true r (.vlq q id lane) else s
    State.replayLanes s1 c q id (lane + 1) ds rs
  | lane, _ :: ds, _ :: rs => State.replayLanes s c q id (lane + 1) ds rs
  | _, _, _ => s
/-- The head of a vector load queue under its QCTL code: only its faulted lanes change (R373). -/
def State.qctlVlq (s : State) (c : Nat) (q : Fin 2) (code : Nat) : State :=
  match (s.core c).vec.vlq[q] with
  | [] => s
  | e :: r =>
    let put (d : Datum) : State :=
      let lanes := e.lanes.map fun l => l.map fun x => if x.bad then d else x
      s.modCore c fun x => x.withVec fun v => { v with vlq := v.vlq.set q ({ e with lanes := lanes } :: r) }
    if code = 1 then (put .absent).replayLanes c q e.id 0 e.lanes e.reqs
    else if code = 2 then put (.value 0)
    else s
/-- QCTL of a frame applied to the four queues (R370, R373). -/
def State.applyQctl (s : State) (c q : Nat) : State :=
  (((s.qctlLq c 0 (q % 4)).qctlLq c 1 (q / 4 % 4)).qctlVlq c 0 (q / 16 % 4)).qctlVlq c 1 (q / 64 % 4)

/-- The frame at a local offset, after the stream's own stores (R50). A poisoned granule is read as it stands, with no UE and no
poison in the registers (DESIGN CHOICE, entry 117; R201). -/
def State.frameAt (s : State) (c off : Nat) : Option Frame := Frame.parse (s.localBytes c off frameSize)

/-- The part that `uret` and `kret` share: the frame is read and checked, and both streams go on as it says. -/
def State.resume (s : State) (c off : Nat) (f : Frame) (kernel inHandler : Bool) : State :=
  ((s.modCore c fun x => x.restore off f kernel inHandler).applyQctl c f.qctl).modCore c fun x =>
    { x with live := x.live.filter (· != off) }

/-- `uret`: ILLEGAL for a frame that does not fit or does not parse, MISALIGN for a PC that is not aligned (R43, R368, R370). -/
def State.returnUli (s : State) (c : Nat) : Except Trap State :=
  let x := s.core c
  let off := frameOff x.csr.uframe
  let illegal : Trap := { cause := .illegal, info := x.ctl.offered }
  if !frameFits off then .error illegal
  else match s.frameAt c off with
    | none => .error illegal
    | some f =>
      if f.cpc.toNat % 8 ≠ 0 then .error { cause := .misalign, info := f.cpc }
      else
        let s1 := s.modCore c fun x =>
          { x with ctl := x.ctl.swapShadow, csr := { x.csr with uie := clearBit x.csr.uie 1 } }
        .ok ((s1.modCore c fun x => x.restore off f x.ctl.kernel (x.live != [])).applyQctl c f.qctl)

/-- `kret`: KFRAME.BASE back by 320, then as the frame there says (R368, R370). -/
def State.returnKernel (s : State) (c : Nat) : Except Trap State :=
  let x := s.core c
  let illegal : Trap := { cause := .illegal, info := x.ctl.offered }
  if frameOff x.csr.kframe < 20480 then .error illegal
  else
    let off := frameOff x.csr.kframe - 20480
    match s.frameAt c off with
    | none => .error illegal
    | some f =>
      if f.cpc.toNat % 8 ≠ 0 then .error { cause := .misalign, info := f.cpc }
      else
        let s1 := s.modCore c fun x => { x with csr := { x.csr with kframe := x.csr.kframe - 320 * 64 } }
        .ok (s1.resume c off f f.savedK ((x.live.filter (· != off)) != [] || x.uliActive))

/-! ## Settling a word -/

/-- The control word has issued. -/
def Core.issuedCtl (x : Core) (pc : Word) : Core :=
  { x with ctl := { x.ctl with pc := pc, words := [], idle := none, wait := none, qcnt := [], offer := .issued, reply := none
                               committed := false, asked := false, drained := [] } }
/-- The control word waits in this cycle. -/
def Core.heldCtl (x : Core) (w : Wait) : Core := { x with ctl := { x.ctl with wait := some w, offer := .held } }

/-- The state after a control word of `len` words: it issues and the next word follows, or it transfers, blocks, waits or
traps (R43, R45, R56). A transfer to a misaligned target traps at the word (R43). -/
def State.settleCtl (s : State) (len : Nat) (r : Issue) : State :=
  let c := s.cur
  let trap (t : Trap) : State := s.take c (.sync t false)
  match r with
  | .error (.hold w) => s.modCore c fun x => x.heldCtl w
  | .error (.trap t) => trap t
  | .ok (.go t) => t.modCore c fun x => x.issuedCtl (x.ctl.pc + BitVec.ofNat 64 (8 * len))
  | .ok (.jump t pc) =>
    if pc.toNat % 8 ≠ 0 then trap { cause := .misalign, info := pc } else t.modCore c fun x => x.issuedCtl pc
  | .ok (.block t) => t.modCore c fun x => x.issuedCtl x.ctl.pc
  | .ok (.stay t w) => t.modCore c fun x => x.heldCtl w

/-- The word that a return ends on: both streams stand as the frame says. -/
def State.settleReturn (s : State) (r : Except Stop State) : State :=
  match r with
  | .ok t => t
  | .error (.hold w) => s.modCore s.cur fun x => x.heldCtl w
  | .error (.trap t) => s.take s.cur (.sync t false)

/-- The loop levels at an issued end word, highest-numbered first: the first level examined that has a count left loops back;
exhausted ones disarm (R97). -/
def loopStep (pc : Word) (l : Vector Level 4) : Vector Level 4 × Word :=
  let examine (acc : Vector Level 4 × Option Word) (i : Fin 4) : Vector Level 4 × Option Word :=
    match acc.2 with
    | some _ => acc
    | none =>
      let x := acc.1[i]
      if x.armed && x.stop == pc then
        if x.count = 0 then (acc.1.set i { x with armed := false }, none)
        else (acc.1.set i { x with count := x.count - 1 }, some x.start)
      else acc
  let r := [3, 2, 1, 0].foldl examine (l, none)
  (r.1, r.2.getD (pc + 8))

/-- The vector word has issued, with the next word's address. -/
def Vec.issued (v : Vec) (pc : Word) (l : Vector Level 4) : Vec :=
  { v with pc := pc, loops := l, words := [], idle := none, wait := none, qcnt := [], offer := .issued, trap := none }

/-- A trap that the vector stream finds at offer. While the control stream completes a word past its commit point it is kept, with
the stream stalled (R88, R260, R363). -/
def State.vecTrap (s : State) (c : Nat) (t : Trap) : State :=
  if (s.core c).ctl.past then
    s.modCore c fun x => x.withVec fun v => { v with wait := some .other, offer := .held, trap := some t }
  else s.take c (.sync t true)
/-- The state after a vector word. -/
def State.settleVec (s : State) (r : Issue) : State :=
  let c := s.cur
  match r with
  | .error (.hold w) => s.modCore c fun x => x.withVec fun v => { v with wait := some w, offer := .held, trap := none }
  | .error (.trap t) => s.vecTrap c t
  | .ok (.go t) => t.modCore c fun x => x.withVec fun v => let l := loopStep v.pc v.loops; v.issued l.2 l.1
  | .ok (.jump t pc) => t.modCore c fun x => x.withVec fun v => v.issued pc v.loops
  | .ok (.block t) => t
  | .ok (.stay t _) => t

/-- The outcome of a step of this machine. -/
abbrev Out := Host.Outcome State Fault Refusal
/-- The outcome of a control word of one word's length. -/
def ctl (s : State) (r : Issue) : Out := .next (s.settleCtl 1 r)
/-- The outcome of a vector word. -/
def vec (s : State) (r : Issue) : Out := .next (s.settleVec r)

end Sys2Proof.Machine
end

