-- ==== Sys2Proof/Machine/Flags.lean ====
section
/-! DEFINITION. Where flags go: the merge into FSR with the NaN trap that it may raise (R117, R118, R234), the flags of a
vector word over its lanes, and F (R96). -/
namespace Sys2Proof.Machine

/-- INFO of a NANTRAP of a stream: the lane and the address of the word (R118, R362). -/
def nanInfo (lane : Nat) (pc : Word) : Word := BitVec.ofNat 64 (lane % 64 * 2 ^ 57 + pc.toNat % 2 ^ 57)

/-- Flags that reach the control stream with a datum: they merge, and a produced NaN under FSR.NANTRAP leaves a trap to take
before the next word (R56, R117, R118). -/
def Core.mergeCtl (x : Core) (f : BitVec 5) (nan : Bool) (pc : Word) : Core :=
  let y := x.mergeFlags f
  if nan && x.nanTraps then y.withCtl fun t => { t with nan := some (nanInfo 0 pc) } else y

/-- Flags of a vector word as its results land: they merge, and the first produced NaN under FSR.NANTRAP leaves a trap to
take in this cycle (R117, R118). -/
def Core.mergeVec (x : Core) (f : BitVec 5) (nan : Bool) (lane : Nat) (pc : Word) : Core :=
  let y := x.mergeFlags f
  if nan && x.nanTraps && x.vec.nan.isNone then y.withVec fun v => { v with nan := some (nanInfo lane pc) } else y

/-- The flags of a vector word: the OR over its active lanes (R117). -/
def laneFlags (l : List (Option Lane)) : BitVec 5 :=
  l.foldl (fun a x => match x with | some r => a ||| r.fl | none => a) 0
/-- The lowest lane that produced a NaN; a lane below it that passed one on is not looked at (DESIGN CHOICE, entry 26; R118). -/
def nanLane? (l : List (Option Lane)) : Option Nat := l.findIdx? fun x => match x with | some r => r.nan | none => false

/-- F from a mask operand and the mask of the word: `all` and `count` over the active lanes (R96, R146). -/
def FReg.ofMask (m active : Mask) : FReg :=
  let hits := (upto 64).filter fun i => m.getLsbD i && active.getLsbD i
  { any := !hits.isEmpty, none := hits.isEmpty, count := hits.length
    all := (upto 64).all fun i => !active.getLsbD i || m.getLsbD i }

end Sys2Proof.Machine
end

