-- ==== Sys2Proof/Machine/Operands.lean ====
section
/-! DEFINITION. Operands: sources and destinations of the control stream with their interlocks and queue entries (R27, R28,
R45, R46, R60, R86), and the registers, masks, address operands and results of the vector stream (R89, R94, R99, R102, R130). -/
namespace Sys2Proof.Machine

/-! ## Sources of the control stream -/

/-- Has a register its latest result (R45)? -/
def Ctl.ready (x : Ctl) (r : Fin 32) : Bool := r == 0 || x.busy.all fun b => b.reg != r.val
/-- The load queue that a source names. -/
def srcQueue : Src → Option (Fin 2)
  | .reg _ => none
  | .pop q | .peek q => some q
/-- Does a source pop queue `q`? -/
def srcPops (q : Fin 2) : Src → Bool
  | .pop p => p == q
  | _ => false
/-- The queue entry that the source after `before` reads: a pop the next one, a peek the head (R28). -/
def Ctl.entry (x : Ctl) (before : List Src) : Src → Option LqEntry
  | .reg _ => none
  | .pop q => x.lq[q][(before.filter (srcPops q)).length]?
  | .peek q => x.lq[q][0]?
/-- A source waits: for its register's result, or for its queue entry (R45). -/
def Ctl.awaitSrc (x : Ctl) (before : List Src) (a : Src) : Except Stop Unit :=
  match a, srcQueue a with
  | .reg r, _ => awaits (x.ready r) .other
  | _, some q => match x.entry before a with
    | some e => awaits e.datum.present (.queue (12 + q.val))
    | none => waitOf (.queue (12 + q.val))
  | _, none => .ok ()
/-- The value of a source, or the trap of a poisoned register or a bad entry (R86, R201). -/
def Ctl.readSrc (x : Ctl) (before : List Src) (a : Src) : Except Stop Word :=
  match a with
  | .reg r => match x.poison[r] with
    | some info => if r = 0 then .ok 0 else trapOf .ue info
    | none => .ok (x.reg r)
  | _ => match x.entry before a with
    | none => .ok 0
    | some e => match e.datum with
      | .value v => .ok v
      | .fault t => .error (.trap t)
      | .poison va => trapOf .ue va
      | _ => .ok 0
/-- Every source of a list waits, each for its own. -/
def Ctl.awaitAll (x : Ctl) : List Src → List Src → Except Stop Unit
  | _, [] => .ok ()
  | before, a :: r => together (x.awaitSrc before a) (x.awaitAll (before ++ [a]) r)
/-- The values of a list of sources. -/
def Ctl.readAll (x : Ctl) : List Src → List Src → Except Stop (List Word)
  | _, [] => .ok []
  | before, a :: r => do
    let v ← x.readSrc before a
    let vs ← x.readAll (before ++ [a]) r
    .ok (v :: vs)
/-- The entries that a list of sources pops. -/
def Ctl.popped (x : Ctl) : List Src → List Src → List LqEntry
  | _, [] => []
  | before, a :: r =>
    (match a with | .pop _ => (x.entry before a).toList | _ => []) ++ x.popped (before ++ [a]) r
/-- The core after a word's pops: entries gone, flags and substitutions merged (R28, R86, R117). -/
def Core.commitPops (x : Core) (l : List Src) : Core :=
  let es := x.ctl.popped [] l
  let y := x.withCtl fun t =>
    { t with lq := Vector.ofFn fun q => t.lq[q].drop (l.filter (srcPops q)).length }
  let z := es.foldl (fun y e => match e.datum with | .zeroed => y.countUez | _ => y) y
  z.mergeCtl (es.foldl (fun f e => f ||| e.flags) 0) (es.any (·.nan)) x.ctl.pc

/-- The sources of a word: their values, once every one is ready, and the core with the pops made. -/
def Core.srcs (x : Core) (l : List Src) : Except Stop (List Word × Core) := do
  x.ctl.awaitAll [] l
  let vs ← x.ctl.readAll [] l
  .ok (vs, x.commitPops l)
/-- One source. -/
def Core.src1 (x : Core) (a : Src) : Except Stop (Word × Core) := do
  let r ← x.srcs [a]
  .ok (r.1.getD 0 0, r.2)
/-- Two sources, in field order. -/
def Core.src2 (x : Core) (a b : Src) : Except Stop (Word × Word × Core) := do
  let r ← x.srcs [a, b]
  .ok (r.1.getD 0 0, r.1.getD 1 0, r.2)

/-! ## Destinations of the control stream -/

/-- A destination queue has a free entry (R60). -/
def Core.awaitDst (x : Core) : Dst → Except Stop Unit
  | .reg _ => .ok ()
  | .aq q => awaits (decide (x.vec.aq[q].length < 16)) (.queue (8 + q.val))
/-- A destination and the sources of a word wait, each for its own (R45, R48). -/
def Core.awaitOperands (x : Core) (d : Dst) (l : List Src) : Except Stop Unit := together (x.awaitDst d) (x.ctl.awaitAll [] l)
/-- A scalar result with its latency; the latest result of a register decides its readiness (R45, R46). -/
def Core.putReg (x : Core) (r : Fin 32) (v : Word) (lat : Nat) : Core :=
  x.withCtl fun t =>
    let t := t.setReg r v
    let others := t.busy.filter fun b => b.reg != r.val
    { t with busy := if lat ≤ 1 ∨ r = 0 then others else others ++ [{ reg := r.val, left := lat, waits := none }] }
/-- A result into a register or an address queue. A queue entry takes its value after the latency and can be popped two
cycles later (R60, R94). -/
def Core.putDst (x : Core) (d : Dst) (v : Word) (lat : Nat) : Core :=
  match d with
  | .reg r => x.putReg r v lat
  | .aq q => x.withVec fun t => { t with aq := t.aq.set q (t.aq[q] ++ [{ value := v, left := lat + 3 }]) }

/-- A word of one result from two sources: waits, reads, computes, writes (R45, R46). -/
def State.alu2 (s : State) (d : Dst) (a b : Src) (lat : Nat) (f : Word → Word → Word) : Issue := do
  let x := s.me
  x.awaitOperands d [a, b]
  let r ← x.src2 a b
  .ok (.go (s.setCore s.cur (r.2.2.putDst d (f r.1 r.2.1) lat)))
/-- A word of one result from one source. -/
def State.alu1 (s : State) (d : Dst) (a : Src) (lat : Nat) (f : Word → Word) : Issue := do
  let x := s.me
  x.awaitOperands d [a]
  let r ← x.src1 a
  .ok (.go (s.setCore s.cur (r.2.putDst d (f r.1) lat)))

/-! ## The vector stream -/

/-- The bank of a vector register (R87). -/
def bankOfReg (r : Fin 32) : Nat := r.val / 8
/-- Is a bank lent (R101)? -/
def Vec.lent (v : Vec) (bank : Nat) : Bool := (bank == 2 && v.lent2) || (bank == 3 && v.lent3)
/-- BANK_LENT for a word that names a register of a lent bank (R102). -/
def Core.checkLent (x : Core) : List (Fin 32) → Except Stop Unit
  | [] => .ok ()
  | r :: l => do
    require (!x.vec.lent (bankOfReg r)) .bankLent (BitVec.ofNat 64 (bankOfReg r))
    x.checkLent l
/-- Is a lane active? -/
def active (m : Mask) (i : Nat) : Bool := m.getLsbD i
/-- The INFO of a UE for a poisoned lane: the granule's virtual address where it has one (R201). -/
def Vec.laneInfo (v : Vec) (r : Fin 32) (lane : Nat) : Word := (v.pva.find (r.val * 64 + lane)).getD 0
/-- The register with a poisoned lane `i` on which the result depends: the first in the order of the fields. -/
def Vec.poisonedAt (v : Vec) (l : List (Fin 32 × Mask)) (i : Nat) : Option (Fin 32) :=
  (l.find? fun n => active (v.poison[n.1] &&& n.2) i).map (·.1)
/-- UE for source registers, each with the lanes of it on which the result depends (R130). Of several poisoned lanes the lowest
is named, and there the first register (DESIGN CHOICE, entry 106). -/
def Core.checkNeeds (x : Core) (l : List (Fin 32 × Mask)) : Except Stop Unit :=
  match (upto 64).findSome? fun i => (x.vec.poisonedAt l i).map fun r => (r, i) with
  | some n => trapOf .ue (x.vec.laneInfo n.1 n.2)
  | none => .ok ()
/-- UE for one register. -/
def Core.checkUe (x : Core) (r : Fin 32) (needed : Mask) : Except Stop Unit := x.checkNeeds [(r, needed)]
/-- UE for a list of registers under one mask. -/
def Core.checkUes (x : Core) (needed : Mask) (l : List (Fin 32)) : Except Stop Unit := x.checkNeeds (l.map fun r => (r, needed))
/-- ISSUE_CONFLICT on a resource that is not pipelined (R91). -/
def Core.checkRepeat (x : Core) (last : Option Nat) (interval : Nat) (info : Word) : Except Stop Unit :=
  match last with
  | some t => require (decide (t + interval ≤ x.vec.now)) .issueConflict info
  | none => .ok ()

/-- An address operand waits for a poppable entry of its queue (R94). -/
def Core.awaitAb (x : Core) : Ab → Except Stop Unit
  | .areg _ => .ok ()
  | .aq q => match x.vec.aq[q] with
    | e :: _ => awaits (e.left == 0) (.queue (8 + q.val))
    | [] => waitOf (.queue (8 + q.val))
/-- An address operand: its value, and the core with its pop made. -/
def Core.readAb (x : Core) : Ab → Word × Core
  | .areg a => (x.vec.a[a], x)
  | .aq q => match x.vec.aq[q] with
    | e :: r => (e.value, x.withVec fun v => { v with aq := v.aq.set q r })
    | [] => (0, x)
/-- An address operand that waits and is read. -/
def Core.ab (x : Core) (a : Ab) : Except Stop (Word × Core) := do
  x.awaitAb a
  .ok (x.readAb a)

/-- A pending entry put in flight by the word that issues (R89). -/
def Core.pend (x : Core) (e : PEntry) : Core := x.withVec fun v => { v with pend := v.pend ++ [e] }
/-- A pending entry of the word at the vector PC, to fill in. -/
def Core.blank (x : Core) (kind : PKind) (reg lat : Nat) (ty : Ty) : PEntry :=
  { kind := kind, reg := reg, value := Lanes.zero, lanes := 0, poison := 0, due := x.vec.now + lat, flags := 0, nan := false
    nanLane := 0, src := some x.vec.pc, pva := [], offset := 0, home := 0, runs := [], era := x.vec.era, seq := 0, bank := 0, op := 0, ty := ty }
/-- The words of lane results; a lane without one has 0. -/
def laneWords (l : List (Option Lane)) : Lanes :=
  lanesOf (l.map fun x => match x with | some r => r.v | none => 0)
/-- The lanes of a list that a mask enables, computed. -/
def forLanes (m : Mask) (f : Nat → Lane) : List (Option Lane) :=
  (upto 64).map fun i => if active m i then some (f i) else none
/-- Lane results of a word into a vector register (R89, R99). -/
def Core.putV (x : Core) (d : Fin 32) (lat : Nat) (ty : Ty) (m : Mask) (f : Nat → Lane) : Core :=
  let l := forLanes m f
  x.pend { x.blank .v d.val lat ty with
    value := laneWords l, lanes := m, flags := laneFlags l, nan := (nanLane? l).isSome, nanLane := (nanLane? l).getD 0 }
/-- A plain lane without flags. -/
def plainLane (v : Word) : Lane := { v := v, fl := 0, nan := false }
/-- A mask result: the bits of the enabled lanes land (R99). -/
def Core.putK (x : Core) (d : Fin 8) (lat : Nat) (enabled : Mask) (v : Mask) (f : BitVec 5) : Core :=
  x.pend { x.blank .k d.val lat .u64 with value := lanesOf [v], lanes := enabled, flags := f }
/-- An address-register result. -/
def Core.putA (x : Core) (d : Fin 12) (lat : Nat) (v : Word) : Core :=
  x.pend { x.blank .a d.val lat .u64 with value := lanesOf [v], lanes := BitVec.allOnes 64 }

/-- Lane `i` of a vector register. -/
def Vec.lane (v : Vec) (r : Fin 32) (i : Nat) : Word := v.v[r].toList.getD i 0

/-- A lane-by-lane word: bank checks, poison of the active lanes of its sources, one result a lane (R99, R102, R130). -/
def State.lanewise (s : State) (d : Fin 32) (srcs : List (Fin 32)) (k : Fin 8) (ty : Ty) (lat : Nat) (f : Nat → Lane) :
    Issue := do
  let x := s.me
  let m := x.vec.mask k
  x.checkLent (d :: srcs)
  x.checkUes m srcs
  .ok (.go (s.setCore s.cur (x.putV d lat ty m f)))

end Sys2Proof.Machine
end

