-- ==== Sys2Proof/Machine/Alu.lean ====
section
/-! DEFINITION. The integer instructions of the control stream: alu family, immediates, multiply, divide, bit family, bit
fields, constants and addresses (R62 to R71). -/
namespace Sys2Proof.Machine

/-- A shift amount: bits [5:0] (R61). -/
def amount (b : Word) : Nat := b.toNat % 64
/-- A truth value. -/
def truth (b : Bool) : Word := if b then 1 else 0
/-- An immediate of 33 bits, sign-extended (R64). -/
def imm64 (i : BitVec 33) : Word := i.signExtend 64
/-- An alu word (R63). -/
def State.alu (s : State) (o : Rrr) (f : Word → Word → Word) : Out := ctl s (s.alu2 o.d o.a o.b 1 f)
/-- An immediate form (R64). -/
def State.aluImm (s : State) (o : Rri) (f : Word → Word → Word) : Out := ctl s (s.alu1 o.d o.a 1 fun a => f a (imm64 o.imm))
/-- A word of the bit family (R67). -/
def State.bitOp (s : State) (d : Dst) (a : Src) (f : Word → Word) : Out := ctl s (s.alu1 d a 1 f)

/-- Shift left (R63). -/
def shl (a b : Word) : Word := a <<< amount b
/-- Shift right, zeros in. -/
def shr (a b : Word) : Word := a >>> amount b
/-- Shift right, sign copies in. -/
def sra (a b : Word) : Word := a.sshiftRight (amount b)
/-- Rotate right. -/
def rot (a b : Word) : Word := a.rotateRight (amount b)
/-- Bits [127:64] of the signed product (R65). -/
def mulHigh (a b : Word) : Word := BitVec.ofInt 64 (a.toInt * b.toInt / 2 ^ 64)
/-- Bits [127:64] of the unsigned product (R65). -/
def mulHighU (a b : Word) : Word := BitVec.ofNat 64 (a.toNat * b.toNat / 2 ^ 64)
/-- Signed quotient, towards zero; all ones for a divisor of 0 (R66). -/
def quot (a b : Word) : Word := if b = 0 then BitVec.allOnes 64 else BitVec.ofInt 64 (a.toInt.tdiv b.toInt)
/-- Unsigned quotient (R66). -/
def quotU (a b : Word) : Word := if b = 0 then BitVec.allOnes 64 else a / b
/-- Signed remainder, with the sign of a; a for a divisor of 0 (R66). -/
def remS (a b : Word) : Word := if b = 0 then a else BitVec.ofInt 64 (a.toInt.tmod b.toInt)
/-- Unsigned remainder (R66). -/
def remU (a b : Word) : Word := if b = 0 then a else a % b
/-- Leading zeros (R67). -/
def clz (a : Word) : Word := BitVec.ofNat 64 (if a = 0 then 64 else 63 - Nat.log2 a.toNat)
/-- Trailing zeros: the first set bit (R67). -/
def ctz (a : Word) : Word := BitVec.ofNat 64 (((upto 64).find? fun i => a.getLsbD i).getD 64)
/-- One bits (R67). -/
def popc (a : Word) : Word := BitVec.ofNat 64 ((upto 64).filter fun i => a.getLsbD i).length
/-- The eight bytes in reverse order (R67). -/
def bswap (a : Word) : Word := BitVec.ofNat 64 (leNat (leBytes 8 a.toNat).reverse)
/-- a[n:0] with bit n copied above (R67). -/
def sextAt (a : Word) (n : Nat) : Word := (a <<< (63 - n)).sshiftRight (63 - n)
/-- a[n:0] with zeros above (R67). -/
def zextAt (a : Word) (n : Nat) : Word := (a <<< (63 - n)) >>> (63 - n)
/-- The field of `w` bits at `lo` (R68). -/
def field (a : Word) (lo w : Nat) : Word := (a >>> lo) &&& BitVec.ofNat 64 (2 ^ w - 1)
/-- d with the field of `w` bits at `lo` replaced (R68). -/
def insert (d a : Word) (lo w : Nat) : Word :=
  let m : Word := BitVec.ofNat 64 (2 ^ w - 1) <<< lo
  (d &&& ~~~m) ||| ((a <<< lo) &&& m)

/-- The divider: a second word of the family waits until the first has completed (R45, R46, R66). -/
def State.divide (s : State) (o : Rrr) (f : Word → Word → Word) : Out :=
  ctl s do
    awaits (s.me.ctl.div == 0) .other
    match ← s.alu2 o.d o.a o.b 24 f with
    | .go t => .ok (.go (t.onMe fun x => x.withCtl fun c => { c with div := 24 }))
    | r => .ok r

/-- `nop`: issues with no further effect (R62). -/
def execNop (s : State) : Out := ctl s (.ok (.go s))

/-- `add` (R63). -/
def execAdd (o : Rrr) (s : State) : Out := s.alu o fun a b => a + b

/-- `sub` (R63). -/
def execSub (o : Rrr) (s : State) : Out := s.alu o fun a b => a - b

/-- `and` (R63). -/
def execAnd (o : Rrr) (s : State) : Out := s.alu o fun a b => a &&& b

/-- `or` (R63). -/
def execOr (o : Rrr) (s : State) : Out := s.alu o fun a b => a ||| b

/-- `xor` (R63). -/
def execXor (o : Rrr) (s : State) : Out := s.alu o fun a b => a ^^^ b

/-- `andn` (R63). -/
def execAndn (o : Rrr) (s : State) : Out := s.alu o fun a b => a &&& ~~~b

/-- `shl` (R63). -/
def execShl (o : Rrr) (s : State) : Out := s.alu o fun a b => shl a b

/-- `shr` (R63). -/
def execShr (o : Rrr) (s : State) : Out := s.alu o fun a b => shr a b

/-- `sra` (R63). -/
def execSra (o : Rrr) (s : State) : Out := s.alu o fun a b => sra a b

/-- `rot` (R63). -/
def execRot (o : Rrr) (s : State) : Out := s.alu o fun a b => rot a b

/-- `min` (R63). -/
def execMin (o : Rrr) (s : State) : Out := s.alu o fun a b => if a.slt b then a else b

/-- `max` (R63). -/
def execMax (o : Rrr) (s : State) : Out := s.alu o fun a b => if a.slt b then b else a

/-- `minu` (R63). -/
def execMinu (o : Rrr) (s : State) : Out := s.alu o fun a b => if a.ult b then a else b

/-- `maxu` (R63). -/
def execMaxu (o : Rrr) (s : State) : Out := s.alu o fun a b => if a.ult b then b else a

/-- `slt` (R63). -/
def execSlt (o : Rrr) (s : State) : Out := s.alu o fun a b => truth (a.slt b)

/-- `sltu` (R63). -/
def execSltu (o : Rrr) (s : State) : Out := s.alu o fun a b => truth (a.ult b)

/-- `seq` (R63). -/
def execSeq (o : Rrr) (s : State) : Out := s.alu o fun a b => truth (a == b)

/-- `sel`: a if c ≠ 0, else b; c waits and is read like the other sources (R63). -/
def execSel (o : Rrr) (c : Fin 32) (s : State) : Out :=
  ctl s do
    let x := s.me
    x.awaitOperands o.d [o.a, o.b, .reg c]
    let r ← x.srcs [o.a, o.b, .reg c]
    let v := if r.1.getD 2 0 ≠ 0 then r.1.getD 0 0 else r.1.getD 1 0
    .ok (.go (s.setCore s.cur (r.2.putDst o.d v 1)))

/-- `add` with an immediate (R64). -/
def execAddImmediate (o : Rri) (s : State) : Out := s.aluImm o fun a b => a + b

/-- `and` with an immediate (R64). -/
def execAndImmediate (o : Rri) (s : State) : Out := s.aluImm o fun a b => a &&& b

/-- `or` with an immediate (R64). -/
def execOrImmediate (o : Rri) (s : State) : Out := s.aluImm o fun a b => a ||| b

/-- `xor` with an immediate (R64). -/
def execXorImmediate (o : Rri) (s : State) : Out := s.aluImm o fun a b => a ^^^ b

/-- `shl` with an immediate (R64). -/
def execShlImmediate (o : Rri) (s : State) : Out := s.aluImm o fun a b => shl a b

/-- `shr` with an immediate (R64). -/
def execShrImmediate (o : Rri) (s : State) : Out := s.aluImm o fun a b => shr a b

/-- `sra` with an immediate (R64). -/
def execSraImmediate (o : Rri) (s : State) : Out := s.aluImm o fun a b => sra a b

/-- `slt` with an immediate (R64). -/
def execSltImmediate (o : Rri) (s : State) : Out := s.aluImm o fun a b => truth (a.slt b)

/-- `sltu` with an immediate (R64). -/
def execSltuImmediate (o : Rri) (s : State) : Out := s.aluImm o fun a b => truth (a.ult b)

/-- `mul`, ready after 3 cycles (R65). -/
def execMul (o : Rrr) (s : State) : Out := ctl s (s.alu2 o.d o.a o.b 3 fun a b => a * b)

/-- `mulh`, ready after 3 cycles (R65). -/
def execMulh (o : Rrr) (s : State) : Out := ctl s (s.alu2 o.d o.a o.b 3 fun a b => mulHigh a b)

/-- `mulhu`, ready after 3 cycles (R65). -/
def execMulhu (o : Rrr) (s : State) : Out := ctl s (s.alu2 o.d o.a o.b 3 fun a b => mulHighU a b)

/-- `div`, on the divider (R66). -/
def execDiv (o : Rrr) (s : State) : Out := s.divide o quot

/-- `divu`, on the divider (R66). -/
def execDivu (o : Rrr) (s : State) : Out := s.divide o quotU

/-- `rem`, on the divider (R66). -/
def execRem (o : Rrr) (s : State) : Out := s.divide o remS

/-- `remu`, on the divider (R66). -/
def execRemu (o : Rrr) (s : State) : Out := s.divide o remU

/-- `clz` (R67). -/
def execClz (d : Dst) (a : Src) (s : State) : Out := s.bitOp d a clz

/-- `ctz` (R67). -/
def execCtz (d : Dst) (a : Src) (s : State) : Out := s.bitOp d a ctz

/-- `popc` (R67). -/
def execPopc (d : Dst) (a : Src) (s : State) : Out := s.bitOp d a popc

/-- `bswap` (R67). -/
def execBswap (d : Dst) (a : Src) (s : State) : Out := s.bitOp d a bswap

/-- `sext` (R67). -/
def execSext (d : Dst) (a : Src) (n : Fin 64) (s : State) : Out := s.bitOp d a fun v => sextAt v n

/-- `zext` (R67). -/
def execZext (d : Dst) (a : Src) (n : Fin 64) (s : State) : Out := s.bitOp d a fun v => zextAt v n

/-- `bfx`: the field of w bits of a at lo, zeros above (R68). -/
def execBfx (d : Dst) (a : Src) (lo wm1 : Fin 64) (s : State) : Out := s.bitOp d a fun v => field v lo (wm1 + 1)

/-- `bfi`: the field of w bits of d at lo replaced by the low bits of a; d is a source too (R68). -/
def execBfi (d : Fin 32) (a : Src) (lo wm1 : Fin 64) (s : State) : Out :=
  ctl s (s.alu2 (.reg d) a (.reg d) 1 fun v old => insert old v lo (wm1 + 1))

/-- `li`: the sign-extended immediate (R69). -/
def execLi (d : Dst) (imm : BitVec 39) (s : State) : Out :=
  ctl s do
    s.me.awaitDst d
    .ok (.go (s.onMe fun x => x.putDst d (imm.signExtend 64) 1))

/-- `lih`: bits [63:39] of d replaced, d[38:0] kept (R69). -/
def execLih (d : Fin 32) (imm : BitVec 25) (s : State) : Out :=
  ctl s (s.alu1 (.reg d) (.reg d) 1 fun v => (imm ++ v.setWidth 39 : BitVec 64))

/-- `lea`: a + (b << sh) + disp (R70). -/
def execLea (o : Rrr) (sh : Fin 8) (disp : BitVec 15) (s : State) : Out :=
  ctl s (s.alu2 o.d o.a o.b 1 fun a b => a + (b <<< sh.val) + disp.signExtend 64)

/-- `gaddr`: the window address of local offset a of the core with rank b; PERM out of range, naming the value, of two the value of a
(DESIGN CHOICE, entry 107; R71). -/
def execGaddr (o : Rrr) (s : State) : Out :=
  ctl s do
    let x := s.me
    x.awaitOperands o.d [o.a, o.b]
    let r ← x.src2 o.a o.b
    require (decide (r.1.toNat < 0x20_0000)) .perm r.1
    require (decide (r.2.1.toNat < x.csr.ncores.toNat)) .perm r.2.1
    let v := BitVec.ofNat 64 (0x00E0_0000_0000_0000 + r.2.1.toNat * 0x20_0000 + r.1.toNat)
    .ok (.go (s.setCore s.cur (r.2.2.putDst o.d v 1)))

end Sys2Proof.Machine
end

