-- ==== Sys2Proof/Machine/Elem.lean ====
section
/-! DEFINITION. Elements of a bank: where element `n` of a bank stands under a format (R110, R148), its exact value, its
poison, and the runs of bytes that a value written to it changes (R122, R123, R150). -/
namespace Sys2Proof

/-- How the elements of a bank are laid out: payload bytes and elements of a unit, header bytes, and the format (R148). A RAW
bank holds elements of the type that the access names. -/
structure Layout where
  fmt : Fmt
  raw : Ty
  size : Nat
  per : Nat
  hdr : Nat
  scale : Nat
  mode : RM
  sat : Bool
  deriving DecidableEq, Repr

/-- The layout of a bank for an access of type `t`. -/
def BankFmt.layout (b : BankFmt) (t : Ty) : Layout :=
  let s : BlockShape := match b.fmt.block with
    | some s => s
    | none => { p := match b.fmt.elem with | some e => e.size | none => t.size, b := 1, h := 0 }
  { fmt := b.fmt, raw := t, size := s.p, per := s.b, hdr := s.h, scale := b.scaleBase, mode := b.mode, sat := b.sat }
/-- Is it a block format? -/
def Layout.isBlock (l : Layout) : Bool := decide (0 < l.hdr)
/-- The type of an element that is no block element. -/
def Layout.ty (l : Layout) : Ty := l.fmt.elem.getD l.raw
/-- The type that conversions take an element to be of; block elements are floats. -/
def Layout.srcTy (l : Layout) : Ty := if l.isBlock then .f32 else l.ty
/-- The number of the element at a bank offset (R148). -/
def Layout.first (l : Layout) (b : Nat) : Nat := b / l.size * l.per
/-- The payload or element bytes, and the header bytes, of the unit that holds element `n`, as runs at bank offsets. -/
def Layout.payload (l : Layout) (n : Nat) : Nat × Nat := (n / l.per * l.size, l.size)
/-- The header bytes of the unit that holds element `n`. -/
def Layout.header (l : Layout) (n : Nat) : Nat × Nat := (l.scale + n / l.per * l.hdr, l.hdr)
/-- The runs that element `n` touches. -/
def Layout.runs (l : Layout) (n : Nat) : List (Nat × Nat) :=
  if l.isBlock then [l.payload n, l.header n] else [l.payload n]
/-- The first run of element `n` that leaves the bank (R148). -/
def Layout.outside (l : Layout) (n : Nat) : Option Nat := ((l.runs n).find? fun r => decide (bankSize < r.1 + r.2)).map (·.1)
/-- Does the bank hold elements of type `t` as they stand (R149, R150)? -/
def Layout.plain (l : Layout) (t : Ty) : Bool := !l.isBlock && l.ty == t

end Sys2Proof

namespace Sys2Proof.Machine

/-- BANKFMT of a bank of a core. -/
def State.bankWord (s : State) (c bank : Nat) : Word := (s.core c).csr.bankfmt.toList.getD bank 0
/-- The memory key of a bank. -/
def bankKey (c bank : Nat) : Nat := spadKey c (bank * bankSize)
/-- Is element `n` of a bank poisoned: does a granule that it touches hold poison (R149)? -/
def State.elemPoisoned (s : State) (kb : Nat) (l : Layout) (n : Nat) : Bool :=
  (l.runs n).any fun r => s.poisoned (kb + r.1) r.2
/-- Does a live kernel frame hold a byte of some runs at a bank's key (R369)? -/
def State.inFrames (s : State) (kb : Nat) (rs : List (Nat × Nat)) : Bool :=
  match spadOwner kb with
  | some h => rs.any fun r => (s.core h).inLiveFrame (spadOff (kb + r.1)) r.2
  | none => false
/-- The bits of an element that is no block element. -/
def State.elemBits (s : State) (kb : Nat) (l : Layout) (n : Nat) : Nat := s.readNat (kb + (l.payload n).1) l.size
/-- The exact value of element `n` of a bank at key `kb` (R110, R122). -/
def State.elemValue (s : State) (kb : Nat) (l : Layout) (n : Nat) : FV :=
  if l.isBlock then
    blockValue l.fmt (s.readBytes (kb + (l.payload n).1) l.size) (s.readBytes (kb + (l.header n).1) l.hdr) (n % l.per)
  else l.ty.value (l.ty.extend (s.elemBits kb l n))
/-- An element decoded into a type: its bits where nothing converts, else by R122 with RNE and the bank's SAT (R149). -/
def State.elemAs (s : State) (kb : Nat) (l : Layout) (n : Nat) (t : Ty) : Lane :=
  if l.plain t then { v := t.extend (s.elemBits kb l n), fl := 0, nan := false }
  else convert l.srcTy t .rne l.sat n (s.elemValue kb l n)

/-- What a write of elements comes to: runs of bytes at keys, flags, the lowest position that produced a NaN, and the runs
that keep poison because an element of their block came from a poisoned granule. -/
structure Enc where
  runs : List (Nat × List Byte)
  flags : BitVec 5
  nan : Option Nat
  bad : List (Nat × Nat)
  deriving DecidableEq, Repr
/-- Nothing to write. -/
def Enc.none : Enc := { runs := [], flags := 0, nan := .none, bad := [] }

/-- A value to store: its position, its element number, its type and its word. -/
structure Item where
  pos : Nat
  n : Nat
  ty : Ty
  v : Word
  deriving DecidableEq, Repr

/-- Items encoded into elements that are no block elements, by R122 with the bank's ROUND and SAT; with `keep`, a vector store's
rule, the bits are unchanged where the bank's format is the item's type (R150). -/
def encodeItems (keep : Bool) (kb : Nat) (l : Layout) : List Item → Enc
  | [] => .none
  | i :: r =>
    let rest := encodeItems keep kb l r
    let x : Lane := if keep && l.plain i.ty then { v := i.v, fl := 0, nan := false }
      else convert i.ty l.ty l.mode l.sat i.n (i.ty.value i.v)
    { runs := (kb + (l.payload i.n).1, leBytes l.size x.v.toNat) :: rest.runs
      flags := x.fl ||| rest.flags
      nan := if x.nan then some i.pos else rest.nan
      bad := rest.bad }

/-- The whole blocks that hold the items, each quantised with the exact values of its other elements, which bring no flags (R117, R123,
R150). Blocks
are written in the order of their first items, payload before header, where their regions overlap (DESIGN CHOICE, entry 102;
R110). -/
def State.encodeBlocks (s : State) (kb : Nat) (l : Layout) (items : List Item) : Enc :=
  let blocks := (items.map fun i => i.n / l.per).eraseDups
  let one (b : Nat) : Enc :=
    let n0 := b * l.per
    let mine (j : Nat) : Option Item := items.reverse.find? fun i => i.n == n0 + j
    let kept := (upto l.per).any fun j => (mine j).isNone
    let vals := (upto l.per).map fun j => match mine j with
      | some i => i.ty.value i.v
      | none => s.elemValue kb l (n0 + j)
    let q := quantBlock l.fmt l.mode n0 vals
    let bad := if kept && s.elemPoisoned kb l n0
      then ((l.runs n0).map fun r => (kb + r.1, r.2)).filter fun r => s.poisoned r.1 r.2 else []
    { runs := [(kb + (l.payload n0).1, q.payload), (kb + (l.header n0).1, q.header)]
      flags := q.fl.zipIdx.foldl (fun a f => if (mine f.2).isSome then a ||| f.1 else a) 0, nan := none, bad := bad }
  blocks.foldl (fun e b => let x := one b
    { runs := e.runs ++ x.runs, flags := e.flags ||| x.flags, nan := e.nan, bad := e.bad ++ x.bad }) .none

/-- Items encoded into a bank; `keep` as in `encodeItems`. -/
def State.encodeBank (s : State) (keep : Bool) (kb : Nat) (l : Layout) (items : List Item) : Enc :=
  if l.isBlock then s.encodeBlocks kb l items else encodeItems keep kb l items
/-- An encoding written, as one write. -/
def State.writeEnc (s : State) (e : Enc) : State :=
  e.bad.foldl (fun s r => s.poisonRun r.1 r.2) (s.writeRuns e.runs)

end Sys2Proof.Machine
end

