-- ==== Sys2Proof/Machine/Engine.lean ====
section
/-! DEFINITION. What the engines share: address words (R295, R330, R331), shapes and traversals (R303), the way an engine
access is resolved (R310, R335), the shapes of planes (R311), footprints (R301, R353) and the OVERLAP check of a stream
access (R302). -/
namespace Sys2Proof

/-- K × N of a plane by its format (R311). -/
def Fmt.kn : Fmt → Nat × Nat
  | .wb3 => (512, 128) | .wb5 => (256, 128) | .bf16 | .f16 => (128, 64) | .f32 => (64, 32) | .f64 => (16, 16)
  | _ => (128, 128)
/-- The accumulator type of a plane format (R311). -/
def Fmt.acc : Fmt → Ty
  | .f64 => .f64 | .i8 => .i32 | _ => .f32
/-- The type of an element; block elements have none and stand as bytes. -/
def Fmt.elemTy (f : Fmt) : Ty := f.elem.getD .u8

end Sys2Proof

namespace Sys2Proof.Machine

/-- An address word by its code (R295, R330). -/
inductive AddrWord where
  | virt (va : Word)
  | loc (off : Nat)
  | href (h : Nat) (off : Nat)
  | bad
  deriving DecidableEq, Repr
/-- A parameter word read as an address; a bit that must be zero makes it invalid (R295). -/
def AddrWord.of (w : Word) : AddrWord :=
  let n := w.toNat
  if n / 2 ^ 63 ≠ 0 then .bad
  else match n / 2 ^ 61 % 4 with
    | 0 => if n / 2 ^ 57 % 16 ≠ 0 then .bad else .virt w
    | 1 => if n / 2 ^ 21 % 2 ^ 40 ≠ 0 then .bad else .loc (n % 2 ^ 21)
    | 2 => if n / 2 ^ 25 % 2 ^ 36 ≠ 0 then .bad else .href (n / 2 ^ 21 % 16) (n % 2 ^ 21)
    | _ => .bad

/-- Where an engine access starts: a virtual address, a local offset, or an offset within a tile; all modulo 2^64 (R337). -/
inductive EAddr where
  | virt (va : Word)
  | loc (off : Word)
  | tile (t : TileRef) (see : Bool) (off : Word)
  deriving DecidableEq, Repr
/-- An address moved by a signed distance. -/
def EAddr.add (a : EAddr) (d : Int) : EAddr :=
  match a with
  | .virt va => .virt (va + BitVec.ofInt 64 d)
  | .loc off => .loc (off + BitVec.ofInt 64 d)
  | .tile t see off => .tile t see (off + BitVec.ofInt 64 d)
/-- The INFO that names an address (R362). -/
def EAddr.info : EAddr → Word
  | .virt va => va
  | .loc off => off
  | .tile _ _ off => off
/-- An address word of a command, its references replaced by the handles that the entry holds (R332). -/
def EAddr.of (w : Word) (h : Option TileRef) (see : Bool) : EAddr :=
  match AddrWord.of w, h with
  | .virt va, _ => .virt va
  | .loc off, _ => .loc (BitVec.ofNat 64 off)
  | .href _ off, some t => .tile t see (BitVec.ofNat 64 off)
  | _, _ => .loc (BitVec.allOnes 64)
/-- P0 as an address. -/
def Cmd.at0 (x : Cmd) : EAddr := EAddr.of x.p.p0 x.hsee true
/-- P1 as an address. -/
def Cmd.at1 (x : Cmd) : EAddr := EAddr.of x.p.p1 x.hfill false
/-- P2 as an address. -/
def Cmd.at2 (x : Cmd) : EAddr := EAddr.of x.p.p2 none false
/-- P3 as an address. -/
def Cmd.at3 (x : Cmd) : EAddr := EAddr.of x.p.p3 none false

/-! ## Shapes -/

/-- A shape record (R303). -/
structure Shape where
  len : Nat
  c1 : Nat
  c2 : Nat
  c3 : Nat
  s1 : Int
  s2 : Int
  s3 : Int
  deriving DecidableEq, Repr
/-- A count of a shape record: 0 counts as 1. -/
def count (n : Nat) : Nat := if n = 0 then 1 else n
/-- A shape from P2 and P3. -/
def Shape.of (p2 p3 : Word) : Shape :=
  { len := (p2.extractLsb' 0 20).toNat, c1 := count (p2.extractLsb' 20 14).toNat, c2 := count (p2.extractLsb' 34 14).toNat
    c3 := count (p2.extractLsb' 48 14).toNat, s1 := (p3.extractLsb' 0 21).toInt, s2 := (p3.extractLsb' 21 21).toInt
    s3 := (p3.extractLsb' 42 21).toInt }
/-- A dense shape: `n` rows of `len` bytes. -/
def Shape.rows (len n : Nat) : Shape := { len := len, c1 := n, c2 := 1, c3 := 1, s1 := len, s2 := 0, s3 := 0 }
/-- Runs of a traversal. -/
def Shape.runs (h : Shape) : Nat := h.c1 * h.c2 * h.c3
/-- Bytes of a traversal. -/
def Shape.total (h : Shape) : Nat := h.runs * h.len
/-- The distance of run `r` from the start (R303). -/
def Shape.off (h : Shape) (r : Nat) : Int :=
  (r % h.c1 : Nat) * h.s1 + (r / h.c1 % h.c2 : Nat) * h.s2 + (r / (h.c1 * h.c2) : Nat) * h.s3
/-- The larger of two numbers. -/
def maxN (a b : Nat) : Nat := if a < b then b else a
/-- The smaller of two numbers. -/
def minN (a b : Nat) : Nat := if a < b then a else b
/-- The bytes `lo` to `hi - 1` of a traversal as distances and lengths, run by run. -/
def Shape.segs (h : Shape) (lo hi : Nat) : List (Int × Nat) :=
  if hi ≤ lo ∨ h.len = 0 then []
  else (upto ((hi - 1) / h.len - lo / h.len + 1)).map fun i =>
    let r := lo / h.len + i
    let a := maxN lo (r * h.len)
    let b := minN hi ((r + 1) * h.len)
    (h.off r + ((a - r * h.len : Nat) : Int), b - a)

/-! ## Resolving -/

/-- A run at an address cut where pages may end: at multiples of 64 KiB of a virtual address. -/
def EAddr.pieces (a : EAddr) (n : Nat) : List (EAddr × Nat) :=
  match a with
  | .virt va =>
    let r := va.toNat % 65536
    (upto ((r + n + 65535) / 65536)).map fun i =>
      let lo := maxN r (65536 * i)
      let hi := minN (r + n) (65536 * (i + 1))
      (.virt (va + BitVec.ofNat 64 (lo - r)), hi - lo)
  | _ => [(a, n)]

/-- A piece of an engine access of core `c` resolved to a memory key, with the checks that are made at the access (R213, R310, R335,
R369). -/
def State.pieceKey (s : State) (c : Nat) (kernel : Bool) (need : Need) (a : EAddr) (n : Nat) : State × Except Trap Nat :=
  match a with
  | .virt va =>
    match s.translate c va n need kernel false with
    | (s1, .ok k _) => (s1, .ok k)
    | (s1, .absent node) => (s1, .error (nodeTrap node))
    | (s1, .trap cause) => (s1, .error { cause := cause, info := va })
  | .loc off =>
    if Config.spadSize < off.toNat + n ∨ (need.w ∧ (s.core c).inLiveFrame off.toNat n) then
      (s, .error { cause := .perm, info := off })
    else (s, .ok (spadKey c off.toNat))
  | .tile t see off =>
    if !s.reaches c t.core then (s, .error (s.absentTrap t.core))
    else if !s.live t then (s, .error { cause := .badHandle, info := off })
    else if (s.tileOf t).size < off.toNat + n ∨ (need.w = true ∧ s.frameInTile t off.toNat n = true) then
      (s, .error { cause := .perm, info := off })
    else if see && !need.w && (s.core c).holdsFill t then (s, .error { cause := .selfPark, info := off })
    else if see && (s.tileOf t).st == .poisoned then (s, .error { cause := .poisonedTile, info := off })
    else (s, .ok (s.tileKey t off.toNat))

/-- Runs resolved in order to keys and lengths. -/
def State.resolve (s : State) (c : Nat) (kernel : Bool) (need : Need) :
    List (EAddr × Nat) → State × Except Trap (List (Nat × Nat))
  | [] => (s, .ok [])
  | (a, n) :: r =>
    match s.pieceKey c kernel need a n with
    | (s1, .error t) => (s1, .error t)
    | (s1, .ok k) =>
      match s1.resolve c kernel need r with
      | (s2, .error t) => (s2, .error t)
      | (s2, .ok l) => (s2, .ok ((k, n) :: l))
/-- Runs resolved after they are cut at page ends. -/
def State.resolveRuns (s : State) (c : Nat) (kernel : Bool) (need : Need) (l : List (EAddr × Nat)) :
    State × Except Trap (List (Nat × Nat)) :=
  s.resolve c kernel need (l.flatMap fun x => x.1.pieces x.2)

/-- The keys of a run for a footprint: pieces that do not resolve have none. -/
def State.keysOf (s : State) (c : Nat) (kernel : Bool) (need : Need) (a : EAddr) (n : Nat) : List (Nat × Nat) :=
  (a.pieces n).filterMap fun x => match (s.pieceKey c kernel need x.1 x.2).2 with
    | .ok k => some (k, x.2)
    | .error _ => none
/-- The keys of several runs. -/
def State.keysAll (s : State) (c : Nat) (kernel : Bool) (need : Need) (l : List (EAddr × Nat)) : List (Nat × Nat) :=
  l.flatMap fun x => s.keysOf c kernel need x.1 x.2

/-! ## Inbound windows -/

/-- The place of a remote word: its package by domain and member, and the window offset (R331). -/
def remoteOf (w : Word) : Nat × Nat := (w.toNat / 2 ^ 42 % 2 ^ 21, w.toNat % 2 ^ 42)
/-- The package that a core's remote word names, if it can be reached: one of its own domain by the routes, another over Ethernet
(R331, R396). -/
def State.remotePkg (s : State) (c target : Nat) : Option Nat :=
  if target / 4096 == (s.pkg (pkgOf c)).domain then s.nodePkg (pkgOf c) (target % 4096)
  else findNode s.pkgs (target / 4096) (target % 4096)
/-- BASE of a window entry (R394). -/
def Window.start (w : Window) : Nat := w.base.toNat % 2 ^ 42 / 65536 * 65536
/-- Does a window entry take every run with the needed permission (R394)? -/
def Window.admits (w : Window) (write : Bool) (runs : List (Int × Nat)) : Bool :=
  w.base.getLsbD 63 && (if write then w.base.getLsbD 62 else w.base.getLsbD 61) &&
    runs.all fun r => decide ((w.start : Int) ≤ r.1 ∧ r.1 + r.2 ≤ (w.start + w.size.toNat : Nat))
/-- The entry of a package that takes every run, with its number: 32 for each partition. -/
def Pkg.windowFor (x : Pkg) (write : Bool) (runs : List (Int × Nat)) : Option (Nat × Window) :=
  x.funcs.findSome? fun f => (f.2.windows.find? fun w => w.2.admits write runs).map fun w => (f.1 * 32 + w.1, w.2)
/-- Runs at window offsets as keys at the receiving package; none where the entry's own context does not translate one. -/
def State.windowKeys (s : State) (p : Nat) (w : Window) (need : Need) (runs : List (Int × Nat)) : Option (List (Nat × Nat)) :=
  (runs.flatMap fun r => (EAddr.virt (w.va + BitVec.ofInt 64 (r.1 - w.start))).pieces r.2).mapM fun x =>
    match s.translateDev p w.ptbase x.1.info x.2 need with
    | .ok k _ => some (k, x.2)
    | _ => none
/-- Bytes of a chunk (R306). -/
def chunkSize : Nat := 4096
/-- The keys that a command's chunks reach through the window of a remote word, chunk by chunk (R340, R353). -/
def State.remoteKeys (s : State) (c : Nat) (word : Word) (put : Bool) (h : Shape) : List (Nat × Nat) :=
  let place := remoteOf word
  match s.remotePkg c place.1 with
  | none => []
  | some p => (upto ((h.total + chunkSize - 1) / chunkSize)).flatMap fun i =>
      let lo := chunkSize * i
      let hi := minN h.total (lo + chunkSize)
      let runs : List (Int × Nat) := if put then [((place.2 + lo : Nat), hi - lo)]
        else (h.segs lo hi).map fun r => ((place.2 : Int) + r.1, r.2)
      match (s.pkg p).windowFor put runs with
      | some w => (s.windowKeys p w.2 (if put then .store else .load) runs).getD []
      | none => []

/-! ## Banks -/

/-- The core and bank of a scratchpad key. -/
def bankOfKey (k : Nat) : Option (Nat × Nat) := (spadOwner k).map fun h => (h, spadOff k / bankSize)
/-- BANKFMT of the bank that holds a key; 0 (RAW) outside scratchpad. -/
def State.fmtAt (s : State) (k : Nat) : Word :=
  match bankOfKey k with
  | some (h, b) => s.bankWord h b
  | none => 0
/-- BANKFMT of a bank as a command sampled it (R183), or as it stands. -/
def Run.fmtAt (r : Run) (s : State) (k : Nat) : Word :=
  match bankOfKey k with
  | some (h, b) => (Tab.find r.fmts (h * 16 + b)).getD (s.bankWord h b)
  | none => 0
/-- The keys of `cnt` elements from an address: their bytes, in a block format with their headers. -/
def State.elemKeys (s : State) (c : Nat) (kernel : Bool) (need : Need) (a : EAddr) (t : Ty) (cnt : Nat) : List (Nat × Nat) :=
  match (s.pieceKey c kernel need a 1).2 with
  | .error _ => []
  | .ok k =>
    let l := (BankFmt.of (s.fmtAt k)).layout t
    let body := s.keysOf c kernel need a (cnt / l.per * l.size)
    if l.isBlock then
      let b := spadOff k % bankSize
      body ++ [(k - b + l.scale + b / l.size * l.hdr, cnt / l.per * l.hdr)]
    else body

/-- Does an address lie in a formatted bank as the formats stand (R184)? -/
def State.inBank (s : State) (c : Nat) (kernel : Bool) (a : EAddr) : Bool :=
  match (s.pieceKey c kernel .load a 1).2 with
  | .ok k => (BankFmt.of (s.fmtAt k)).fmt != .raw
  | .error _ => false
/-- The layout of the bank at an address as the formats stand. -/
def State.layoutAt (s : State) (c : Nat) (kernel : Bool) (a : EAddr) : Layout :=
  match (s.pieceKey c kernel .load a 1).2 with
  | .ok k => (BankFmt.of (s.fmtAt k)).layout .u8
  | .error _ => (BankFmt.of 0).layout .u8

/-! ## Footprints -/

/-- Reads and writes as runs of bytes at keys (R301). -/
structure Foot where
  reads : List (Nat × Nat)
  writes : List (Nat × Nat)
  deriving DecidableEq, Repr
/-- No bytes. -/
def Foot.none : Foot := { reads := [], writes := [] }
/-- Two footprints together. -/
def Foot.join (a b : Foot) : Foot := { reads := a.reads ++ b.reads, writes := a.writes ++ b.writes }
/-- The byte that stands for a plane (0, 1), a table (2 to 5) or the derivative plane (6) of a core, beyond every memory key
(R316, R353). -/
def millByte (c part : Nat) : Nat × Nat := (2 ^ 64 + c * 8 + part, 1)
/-- Do two runs share a byte? -/
def runsMeet (a b : Nat × Nat) : Bool := decide (a.1 < b.1 + b.2 ∧ b.1 < a.1 + a.2)
/-- Do two sets share a byte? -/
def setsMeet (a b : List (Nat × Nat)) : Bool := a.any fun x => b.any fun y => runsMeet x y
/-- The first byte of `a` that lies in `b`. -/
def firstMeet (a b : List (Nat × Nat)) : Option Nat :=
  (a.findSome? fun x => (b.find? fun y => runsMeet x y).map fun y => maxN x.1 y.1)
/-- The end of the range of R186 that holds a key. -/
def rangeEnd (k : Nat) : Nat :=
  let o := k % nodeSize
  k - o + (match regionOf o with
    | .stacked => 0x20_0000_0000 | .spad => 0x20_4000_0000 | .tier2 => 0x280_0000_0000 | .auto => 0x800_0000_0000
    | .cxl => 0xC00_0000_0000 | .host => nodeSize | .empty => o + 1)

/-- The u64 indices of a gather or scatter as memory holds them; an index that does not resolve is 0. -/
def State.indexList (s : State) (c : Nat) (x : Cmd) : List Nat :=
  (upto (Shape.of x.p.p2 0).c1).map fun (k : Nat) =>
    match (s.pieceKey c x.cap.kernel .load (x.at3.add (8 * k)) 8).2 with
    | .ok key => (s.readWord key).toNat
    | .error _ => 0
/-- The rows that an index list names, from a base. -/
def indexedRows (a : EAddr) (len : Nat) (idx : List Nat) : List (EAddr × Nat) := idx.map fun (i : Nat) => (a.add (i * len), len)
/-- The runs of a shape from a base. -/
def Shape.spread (h : Shape) (a : EAddr) : List (EAddr × Nat) := (h.segs 0 h.total).map fun x => (a.add x.1, x.2)

/-- The footprint of a carter operation (R353). -/
def State.footCarter (s : State) (c : Nat) (x : Cmd) (o : CarterOp) : Foot :=
  let h := Shape.of x.p.p2 x.p.p3
  let rd (l : List (EAddr × Nat)) : List (Nat × Nat) := s.keysAll c x.cap.kernel .load l
  let wr (l : List (EAddr × Nat)) : List (Nat × Nat) := s.keysAll c x.cap.kernel .store l
  let dense := [(x.at1, h.total)]
  match o with
  | .copy =>
    if s.inBank c x.cap.kernel x.at0 && s.inBank c x.cap.kernel x.at1 then
      let rows := (upto h.runs).map fun i => x.at0.add (h.off i)
      let elems (a : EAddr) : Nat := let l := s.layoutAt c x.cap.kernel a; h.len / l.size * l.per
      { reads := rows.flatMap fun a => s.elemKeys c x.cap.kernel .load a .u8 (elems a)
        writes := s.elemKeys c x.cap.kernel .store x.at1 .u8 (rows.foldl (fun n a => n + elems a) 0) }
    else { reads := rd (h.spread x.at0), writes := wr dense }
  | .red _ _ => { reads := rd (h.spread x.at0) ++ wr dense, writes := wr dense }
  | .put => { reads := rd (h.spread x.at0), writes := s.remoteKeys c x.p.p1 true h }
  | .get => { reads := s.remoteKeys c x.p.p0 false h, writes := wr dense }
  | .gath _ =>
    { reads := rd ((x.at3, 8 * h.c1) :: indexedRows x.at0 h.len (s.indexList c x)), writes := wr [(x.at1, h.c1 * h.len)] }
  | .scat =>
    { reads := rd [(x.at3, 8 * h.c1), (x.at0, h.c1 * h.len)], writes := wr (indexedRows x.at1 h.len (s.indexList c x)) }
  | .fill _ => { reads := [], writes := wr (h.spread x.at1) }
  | .pin _ => .none

/-- The words of a tail record: report and trace addresses (R347). -/
def State.tailRecord (s : State) (c : Nat) (x : Cmd) : Word × Word :=
  if x.p.p3 = 0 then (0, 0)
  else match (s.pieceKey c x.cap.kernel .load x.at3 16).2 with
    | .ok k => (s.readWord k, s.readWord (k + 8))
    | .error _ => (0, 0)
/-- The members of a chain of `l` cores from a core (R315). -/
def chainMembers (c l : Nat) : List Nat := (upto l).map fun i => c + i

/-- The piecewise-linear table that a command uses, if φ is PWL (R318, R320). -/
def Cmd.table? (x : Cmd) : Option (Fin 4) :=
  match x.op with
  | .mill (.relax _ _ _) | .mill (.relaxb _) => if x.cap.mctl.toNat / 16 % 4 = 3 then some x.cap.mpwl else none
  | _ => none
/-- The footprint of a mill command (R316, R353). -/
def State.footMill (s : State) (c : Nat) (x : Cmd) (m : MillCmd) : Foot :=
  let kern := x.cap.kernel
  let rd (a : EAddr) (n : Nat) : List (Nat × Nat) := s.keysOf c kern .load a n
  let wr (a : EAddr) (n : Nat) : List (Nat × Nat) := s.keysOf c kern .store a n
  let fmt (core : Nat) (p : Fin 2) : Fmt := (s.core core).mill.planes[p].fmt
  let product (core : Nat) (p : Fin 2) (chain : Bool) : Foot :=
    let f := fmt core p
    let rows := x.p.p2.toNat % 2 ^ 21
    let third := if x.p.p3 = 0 then [] else s.elemKeys core kern .load x.at3 f.acc (rows * f.kn.2)
    { reads := s.elemKeys c kern .load x.at0 f.elemTy (rows * f.kn.1) ++ third ++ [millByte core p]
      writes := s.elemKeys core kern .store x.at1 f.acc (rows * f.kn.2) ++ (if chain then third else []) }
  let table : List (Nat × Nat) := match x.table? with | some t => [millByte c (2 + t)] | none => []
  let tail := s.tailRecord c x
  let outs : List (Nat × Nat) :=
    (if tail.1 = 0 then [] else wr (EAddr.of tail.1 none false) 2048)
      ++ (if tail.2 = 0 then [] else wr (EAddr.of tail.2 none false) (272 * x.cap.mitl.toNat))
  let tailRead : List (Nat × Nat) := if x.p.p3 = 0 then [] else rd x.at3 16
  match m with
  | .lds p f =>
    let cnt := f.kn.1 * f.kn.2
    { reads := (match f.block with
        | some b => if s.inBank c kern x.at0 then s.elemKeys c kern .load x.at0 .u8 cnt
            else rd x.at0 (cnt / b.b * b.p) ++ rd x.at1 (cnt / b.b * b.h)
        | none => s.elemKeys c kern .load x.at0 f.elemTy cnt)
      writes := [millByte c p] }
  | .pwl t => { reads := rd x.at0 768, writes := [millByte c (2 + t)] }
  | .mm p => product c p false
  | .chain p l => (chainMembers c (l.val + 1)).foldl (fun a i => a.join (product i p true)) .none
  | .mmr p ring _ _ =>
    { reads := (match (s.core c).rings.find ring.val with
        | some r => r.slots.map fun t => (spadKey c ((s.core c).tile t).base, ((s.core c).tile t).size)
        | none => []) ++ [millByte c p]
      writes := (match (s.pieceKey c kern .store x.at0 1).2 with
        | .ok k => [(k, rangeEnd k - k)]
        | .error _ => []) ++ (if x.p.p1 = 0 then [] else wr x.at1 8) }
  | .relax p b n =>
    let bytes := 4 * (n.val + 1) * (b.val + 1)
    { reads := rd x.at0 bytes ++ rd x.at1 bytes ++ tailRead ++ table ++ [millByte c p]
      writes := wr x.at2 bytes ++ outs ++ [millByte c 6] }
  | .relaxb p =>
    let bytes := match (s.core c).mill.deriv with | some d => 4 * d.n * d.b | none => 0
    { reads := rd x.at0 bytes ++ rd x.at1 bytes ++ tailRead ++ table ++ [millByte c p, millByte c 6]
      writes := wr x.at2 (if x.cap.mctl.getLsbD 7 then 2 * bytes else bytes) ++ outs }

/-- The footprint of a command of core `c` (R353). -/
def State.foot (s : State) (c : Nat) (x : Cmd) : Foot :=
  match x.op with
  | .carter o => s.footCarter c x o
  | .mill m => s.footMill c x m
  | .qwait _ _ | .qfence _ | .qsig => .none

/-- The commands of a core that have not completed. -/
def Core.commands (x : Core) : List Cmd := x.queues.toList.flatMap fun q => q.entries.filterMap QEntry.cmd?

/-- The byte on which a stream access of the running core meets a command pushed under DET (R302). -/
def State.overlapAt (s : State) (runs : List (Nat × Nat)) (writes : Bool) : Option Nat :=
  if (s.core s.cur).csr.det.toNat % 2 = 0 then none
  else (s.core s.cur).commands.findSome? fun x =>
    if x.cap.det then
      let f := s.foot s.cur x
      firstMeet runs (if writes then f.writes ++ f.reads else f.writes)
    else none

end Sys2Proof.Machine
end

