-- ==== Sys2Proof/Machine/Tiles.lean ====
section
/-! DEFINITION. What happens to tiles and rings at their homes: publication, abandonment, the loss of a see reference, the
end of a ring (R214 to R225), and the messages that drops send (R214, R216, R237, R269). -/
namespace Sys2Proof.Machine

/-- Ring `r` of a core changed. -/
def State.modRing (s : State) (c r : Nat) (f : Ring → Ring) : State :=
  s.modCore c fun x => match x.rings.find r with
    | some g => { x with rings := x.rings.put r (f g) }
    | none => x
/-- The tile entry back to FREE, its generation incremented; a ring slot stays reserved (R206, R217). -/
def Tile.freed (t : Tile) : Tile := { t with st := .free, fill := false, see := 0, gen := t.gen + 1, parked := [] }
/-- The accesses of a park list are served next (R215). -/
def State.unpark (s : State) (ids : List Nat) : State :=
  { s with flight := s.flight.map fun a => if ids.contains a.id then { a with parked := false } else a }

/-- A home's answer to the word that core `w` waits with. -/
def State.answer (s : State) (w : Nat) (h : Handle) (status : Word) : State :=
  s.modCore w fun x => x.withCtl fun c => { c with reply := some { handle := h, status := status } }
/-- The status of a word that returned the null handle (R274). -/
def noClaim : Word := BitVec.allOnes 64
/-- Is a ring at its end: closed, every slot FREE, every cursor at CLAIMED (R224)? -/
def Core.ringOver (x : Core) (g : Ring) : Bool :=
  g.closed && g.slots.all (fun t => (x.tile t).st == .free) && g.next.all (· == g.claimed)
/-- A started `m.mmr` on a ring that is deleted has met its end, whatever ring takes the number next (R317). -/
def EQueue.ringGone (e : EQueue) (r : Nat) : EQueue :=
  match (e.entries.head?.bind QEntry.cmd?).map Cmd.op with
  | some (.mill (.mmr _ g _ _)) => if g.val = r then { e with run := e.run.map fun y => { y with ended := true } } else e
  | _ => e
/-- A ring deleted, its entries released (R224). -/
def Core.dropRing (x : Core) (r : Nat) (g : Ring) : Core :=
  { x with
    queues := Vector.ofFn fun q => (x.queues[q]).ringGone r
    rings := Tab.del x.rings r
    tiles := g.slots.foldl (fun ts t => Tab.put ts t { (Tab.find ts t).getD .reset with ring := none }) x.tiles }
/-- A word that waits at a ring of core `d` learns that the ring has ended: a `tnext` gets the null handle, a `gsee` has found the
ring closed without its round (R223, R236). -/
def State.endReader (s : State) (d : Nat) (g : Ring) (r : Reader) : State :=
  match r.cursor with
  | some _ => s.answer r.core .null noClaim
  | none => if g.claimed.toNat ≤ r.round.toNat
      then s.modCore r.core fun x => x.withCtl fun c => { c with drained := d :: c.drained } else s
/-- A ring that is closed, with every slot FREE and every cursor at CLAIMED, is deleted, and its entries are released (R224). -/
def State.endRing (s : State) (c r : Nat) : State :=
  match (s.core c).rings.find r with
  | some g =>
    if (s.core c).ringOver g then
      g.readers.foldl (fun t q => t.endReader c g q) (s.modCore c fun x => x.dropRing r g)
    else s
  | none => s
/-- The ring of a tile, if it is a slot, counts an arrival (R222). -/
def State.arrive (s : State) (t : TileRef) : State :=
  match (s.tileOf t).ring with
  | some r => s.modRing t.core r.val fun g => { g with arrived := g.arrived + 1 }
  | none => s
/-- The ring of a tile ends if it can (R224). -/
def State.endRingOf (s : State) (t : TileRef) : State :=
  match (s.tileOf t).ring with
  | some r => s.endRing t.core r.val
  | none => s

/-- A fill handle dropped or abandoned at the home: the state it leaves, the park list served, the arrival counted (R214,
R217, R218, R222). -/
def State.endFill (s : State) (t : TileRef) (st : TileSt) : State :=
  let x := s.tileOf t
  if x.gen == t.gen && x.st == .filling then
    let s1 := (s.arrive t).unpark x.parked
    let s2 := s1.modTile t fun y => if y.see = 0 then y.freed else { y with st := st, fill := false, parked := [] }
    s2.endRingOf t
  else s
/-- Publication (R214). -/
def State.publish (s : State) (t : TileRef) : State := s.endFill t .published
/-- Abandonment (R218). -/
def State.abandon (s : State) (t : TileRef) : State := s.endFill t .poisoned
/-- A see reference dropped at the home (R216, R217). -/
def State.loseSee (s : State) (t : TileRef) : State :=
  if s.live t then
    let s1 := s.modTile t fun y =>
      let n := y.see - 1
      if n = 0 ∧ (y.st = .published ∨ y.st = .poisoned) then y.freed else { y with see := n }
    s1.endRingOf t
  else s
/-- A see reference added at the home (R219). -/
def State.addSee (s : State) (t : TileRef) : State := s.modTile t fun y => { y with see := y.see + 1 }

/-- The references that a handle counts as see references on tiles. -/
def Handle.sees : Handle → List TileRef
  | .see t => [t]
  | .gsee g => g.refs
  | _ => []

/-- A message on its way. -/
def State.post (s : State) (m : Msg) : State := { s with msgs := s.msgs ++ [m] }
/-- The messages of a drop by core `c`: the home publishes or loses a reference once what came before is done; a fill drop is a
release at dom scope with tokens of its own (R214, R216, R237, R257). -/
def State.dropHandle (s : State) (c : Nat) (h : Handle) : State :=
  match h with
  | .null => s
  | .fill t =>
    (s.release c).post (.fillDrop t c s.nextId false)
  | .see t => s.post (.seeDrop t c s.nextId)
  | .gsee g => g.refs.foldl (fun s t => s.post (.seeDrop t c s.nextId)) s

/-- Has core `c` performed what a release of its control stream covers, and the vector accesses that a rendezvous or `vjoin` covers
(R170, R251)? -/
def State.releasedAll (s : State) (c n : Nat) : Bool :=
  s.released c n && !(s.core c).coveredStores (s.core c).vec.era
    && s.flight.all fun a => a.core != c || !a.vec || decide ((s.core c).vec.era ≤ a.era) || a.kind == .un
/-- No access of the control stream of core `c` is under way to the bytes of a run of keys (R242). -/
def State.noneAt (s : State) (c k n : Nat) : Bool :=
  s.flight.all fun a => a.core != c || a.vec || a.barrier.isSome || a.fault.isSome || !keysMeet (s.runOf a) (k, n)
/-- No access of the control stream of core `c` is under way to the bytes of any run of a list (R242). -/
def State.noneAtAll (s : State) (c : Nat) (l : List (Nat × Nat)) : Bool := l.all fun r => s.noneAt c r.1 r.2
/-- The lowest handle register that holds a fill handle (R75). -/
def Ctl.lowestFill (x : Ctl) : Option Nat :=
  (upto 16).find? fun i => match x.h.toList.getD i .null with | .fill _ => true | _ => false

/-- Has a queue completed number `n`: (SEQ − n) mod 2^32 < 2^31 (R266)? -/
def seqReached (seq n : BitVec 32) : Bool := decide ((seq - n).toNat < 2 ^ 31)

/-- PREEMPT.REQ and PREEMPT.DRAINED (R176). -/
def Core.req (x : Core) : Bool := bitOf x.csr.preempt 0
/-- Does a core count as DRAINED (R177)? -/
def Core.drained (x : Core) : Bool := bitOf x.csr.preempt 1
/-- Is every engine queue of a core empty? -/
def Core.queuesEmpty (x : Core) : Bool := x.queues.toList.all fun q => q.entries.isEmpty
/-- Is a request on a partition's cores in force? -/
def State.requested (s : State) (gang : List Nat) : Bool := gang.any fun c => (s.core c).req
/-- FPREEMPT and PREQ of function `f` of package `p` read back whether a request is in force on its partition (R386, R398). -/
def State.preq (s : State) (p f : Nat) : Bool :=
  (s.entry p f).valid && s.requested (s.partCores (s.pkg p).domain (s.partOf p f))
/-- DRAINED is set once a request finds the core idle with every engine queue empty (R177). -/
def Core.drain (x : Core) : Core :=
  if x.req && !x.task && x.queuesEmpty then
    x.withCsr fun r => { r with preempt := setBit r.preempt 1 } else x

end Sys2Proof.Machine
end

