-- ==== Sys2Proof/Machine/LoadStore.lean ====
section
/-! DEFINITION. Scalar loads and stores, decoupled loads, and the events in which they end (R46 to R50, R58, R82 to R86,
R243). -/
namespace Sys2Proof.Machine

/-- The type of a load size (R30). -/
def ldTy : LdSz → Ty
  | .b => .i8 | .h => .i16 | .w => .i32 | .d => .i64 | .bu => .u8 | .hu => .u16 | .wu => .u32
/-- The type of a store or atomic size (R30). -/
def szTy : Sz → Ty
  | .b => .i8 | .h => .i16 | .w => .i32 | .d => .i64

/-- MISALIGN (R49, R58). -/
def checkAlign (a : Word) (n : Nat) : Except Stop Unit := require (decide (a.toNat % n = 0)) .misalign a
/-- Is the whole access within the scratchpad (R49)? -/
def inSpad (lo : Word) (n : Nat) : Bool := decide (lo.toNat + n ≤ Config.spadSize)
/-- The local offset bounds (PERM), and at U the live kernel frames (R49, R369). -/
def Core.checkLocal (x : Core) (lo : Word) (n : Nat) : Except Stop Unit := do
  require (inSpad lo n) .perm lo
  require (x.ctl.kernel || !x.inLiveFrame lo.toNat n) .perm lo

/-- What an ordering code makes a local word wait for at issue: a release for every earlier RC and SO access and entry, a
strong access for every earlier SO access (R243); any later access for the read of an acquire in flight (R248). A store also waits
for an earlier `fence.rel` (R250). -/
def State.localReady (s : State) (store : Bool) (o : Ord) : Bool :=
  let c := s.cur
  let mine := s.flight.filter fun a => a.core == c && !a.vec
  (match o with
    | .sync => !store || ((s.core c).ctl.loads.isEmpty && s.released c s.nextId && mine.all (fun a => a.back == .nowhere)
        && s.gloads.all (fun g => g.core != c || g.vec))
    | .strong => (mine.all fun a => a.kind != .so) && (s.core c).ctl.stores.all (fun x => !x.so)
        && (s.core c).ctl.loads.all (fun x => !x.so) && !s.hostBusy c
    | .plain => true)
    && (mine.all fun a => !a.acq)
    && (!store || mine.all fun a => a.barrier.isNone)
/-- No local acquire of the stream is still outstanding (R243). -/
def Core.accessReady (x : Core) : Bool := x.ctl.acquire.isNone && x.ctl.loads.all fun l => !l.acq

/-- A release at dom or sys scope after a store was discarded traps GROUP_ABSENT once (R391). -/
def Core.checkLost (x : Core) (release : Bool) (scope : Scope) : Except Stop Unit :=
  match x.lost with
  | some node => require (!(release && (scope == .dom || scope == .sys))) .groupAbsent node
  | none => .ok ()
/-- A register as a base or as data: its latest result, UE if it is poisoned (R45, R201). -/
def Core.regChecked (x : Core) (r : Fin 32) : Except Stop Word := do
  x.ctl.awaitSrc [] (.reg r)
  x.ctl.readSrc [] (.reg r)

/-- A local address of AM 1 to 3: the offset and the new base (R82). -/
def localAddr (am : Nat) (b : Word) (off : BitVec 24) : Word × Option Word :=
  match am with
  | 1 => (b + off.signExtend 64, none)
  | 2 => (b, some (b + off.signExtend 64))
  | _ => (b + off.signExtend 64, some (b + off.signExtend 64))

/-- The base update of AM 2 and 3 (R82). -/
def Core.updateBase (x : Core) (b : Fin 32) (v : Option Word) : Core :=
  match v with
  | some w => x.putReg b w 1
  | none => x

/-- OVERLAP for an access of `n` bytes at a key, naming the conflicting byte by the access's own address (R302, R362). -/
def State.checkOverlap (s : State) (k n : Nat) (writes : Bool) (at_ : Word) : Except Stop Unit :=
  match s.overlapAt [(k, n)] writes with
  | some b => trapOf .overlap (at_ + BitVec.ofNat 64 (b - k))
  | none => .ok ()
/-- The address that a request names, for the INFO of OVERLAP. -/
def ReqAddr.word : ReqAddr → Word
  | .virt va | .group va => va
  | .loc off => BitVec.ofNat 64 off
  | .tile _ off => BitVec.ofInt 64 off
/-- The type that a leaf of a RAW bank is read as, and a root is delivered in: under a float ACC a scalar load names FP32 or
FP64 bits (R231, R233). -/
def leafTy (g : Group) (vec : Bool) (t : Ty) : Ty :=
  if g.isFloat && !vec then (if t.width = 64 then .f64 else .f32) else t
/-- The runs of bytes that the leaves of a group load read (R231). -/
def State.leafRuns (s : State) (g : GLoad) : List (Nat × Nat) :=
  (g.slots.zip g.group.members).flatMap fun e =>
    match e.1, s.member g.core e.2 with
    | some x, some d =>
      let t := leafTy g.group g.vec g.ty
      let bank := x / bankSize % 16
      (((BankFmt.of (s.bankWord d bank)).layout t).runs (x % bankSize / t.size)).map fun p => (bankKey d bank + p.1, p.2)
    | _, _ => []
/-- OVERLAP for the leaves of a group load, naming the load's own address (R302, entry 36). -/
def State.checkLeaves (s : State) (g : GLoad) (at_ : Word) : Except Stop Unit :=
  match s.overlapAt (s.leafRuns g) false with
  | some _ => trapOf .overlap at_
  | none => .ok ()
/-- OVERLAP for a request whose checks pass (R302). -/
def State.checkRequest (s : State) (r : Req) (vec : Bool := false) : Except Stop Unit :=
  match r.addr with
  | .group va => match s.checkGroup s.cur va vec r.ty with
    | .ok (g, x) => s.checkLeaves (plainGroup s.cur vec r.kernel g x r.ty .blocking) va
    | .error _ => .ok ()
  | .tile (.gsee g) off => match s.seeGroup s.cur r.kernel g off r.ty .blocking 0 with
    | .ok l => s.checkLeaves l r.addr.word
    | .error _ => .ok ()
  | _ => match (s.route s.cur r 0).2 with
    | .ok t => s.checkOverlap (s.keyOf t.place) r.ty.size r.op.writes r.addr.word
    | .error _ => .ok ()

/-- OVERLAP for bytes that a word of the stream reads at a virtual address of any alignment (R302). -/
def State.checkReads (s : State) (kernel : Bool) (va : Word) (n : Nat) : Except Stop Unit :=
  ((EAddr.virt va).pieces n).forM fun x => match (s.pieceKey s.cur kernel .load x.1 x.2).2 with
    | .ok k => s.checkOverlap k x.2 false x.1.info
    | .error _ => .ok ()
/-- The UE of a read of `n` bytes that stand at a key and were named by a virtual address: its INFO is that of the lowest poisoned
granule among them (R201, R362). -/
def State.ueOf (s : State) (va : Word) (k n : Nat) : Option Trap :=
  ((s.poison.filter fun g => decide (g < k + n ∧ k < g + granuleSize g)).min?).map fun g =>
    { cause := .ue, info := va + BitVec.ofInt 64 ((g : Int) - k) }
/-- A read of `n` bytes by the stream at a virtual address of any alignment, page by page. -/
def State.readVirtual (s : State) (c : Nat) (kernel : Bool) : List (EAddr × Nat) → State × Except Trap (List Byte)
  | [] => (s, .ok [])
  | (a, n) :: r =>
    match s.translate c a.info n .load kernel with
    | (s1, .absent node) => (s1, .error (nodeTrap node))
    | (s1, .trap cause) => (s1, .error { cause := cause, info := a.info })
    | (s1, .ok k _) =>
      match s1.ueOf a.info k n with
      | some t => (s1, .error t)
      | none => match State.readVirtual (s1.countFrame k n) c kernel r with
        | (s2, .ok l) => (s2, .ok (s1.readBytes k n ++ l))
        | (s2, .error t) => (s2, .error t)

/-- The next local access of the stream numbered. -/
def Ctl.nextLocal (x : Ctl) : Ctl := { x with lseq := x.lseq + 1 }
/-- A register whose result is that of a local load, not yet read (R46, R50). -/
def Ctl.awaitLoad (x : Ctl) (d : Fin 32) (seq : Nat) : Ctl :=
  if d = 0 then x
  else { x with busy := (x.busy.filter fun b => b.reg != d.val) ++ [{ reg := d.val, left := 4, waits := some seq }] }
/-- A local load: the datum at its latency, poison into the register (R46, R49, R58, R201). The bytes are read in the cycle in
which the load has its bank's port: this one, unless the port is taken (R50). -/
def State.localLoad (s : State) (d b : Fin 32) (am : Nat) (off : BitVec 24) (t : Ty) (o : Ord) : Issue := do
  let x := s.me
  let base ← x.regChecked b
  awaits (x.accessReady && s.localReady false o) .other
  let lo := localAddr am base off
  checkAlign lo.1 t.size
  x.checkLocal lo.1 t.size
  let k := spadKey s.cur lo.1.toNat
  s.checkOverlap k t.size false lo.1
  let l : LLoad := { id := s.nextId, seq := x.ctl.lseq, off := lo.1.toNat, ty := t, bank := lo.1.toNat / bankSize, acq := o == .sync, so := o == .strong }
  let s1 := s.onMe fun x => x.withCtl fun c => { c.nextLocal.awaitLoad d l.seq with loads := c.loads ++ [l] }
  let s2 := if x.portFree l.bank then s1.landLoad s.cur l else s1
  .ok (.go (s2.onMe fun x => x.updateBase b lo.2))

/-- A local store: performed 3 cycles later (R49, R50, R83). -/
def State.localStore (s : State) (d b : Fin 32) (am : Nat) (off : BitVec 24) (n : Nat) (o : Ord) : Issue := do
  let x := s.me
  let base ← x.regChecked b
  x.ctl.awaitSrc [] (.reg d)
  awaits (x.accessReady && s.localReady true o) .other
  let lo := localAddr am base off
  checkAlign lo.1 n
  let v ← x.regChecked d
  x.checkLocal lo.1 n
  x.checkLost (o == .sync) .dom
  s.checkOverlap (spadKey s.cur lo.1.toNat) n true lo.1
  .ok (.go (s.onMe fun x =>
    (x.withCtl fun c =>
      { c.nextLocal with
        stores := c.stores ++ [{ id := s.nextId, so := o == .strong, off := lo.1.toNat, bytes := leBytes n v.toNat, left := 3
                                 bank := some (lo.1.toNat / bankSize), seq := c.lseq }] }).updateBase b lo.2))

/-- A blocking load in flight: its stream offers nothing until the datum returns (R83). -/
def State.startBlocking (s : State) (d : Fin 32) (info : Word) : State :=
  s.onMe fun x => x.withCtl fun c => { c with blk := some { id := s.nextId, d := d.val, left := 4, info := info } }
/-- The code of a handle register, as INFO names it (R362). -/
def handleInfo (h : Fin 16) : Word := BitVec.ofNat 64 h.val

/-- A translated or handle-relative load of the control stream (R82, R83). -/
def State.blockingLoad (s : State) (d : Fin 32) (r : Req) (info : Word) : Issue :=
  match s.route s.cur r info with
  | (_, .error t) => .error (.trap t)
  | (s1, .ok t) => do
    s.checkRequest r
    .ok (.block ((s1.startBlocking d info).send (accessOf s.cur false r t .nowhere)))

/-- A store that finds its node unreachable is discarded, and the next release traps (R391). -/
def State.loseStore (s : State) (t : Trap) : State := s.onMe fun x => { x with lost := some t.info }
/-- The loss has been reported. -/
def State.reportLost (s : State) (r : Issue) : State :=
  match r with
  | .error (.trap t) => if t.cause = .groupAbsent then s.onMe fun x => { x with lost := none } else s
  | _ => s

/-- A request of the control stream on the store path: checked at issue, then it travels (R82, R83, R263, R391). -/
def State.sendStore (s : State) (r : Req) (info : Word) : Issue :=
  match s.route s.cur r info with
  | (s1, .error t) =>
    match r.addr, t.cause with
    | .virt _, .groupAbsent => .ok (.go (s1.loseStore t))
    | _, _ => .error (.trap t)
  | (s1, .ok t) => do
    s.me.checkLost t.sync t.scope
    s.checkRequest r
    .ok (.go (s1.send (accessOf s.cur false r t .nowhere)))

/-- A request of the stream at its level. -/
def Core.req? (x : Core) (op : AccOp) (a : ReqAddr) (t : Ty) (o : Ord) (zue : Bool) : Req :=
  { op := op, addr := a, ty := t, ord := o, zue := zue, kernel := x.ctl.kernel }

/-- `ld` (R58, R82, R83): local forms at their latency, the others blocking. -/
def execLd (d : Fin 32) (addr : MemAddr) (sz : LdSz) (ord : Ord) (s : State) : Out :=
  let t := ldTy sz
  let x := s.me
  ctl s (match addr with
    | .loc b off => s.localLoad d b 1 off t ord
    | .postInc b off => s.localLoad d b 2 off t ord
    | .preInc b off => s.localLoad d b 3 off t ord
    | .plain b off => do
      let base ← x.regChecked b
      let va := base + off.signExtend 64
      awaits x.accessReady .other
      checkAlign va t.size
      s.blockingLoad d (x.req? .load (.virt va) t ord false) 0
    | .group b off => do
      let base ← x.regChecked b
      let va := base + off.signExtend 64
      awaits x.accessReady .other
      checkAlign va t.size
      let g ← orTrap (s.checkGroup s.cur va false t)
      s.checkRequest (x.req? .load (.group va) t ord false)
      .ok (.block ((s.startBlocking d 0).sendGroup (plainGroup s.cur false x.ctl.kernel g.1 g.2 t .blocking)))
    | .handle h off => do
      let o := off.toInt
      awaits x.accessReady .other
      checkAlign (off.signExtend 64) t.size
      match x.ctl.h[h] with
      | .gsee g => do
        let l ← orTrap (s.seeGroup s.cur x.ctl.kernel g o t .blocking (handleInfo h))
        s.checkLeaves l (off.signExtend 64)
        .ok (.block ((s.startBlocking d (handleInfo h)).sendGroup l))
      | hd => s.blockingLoad d (x.req? .load (.tile hd o) t ord false) (handleInfo h))

/-- `st` (R58, R82, R83, R263): MISALIGN, then UE for the datum, then the address; it issues without waiting for its access to be performed. -/
def execSt (d : Fin 32) (addr : MemAddr) (sz : Sz) (ord : Ord) (s : State) : Out :=
  let t := szTy sz
  let x := s.me
  let r : Issue := match addr with
    | .loc b off => s.localStore d b 1 off t.size ord
    | .postInc b off => s.localStore d b 2 off t.size ord
    | .preInc b off => s.localStore d b 3 off t.size ord
    | .plain b off => do
      let base ← x.regChecked b
      x.ctl.awaitSrc [] (.reg d)
      let va := base + off.signExtend 64
      awaits x.accessReady .other
      checkAlign va t.size
      let v ← x.regChecked d
      s.sendStore (x.req? (.store v) (.virt va) t ord false) 0
    | .group b off => do
      let base ← x.regChecked b
      x.ctl.awaitSrc [] (.reg d)
      let va := base + off.signExtend 64
      checkAlign va t.size
      let _ ← x.regChecked d
      trapOf .perm va
    | .handle h off => do
      let o := off.toInt
      x.ctl.awaitSrc [] (.reg d)
      awaits x.accessReady .other
      checkAlign (off.signExtend 64) t.size
      let v ← x.regChecked d
      match x.ctl.h[h] with
      | .gsee _ => trapOf .writeViaSee (handleInfo h)
      | hd => s.sendStore (x.req? (.store v) (.tile hd o) t ord false) (handleInfo h)
  .next ((s.reportLost r).settleCtl 1 r)

/-- An entry of a load queue taken, absent until its access ends; it stands under the number of that access (R85). -/
def State.takeLq (s : State) (q : Fin 2) (r : Req) : State :=
  s.onMe fun x => x.withCtl fun c =>
    { c with lq := c.lq.set q (c.lq[q] ++ [{ id := s.nextId, datum := .absent, flags := 0, nan := false, req := r }]) }
/-- A load queue has a free entry (R85). -/
def Core.awaitLq (x : Core) (q : Fin 2) : Except Stop Unit :=
  awaits (decide (x.ctl.lq[q].length < 16)) (.queue (12 + q.val))
/-- A decoupled request: its entry is taken and its access starts (R85, R262). -/
def State.decoupled (s : State) (q : Fin 2) (r : Req) : State :=
  (s.takeLq q r).issueQueued s.cur false r (.lq q s.nextId)

/-- `ldq`: alignment is checked at issue, every other fault is recorded in the entry (R85). -/
def execLdq (q : Fin 2) (addr : QAddr) (sz : LdSz) (ord : Ord) (s : State) : Out :=
  let t := ldTy sz
  let x := s.me
  let base (b : Fin 32) : Except Stop Word := alsoBlocked (x.regChecked b) (x.awaitLq q)
  let start (a : ReqAddr) (zue : Bool) (at_ : Word) : Issue := do
    together (awaits x.accessReady .other) (x.awaitLq q)
    checkAlign at_ t.size
    s.checkRequest (x.req? .load a t ord zue)
    .ok (.go (s.decoupled q (x.req? .load a t ord zue)))
  ctl s (match addr with
    | .plain b off => do
      let va := (← base b) + off.signExtend 64
      start (.virt va) false va
    | .zue b off => do
      let va := (← base b) + off.signExtend 64
      start (.virt va) true va
    | .group b off => do
      let va := (← base b) + off.signExtend 64
      start (.group va) false va
    | .handle h off => start (.tile x.ctl.h[h] off.toInt) false (off.signExtend 64))

/-! ## How they end -/

/-- The place of an access in the flight. -/
def State.findAccess (s : State) (id : Nat) : Option Nat := s.flight.findIdx? fun a => a.id == id

/-- A blocking load has its datum: the register and the next word, or the trap at the load's own address (R58, R83, R201). -/
def State.endBlocking (s : State) (c : Nat) (b : BlkLoad) (d : Datum) : State :=
  let next (f : Core → Core) : State := s.modCore c fun x =>
    (f (x.withCtl fun t => { t with blk := none })).issuedCtl (x.ctl.pc + 8)
  let reg : Fin 32 := Fin.ofNat 32 b.d
  match d with
  | .value v => next fun x => x.putReg reg v 1
  | .poison va => next fun x => (x.putReg reg 0 1).withCtl fun t => t.poisonReg reg va
  | .fault t =>
    let info := match t.cause with
      | .poisonedTile | .selfPark | .writeViaSee | .badHandle => b.info
      | _ => t.info
    s.take c (.sync { t with info := info } false)
  | _ => s

/-- BLOCKING_LOAD_RETURN: the access of the blocking load of core `c` is performed and its datum returns (R83). -/
def execBlockingLoadReturn (c : Nat) (s : State) : Out :=
  .next (match (s.core c).ctl.blk with
    | none => s
    | some b => match s.findAccess b.id with
      | none => s
      | some k => match s.flight[k]? with
        | none => s
        | some a =>
          if a.parked || b.left != 0 || !s.mayPerform k a then s
          else match s.performHome a with
            | (s1, .done r) => { s1 with flight := dropNth s1.flight k }.endBlocking c b r.datum
            | (s1, .park) => s1.parkAccess k a
            | (s1, .held) => s1)

/-- LQ_ENTRY_ARRIVAL: the access at place `k` of the flight ends in its entry of a load queue (R85). -/
def execLqEntryArrival (k : Nat) (s : State) : Out :=
  .next (match s.flight[k]? with
    | some a => match a.back with
      | .lq _ _ => s.perform k
      | _ => s
    | none => s)

/-- STORE_PERFORMED_AT_HOME: the store at place `k` of the flight, or the `fence.rel` that waits there, is performed (R241). -/
def execStorePerformedAtHome (k : Nat) (s : State) : Out :=
  .next (match s.flight[k]? with
    | some a => match a.req.op, a.barrier with
      | .store _, _ => s.perform k
      | _, some _ => s.perform k
      | _, none => s
    | none => s)

/-- SCALAR_RESULT_READY: results whose latency has passed are ready (R46). -/
def State.scalarReady (s : State) (c : Nat) : State :=
  s.modCore c fun x => x.withCtl fun t => { t with busy := t.busy.filter fun b => b.left != 0 }
/-- SCALAR_RESULT_READY (R46). -/
def execScalarResultReady (c : Nat) (s : State) : Out := .next (s.scalarReady c)

/-- The local stores whose time has come, performed in order (R83). -/
def State.storesDue (s : State) (c : Nat) : State :=
  let x := s.core c
  let due := x.ctl.stores.filter fun st => st.left == 0
  (due.foldl (fun s st => s.write (spadKey c st.off) st.bytes) s).modCore c fun x =>
    x.withCtl fun t => { t with stores := t.stores.filter fun st => st.left != 0 }
/-- LOCAL_STORE_PERFORMED (R83): in a core's cycle its vector accesses come first, so while a vector word has still to be offered in it
nothing is performed (R50, R151). -/
def execLocalStorePerformed (c : Nat) (s : State) : Out :=
  .next (let x := s.core c
    let after := match x.phase with
      | .land => false
      | .offer => x.vec.words.isEmpty
      | .tick => true
    if after then s.storesDue c else s)

/-- The entries whose two cycles have passed can be popped (R94). -/
def State.aqPoppable (s : State) (c : Nat) : State :=
  s.modCore c fun x => x.withVec fun v =>
    { v with aq := Vector.ofFn fun q => v.aq[q].map fun e => if e.left = 1 then { e with left := 0 } else e }
/-- AQ_ENTRY_POPPABLE (R94). -/
def execAqEntryPoppable (c : Nat) (s : State) : Out := .next (s.aqPoppable c)

/-- PARKED_LOAD_RETRY: a load held outside a full park list is admitted, or served once its tile is no longer FILLING (R215), or its
home cannot be reached any more (R391). -/
def execParkedLoadRetry (k : Nat) (s : State) : Out :=
  .next (match s.flight[k]? with
    | some a => match a.place with
      | .tile t _ =>
        let x := s.tileOf t
        if !a.parked then s
        else if !s.live t || x.st != .filling || !s.reaches a.core t.core then
          { s with flight := setNth s.flight k { a with parked := false } }
        else if x.parked.contains a.id then s
        else if x.parked.length < 16 then s.modTile t fun y => { y with parked := y.parked ++ [a.id] }
        else s
      | .phys _ => s
    | none => s)

end Sys2Proof.Machine
end

