-- ==== Sys2Proof/Machine/Atomic.lean ====
section
/-! DEFINITION. Atomics, reductions, fences and `wait` (R248 to R266), and the events that end them. -/
namespace Sys2Proof.Machine

/-- The floating-point type of an atomic's size (R261). -/
def fpTy : Sz → Ty
  | .h => .f16 | .w => .f32 | _ => .f64

/-- A returning atomic: alignment, UE for the operands, the group window, then its entry and its access (R262, R264). -/
def State.atomic (s : State) (o : Amo) (t : Ty) (c : Option (Fin 32)) (op : Word → Word → AccOp) : Issue := do
  let x := s.me
  let third := match c with | some r => [Src.reg r] | none => []
  together (x.ctl.awaitAll [] ([o.a, o.b] ++ third)) (together (awaits x.accessReady .other) (x.awaitLq o.q))
  let va ← x.ctl.readSrc [] o.a
  checkAlign va t.size
  let b ← x.ctl.readSrc [o.a] o.b
  let v ← match c with | some r => x.ctl.readSrc [] (.reg r) | none => .ok 0
  require (decide (va.toNat / 2 ^ 56 % 2 = 0)) .perm va
  x.checkLost (o.ord == .sync) .dom
  s.checkRequest (x.req? (op b v) (.virt va) t o.ord false)
  let s1 := s.setCore s.cur (x.commitPops [o.a, o.b])
  .ok (.go (s1.decoupled o.q (x.req? (op b v) (.virt va) t o.ord false)))
/-- An `amo` word (R262). -/
def State.amo (s : State) (o : Amo) (t : Ty) (op : AmoOp) : Out :=
  let r := s.atomic o t none fun b _ => .amo op b
  .next ((s.reportLost r).settleCtl 1 r)

/-- A non-returning reduction, checked at issue like a store (R263). -/
def State.reduce (s : State) (o : Red) (t : Ty) (op : AmoOp) : Issue := do
  let x := s.me
  x.ctl.awaitAll [] [o.a, o.b]
  awaits x.accessReady .other
  let va ← x.ctl.readSrc [] o.a
  checkAlign va t.size
  let b ← x.ctl.readSrc [o.a] o.b
  (s.setCore s.cur (x.commitPops [o.a, o.b])).sendStore (x.req? (.red op b) (.virt va) t o.ord false) 0
/-- A `red` word (R263). -/
def State.red (s : State) (o : Red) (t : Ty) (op : AmoOp) : Out :=
  let r := s.reduce o t op
  .next ((s.reportLost r).settleCtl 1 r)

/-- `amo` swap (R261, R262). -/
def execAmoSwap (o : Amo) (s : State) : Out := s.amo o (szTy o.sz) .swap
/-- `amo` add (R261, R262). -/
def execAmoAdd (o : Amo) (s : State) : Out := s.amo o (szTy o.sz) .add
/-- `amo` and (R261, R262). -/
def execAmoAnd (o : Amo) (s : State) : Out := s.amo o (szTy o.sz) .and
/-- `amo` or (R261, R262). -/
def execAmoOr (o : Amo) (s : State) : Out := s.amo o (szTy o.sz) .or
/-- `amo` xor (R261, R262). -/
def execAmoXor (o : Amo) (s : State) : Out := s.amo o (szTy o.sz) .xor
/-- `amo` min (R261, R262). -/
def execAmoMin (o : Amo) (s : State) : Out := s.amo o (szTy o.sz) .min
/-- `amo` max (R261, R262). -/
def execAmoMax (o : Amo) (s : State) : Out := s.amo o (szTy o.sz) .max
/-- `amo` minu (R261, R262). -/
def execAmoMinu (o : Amo) (s : State) : Out := s.amo o (szTy o.sz) .minu
/-- `amo` maxu (R261, R262). -/
def execAmoMaxu (o : Amo) (s : State) : Out := s.amo o (szTy o.sz) .maxu
/-- `amo` fadd (R261, R262). -/
def execAmoFadd (o : Amo) (s : State) : Out := s.amo o (fpTy o.sz) .fadd
/-- `amo` fmin (R261, R262). -/
def execAmoFmin (o : Amo) (s : State) : Out := s.amo o (fpTy o.sz) .fmin
/-- `amo` fmax (R261, R262). -/
def execAmoFmax (o : Amo) (s : State) : Out := s.amo o (fpTy o.sz) .fmax
/-- `amo` bfadd (R261, R262). -/
def execAmoBfadd (o : Amo) (s : State) : Out := s.amo o (.bf16) .fadd
/-- `amo` bfmin (R261, R262). -/
def execAmoBfmin (o : Amo) (s : State) : Out := s.amo o (.bf16) .fmin
/-- `amo` bfmax (R261, R262). -/
def execAmoBfmax (o : Amo) (s : State) : Out := s.amo o (.bf16) .fmax

/-- `red` add (R261, R263). -/
def execRedAdd (o : Red) (s : State) : Out := s.red o (szTy o.sz) .add
/-- `red` and (R261, R263). -/
def execRedAnd (o : Red) (s : State) : Out := s.red o (szTy o.sz) .and
/-- `red` or (R261, R263). -/
def execRedOr (o : Red) (s : State) : Out := s.red o (szTy o.sz) .or
/-- `red` xor (R261, R263). -/
def execRedXor (o : Red) (s : State) : Out := s.red o (szTy o.sz) .xor
/-- `red` min (R261, R263). -/
def execRedMin (o : Red) (s : State) : Out := s.red o (szTy o.sz) .min
/-- `red` max (R261, R263). -/
def execRedMax (o : Red) (s : State) : Out := s.red o (szTy o.sz) .max
/-- `red` minu (R261, R263). -/
def execRedMinu (o : Red) (s : State) : Out := s.red o (szTy o.sz) .minu
/-- `red` maxu (R261, R263). -/
def execRedMaxu (o : Red) (s : State) : Out := s.red o (szTy o.sz) .maxu
/-- `red` fadd (R261, R263). -/
def execRedFadd (o : Red) (s : State) : Out := s.red o (fpTy o.sz) .fadd
/-- `red` fmin (R261, R263). -/
def execRedFmin (o : Red) (s : State) : Out := s.red o (fpTy o.sz) .fmin
/-- `red` fmax (R261, R263). -/
def execRedFmax (o : Red) (s : State) : Out := s.red o (fpTy o.sz) .fmax
/-- `red` bfadd (R261, R263). -/
def execRedBfadd (o : Red) (s : State) : Out := s.red o (.bf16) .fadd
/-- `red` bfmin (R261, R263). -/
def execRedBfmin (o : Red) (s : State) : Out := s.red o (.bf16) .fmin
/-- `red` bfmax (R261, R263). -/
def execRedBfmax (o : Red) (s : State) : Out := s.red o (.bf16) .fmax

/-- `cas`: the bytes become the new value where they equal the expected one; the entry takes the old value (R264). -/
def execCas (o : Amo) (c : Fin 32) (s : State) : Out :=
  let r := s.atomic o (szTy o.sz) (some c) fun b v => .cas b v
  .next ((s.reportLost r).settleCtl 1 r)

/-- REDUCTION_APPLIED: the reduction at place `k` of the flight is applied at its home (R252, R254). -/
def execReductionApplied (k : Nat) (s : State) : Out :=
  .next (match s.flight[k]? with
    | some a => match a.req.op with
      | .red _ _ => s.perform k
      | _ => s
    | none => s)

/-! ## Fences -/

/-- A discarded store traps at the next release at dom or sys scope, or at the next `fence.full` (R391). -/
def Core.checkFence (x : Core) (full : Bool) (scope : Scope) : Except Stop Unit :=
  match x.lost with
  | some node => require (!(full || scope == .dom || scope == .sys)) .groupAbsent node
  | none => .ok ()
/-- `fence.acq`: stalls until every earlier load has returned and every earlier entry is present (R250, R251). -/
def execFenceAcq (_scope : Scope) (s : State) : Out :=
  ctl s do
    awaits (s.loadsClear s.cur s.nextId s.me.vec.era) .other
    .ok (.go s)
/-- The access that stands for a `fence.rel` until everything before it is performed (R250). -/
def barrierOf (c era : Nat) (scope : Scope) : Access :=
  { id := 0, core := c, vec := false
    req := { op := .load, addr := .virt 0, ty := .u8, ord := .plain, zue := false, kernel := false }
    place := .phys 0, kind := .un, acq := false, rel := false, scope := scope, back := .nowhere, fault := none
    era := 0, parked := false, barrier := some { scope := scope, era := era } }
/-- `fence.rel`: it issues, and later stores, atomics and engine pushes wait for what came before (R250, R257). -/
def execFenceRel (scope : Scope) (s : State) : Out :=
  let r : Issue := do
    s.me.checkFence false scope
    .ok (.go (if s.fenceClear s.cur s.nextId s.me.vec.era false scope then s else s.send (barrierOf s.cur s.me.vec.era scope)))
  .next ((s.reportLost r).settleCtl 1 r)
/-- `fence.full`: stalls until every earlier access of any kind is performed (R250, R251). -/
def execFenceFull (scope : Scope) (s : State) : Out :=
  let r : Issue := do
    awaits (s.fenceClear s.cur s.nextId s.me.vec.era true scope) .other
    s.me.checkFence true scope
    .ok (.go s)
  .next ((s.reportLost r).settleCtl 1 r)

/-- FENCE_TOKEN_FORWARD: token `k` passes its next stop once none of the source's earlier stores is unperformed beyond it
(R257). -/
def execFenceTokenForward (k : Nat) (s : State) : Out :=
  .next (match s.tokens[k]? with
    | none => s
    | some t => match t.stops with
      | [] => { s with tokens := dropNth s.tokens k }
      | p :: r =>
        if s.flight.all fun a => a.core != t.core || decide (t.before ≤ a.id) || !a.isWrite
            || stopOf (s.keyOf a.place) != p then
          { s with tokens := if r.isEmpty then dropNth s.tokens k else setNth s.tokens k { t with stops := r } }
        else s)

/-- ZERO_LENGTH_READ_COMPLETION: the host has acknowledged what core `k` wrote to the host range (R400). -/
def execZeroLengthReadCompletion (k : Nat) (s : State) : Out :=
  .next (s.modPkg (pkgOf k) fun x => { x with hostWrites := x.hostWrites.filter (· != k) })

/-- `wait`: FORWARD_WAIT for a number not yet pushed, then until the queue has completed it (R266). -/
def execWait (q : Fin 6) (a : Src) (s : State) : Out :=
  ctl s do
    let x := s.me
    let r ← x.src1 a
    let n : BitVec 32 := r.1.setWidth 32
    require (seqReached x.csr.pseq[q] n) .forwardWait (n.setWidth 64)
    awaits (seqReached x.csr.seq[q] n) .other
    .ok (.go (s.setCore s.cur r.2))

end Sys2Proof.Machine
end

