-- ==== Sys2Proof/Machine/Control.lean ====
section
/-! DEFINITION. Control transfer, the start and the join of the vector stream, `halt`, traps and returns, the master enable of
user-level interrupts, F, and `tlbi` (R72 to R81, R368). -/
namespace Sys2Proof.Machine

/-- The target of a displacement of 29 bits in words (R72). -/
def Ctl.target (x : Ctl) (disp : BitVec 29) : Word := x.pc + 8 * disp.signExtend 64
/-- A comparing branch: its pops are made whether or not it is taken (R72). -/
def State.branch (s : State) (o : Bcc) (f : Word → Word → Bool) : Out :=
  ctl s do
    let r ← s.me.src2 o.a o.b
    let t := s.setCore s.cur r.2.2
    if f r.1 r.2.1 then .ok (.jump t (s.me.ctl.target o.disp)) else .ok (.go t)
/-- A branch on F as it stands (R72). -/
def State.branchF (s : State) (disp : BitVec 29) (f : FReg → Bool) : Out :=
  ctl s (if f s.me.ctl.f then .ok (.jump s (s.me.ctl.target disp)) else .ok (.go s))

/-- `b.eq` (R72). -/
def execBEq (o : Bcc) (s : State) : Out := s.branch o fun a b => a == b
/-- `b.ne` (R72). -/
def execBNe (o : Bcc) (s : State) : Out := s.branch o fun a b => a != b
/-- `b.lt` (R72). -/
def execBLt (o : Bcc) (s : State) : Out := s.branch o fun a b => a.slt b
/-- `b.ge` (R72). -/
def execBGe (o : Bcc) (s : State) : Out := s.branch o fun a b => !a.slt b
/-- `b.ltu` (R72). -/
def execBLtu (o : Bcc) (s : State) : Out := s.branch o fun a b => a.ult b
/-- `b.geu` (R72). -/
def execBGeu (o : Bcc) (s : State) : Out := s.branch o fun a b => !a.ult b
/-- `b.al` (R72). -/
def execBAl (disp : BitVec 29) (s : State) : Out := s.branchF disp fun _ => true
/-- `b.fany` (R72). -/
def execBFany (disp : BitVec 29) (s : State) : Out := s.branchF disp fun f => f.any
/-- `b.fall` (R72). -/
def execBFall (disp : BitVec 29) (s : State) : Out := s.branchF disp fun f => f.all
/-- `b.fnone` (R72). -/
def execBFnone (disp : BitVec 29) (s : State) : Out := s.branchF disp fun f => f.none

/-- `call`: s30 := PC + 8, PC := target (R73). -/
def execCall (disp : BitVec 29) (s : State) : Out :=
  ctl s (.ok (.jump (s.onMe fun x => x.putReg 30 (x.ctl.pc + 8) 1) (s.me.ctl.target disp)))

/-- `jr`: t := src(A), s[D] := PC + 8, PC := t; a misaligned t traps with no link written (R73). -/
def execJr (d : Fin 32) (a : Src) (s : State) : Out :=
  ctl s do
    let r ← s.me.src1 a
    .ok (.jump (s.setCore s.cur (r.2.putReg d (r.2.ctl.pc + 8) 1)) r.1)

/-! ## The vector stream from the control stream -/

/-- The vector stream is stopped, a `vend` of this very cycle not counted, or no run of the handler goes on (R74, R369). -/
def Vec.stopped (v : Vec) : Bool := (v.run == .stopped || v.run == .held) && v.offer != .issued
/-- Stopped and drained: every result has landed and every store is performed (R74). -/
def Vec.drained (v : Vec) : Bool := v.stopped && v.pend.isEmpty
/-- `vgo` and `vjoin` in a user-level interrupt handler raise ILLEGAL (R369). -/
def Core.handlerCheck (x : Core) : Except Stop Unit :=
  require (!(x.vec.run == .held && !x.ctl.kernel)) .illegal x.ctl.offered

/-- `vgo`: once the stream is stopped and drained, it starts at the target; at K inside a handler, as a kernel run (R74, R369). -/
def execVgo (disp : BitVec 29) (s : State) : Out :=
  ctl s do
    let x := s.me
    x.handlerCheck
    awaits x.vec.drained .other
    .ok (.go (s.onMe fun x => x.withVec fun v =>
      { v with pc := x.ctl.target disp, words := [], idle := none
               run := if v.run == .held then .kernelRun else .running }))

/-- A rendezvous or `vjoin`: every vector access before it is covered from now on (R251). -/
def State.cover (s : State) : State := s.onMe fun x => x.withVec fun v => { v with era := v.era + 1 }

/-- `vjoin`: issues once the vector stream is stopped and drained (R74). -/
def execVjoin (s : State) : Out :=
  ctl s do
    let x := s.me
    x.handlerCheck
    awaits x.vec.drained .other
    .ok (.go s.cover)

/-- Every handle register cleared that holds a kind of handle. -/
def Ctl.clearHandles (x : Ctl) (p : Handle → Bool) : Ctl :=
  { x with h := Vector.ofFn fun i => if p x.h[i] then .null else x.h[i] }
/-- Is it a see handle of either kind? -/
def Handle.isSee : Handle → Bool
  | .see _ | .gsee _ => true
  | _ => false
/-- Is it a fill handle? -/
def Handle.isFill : Handle → Bool
  | .fill _ => true
  | _ => false
/-- The see handles of h0 to h15 dropped (R75). -/
def State.dropSees (s : State) : State :=
  ((s.me.ctl.h.toList.filter Handle.isSee).foldl (fun s h => s.dropHandle s.cur h) s).onMe fun x =>
    x.withCtl fun t => t.clearHandles Handle.isSee
/-- The fill handles of h0 to h15 abandoned: each home learns of it (R75, R218). -/
def State.abandonFills (s : State) : State :=
  (s.me.ctl.h.toList.foldl (fun s h => match h with
    | .fill t => s.post (.fillDrop t s.cur s.nextId true)
    | _ => s) s).onMe fun x =>
    x.withCtl fun t => t.clearHandles Handle.isFill

/-- `halt`: waits for the vector stream and for this task's engine work, drops the see handles; a fill handle left over is
abandoned and traps ABANDONED_FILL, and otherwise the core becomes idle (R75, R174). -/
def execHalt (s : State) : Out :=
  let x := s.me
  if !x.vec.drained || !((upto 6).all fun q => seqReached (x.csr.seq.toList.getD q 0) (x.lastPush.toList.getD q 0)) then
    ctl s (waitOf .other)
  else
    let t := s.dropSees
    match t.me.ctl.lowestFill with
    | some r => .next (t.abandonFills.take s.cur
        (.sync { cause := .abandonedFill, info := BitVec.ofNat 64 r } false))
    | none => ctl s (.ok (.go (t.onMe fun x =>
        Core.drain { x with task := false, ctl := { x.ctl with running := false } })))

/-! ## Traps, returns, status -/

/-- `trap`: SWT with the sign-extended immediate (R76). -/
def execTrap (imm : BitVec 33) (s : State) : Out := ctl s (trapOf .swt (imm.signExtend 64))
/-- `sys`: SYS with the sign-extended immediate (R76). -/
def execSys (imm : BitVec 33) (s : State) : Out := ctl s (trapOf .sys (imm.signExtend 64))

/-- `uret`: ILLEGAL outside a user-level interrupt handler; otherwise back to what it interrupted (R78, R368). -/
def execUret (s : State) : Out :=
  .next (s.settleReturn do
    let x := s.me
    require x.uliActive .illegal x.ctl.offered
    orTrap (s.returnUli s.cur))

/-- The level that a privileged word needs (R38, R51). -/
def Core.needK (x : Core) : Except Stop Unit := require x.ctl.kernel .priv x.ctl.offered

/-- `kret`: PRIV at U; waits for a kernel vector run to end; from a watchdog handler with REQ and WDOG set it starts a
context save; otherwise back to what was interrupted (R78, R368, R377). -/
def execKret (s : State) : Out :=
  .next (s.settleReturn do
    let x := s.me
    x.needK
    awaits (!(x.vec.run == .kernelRun) && (x.vec.run != .held || x.vec.pend.isEmpty)) .other
    let back ← orTrap (s.returnKernel s.cur)
    let f := s.frameAt s.cur (frameOff x.csr.kframe - 20480)
    let watchdog := match f with | some f => f.cause.toNat % 256 == Cause.preemptWatchdog.code | none => false
    if watchdog && x.req && bitOf x.csr.preempt 2 then
      .ok (s.onMe fun x => { x with mode := .saving .preemptWatchdog })
    else .ok back)

/-- `uie`: the master enable set, its old state into d (R79). -/
def execUie (d : Fin 32) (s : State) : Out :=
  ctl s (.ok (.go (s.onMe fun x =>
    (x.putReg d (x.csr.uie &&& 1) 1).withCsr fun r => { r with uie := setBit r.uie 0 })))
/-- `uid`: the master enable cleared, its old state into d (R79). -/
def execUid (d : Fin 32) (s : State) : Out :=
  ctl s (.ok (.go (s.onMe fun x =>
    (x.putReg d (x.csr.uie &&& 1) 1).withCsr fun r => { r with uie := clearBit r.uie 0 })))

/-- `fget`: F.count (R80). -/
def execFget (d : Dst) (s : State) : Out :=
  ctl s do
    s.me.awaitDst d
    .ok (.go (s.onMe fun x => x.putDst d (BitVec.ofNat 64 x.ctl.f.count) 1))

/-- A `tlbi`: PRIV at U; issues once every earlier store of the stream is performed (R81). -/
def State.tlbiWord (s : State) (srcs : List Src) (keep : List Word → TlbEntry → Bool) : Out :=
  ctl s do
    let x := s.me
    x.needK
    let r ← x.srcs srcs
    awaits ((s.flight.all fun a => a.core != s.cur || a.vec || !a.isWrite) && x.ctl.stores.isEmpty) .other
    .ok (.go ((s.setCore s.cur r.2).tlbi s.cur (keep r.1)))

/-- `tlbi a, b`: the page containing a, in context b or global (R81). -/
def execTlbiPage (a b : Fin 32) (s : State) : Out :=
  s.tlbiWord [.reg a, .reg b] fun v e =>
    !(e.va == (v.getD 0 0).toNat / 2 ^ e.bits * 2 ^ e.bits && (e.glob || e.ctx == (v.getD 1 0).setWidth 16))
/-- `tlbi a`: every translation of context a that is not global (R81). -/
def execTlbiContext (a : Fin 32) (s : State) : Out :=
  s.tlbiWord [.reg a] fun v e => e.glob || e.ctx != (v.getD 0 0).setWidth 16
/-- `tlbi`: every translation (R81). -/
def execTlbiAll (s : State) : Out := s.tlbiWord [] fun _ _ => false

end Sys2Proof.Machine
end

