-- ==== Sys2Proof/Machine/Handle.lean ====
section
/-! DEFINITION. Tiles, handles, mailboxes and rings: the handle words (R267 to R277) and the events at the homes (R214, R216,
R219, R221). -/
namespace Sys2Proof.Machine

/-- A word that is a release: a store that was lost before it traps here once (R391). -/
def ctlRel (s : State) (r : Issue) : Out := .next ((s.reportLost r).settleCtl 1 r)
/-- A destination handle register must hold null (R211). -/
def Core.needNull (x : Core) (h : Fin 16) : Except Stop Unit := require (x.ctl.h[h] == .null) .badHandle (handleInfo h)
/-- A handle register set. -/
def Core.putHandle (x : Core) (h : Fin 16) (v : Handle) : Core := x.withCtl fun c => { c with h := c.h.set h v }
/-- The core of a rank: PERM for a rank that the launch lacks, GROUP_ABSENT for one that cannot be reached (R391). -/
def State.rankTarget (s : State) (r : Word) : Except Stop Nat :=
  if s.me.csr.ncores.toNat ≤ r.toNat then trapOf .perm r
  else match s.rankCore s.cur r.toNat with
    | some d => if s.reaches s.cur d then .ok d else trapOf .groupAbsent (s.nodeInfo d)
    | none => trapOf .perm r
/-- Every tile that a handle names can be reached and is live (R210, R391). -/
def State.checkLive (s : State) (refs : List TileRef) (info : Word) : Except Stop Unit :=
  match refs.find? fun t => !s.reaches s.cur t.core with
  | some t => .error (.trap (s.absentTrap t.core))
  | none => require (refs.all s.live) .badHandle info

/-! ## Creation -/

/-- A tile table entry that is FREE and not reserved by a ring (R207). -/
def Tile.open_ (t : Tile) : Bool := t.st == .free && t.ring.isNone
/-- The entries that can be taken, in rising order. -/
def Core.openTiles (x : Core) : List Nat := (upto 256).filter fun t => (x.tile t).open_
/-- Do two regions share a byte? -/
def regionsMeet (a n b m : Nat) : Bool := decide (a < b + m ∧ b < a + n)
/-- Does a region meet a tile that is not FREE, or the slot region of a ring (R207)? -/
def Core.regionUsed (x : Core) (base size : Nat) : Bool :=
  (x.tiles.any fun t => t.2.st != .free && regionsMeet base size t.2.base t.2.size)
    || (x.rings.any fun r => regionsMeet base size r.2.base (r.2.size * r.2.slots.length))
/-- The limits of R206 on a tile of `size` bytes within a region of `total` bytes. -/
def tileFits (base size total : Nat) : Bool :=
  decide (base % 64 = 0 ∧ size % 64 = 0 ∧ 64 ≤ size ∧ size ≤ 1048576 ∧ base + total ≤ Config.spadSize)
/-- A live reference to a tile of a core. -/
def State.refOf (s : State) (c t : Nat) : TileRef := { core := c, tile := t, gen := ((s.core c).tile t).gen }

/-- `tnew` (R207, R267). -/
def execTnew (hf : Fin 16) (hs : Option (Fin 16)) (a b : Src) (s : State) : Out :=
  ctl s do
    let x := s.me
    let r ← x.src2 a b
    x.needNull hf
    match hs with | some h => x.needNull h | none => .ok ()
    require (tileFits r.1.toNat r.2.1.toNat r.2.1.toNat && !x.regionUsed r.1.toNat r.2.1.toNat) .perm r.1
    match x.openTiles with
    | [] => waitOf (.queue 16)
    | t :: _ =>
      let ref := s.refOf s.cur t
      let tile : Tile := { x.tile t with base := r.1.toNat, size := r.2.1.toNat, st := .filling, fill := true
                                         see := if hs.isSome then 1 else 0 }
      let y := { r.2.2 with tiles := r.2.2.tiles.put t tile }
      let z := y.putHandle hf (.fill ref)
      .ok (.go (s.setCore s.cur (match hs with | some h => z.putHandle h (.see ref) | none => z)))

/-- `tring` (R220, R273). -/
def execTring (a b : Src) (sm1 c : Fin 64) (r : Fin 16) (s : State) : Out :=
  ctl s do
    let x := s.me
    let v ← x.src2 a b
    let n := sm1.val + 1
    let base := v.1.toNat
    let size := v.2.1.toNat
    let id := BitVec.ofNat 64 r.val
    require ((x.rings.find r.val).isNone && decide (x.rings.length < 16) && c != 0) .perm id
    require (tileFits base size (size * n) && !x.regionUsed base (size * n)) .perm v.1
    let slots := x.openTiles.take n
    require (slots.length == n) .perm id
    let ring : Ring := { base := base, size := size, slots := slots, c := c.val, claimed := 0, arrived := 0
                         next := List.replicate c.val 0, closed := false, waiters := [], readers := [] }
    let y := v.2.2
    let tiles := slots.zipIdx.foldl (fun ts t =>
      ts.put t.1 { y.tile t.1 with base := base + size * t.2, size := size, ring := some r }) y.tiles
    .ok (.go (s.setCore s.cur { y with tiles := tiles, rings := y.rings.put r.val ring }))

/-! ## Copies and drops -/

/-- `hdup` (R268). -/
def execHdup (hd ha : Fin 16) (s : State) : Out :=
  ctl s do
    let x := s.me
    x.needNull hd
    let h := x.ctl.h[ha]
    require h.isSee .badHandle (handleInfo ha)
    s.checkLive h.sees (handleInfo ha)
    .ok (.go ((h.sees.foldl State.addSee s).onMe fun x => x.putHandle hd h))

/-- `hdrop` (R269). -/
def execHdrop (h : Fin 16) (s : State) : Out :=
  ctlRel s do
    let x := s.me
    let v := x.ctl.h[h]
    match v with
    | .fill t => do s.checkLive [t] (handleInfo h); x.checkLost true .dom
    | _ => s.checkLive v.sees (handleInfo h)
    .ok (.go ((s.dropHandle s.cur v).onMe fun x => x.putHandle h .null))

/-- FILL_DROP_AT_HOME: a fill drop reaches the home once what the dropping agent did before it is performed and the tokens of the drop
are through; an abandonment publishes nothing and waits for nothing; a tile whose home cannot be reached is never published (R214,
R218, R257, R391). -/
def execFillDropAtHome (k : Nat) (s : State) : Out :=
  .next (match s.msgs[k]? with
    | some (.fillDrop t c n poison) =>
      let u : State := { s with msgs := dropNth s.msgs k }
      if !poison && (!s.released c n || !s.tokensThrough c n) then s
      else if !s.reaches c t.core then u
      else if !s.mayGo c (spadKey t.core 0) || s.behindSent c (pkgOf t.core) n (s.msgs.take k) s.chunks then s
      else if poison then u.abandon t else u.publish t
    | _ => s)
/-- SEE_DROP_AT_HOME: a see drop reaches the home once every load through the handle has returned (R216); one to a home that
cannot be reached is lost (R391). -/
def execSeeDropAtHome (k : Nat) (s : State) : Out :=
  .next (match s.msgs[k]? with
    | some (.seeDrop t c n) =>
      let u : State := { s with msgs := dropNth s.msgs k }
      if !s.readsDone c n t then s
      else if !s.reaches c t.core then u
      else if !s.mayGo c (spadKey t.core 0) || s.behindSent c (pkgOf t.core) n (s.msgs.take k) s.chunks then s
      else u.loseSee t
    | _ => s)

/-! ## Mailboxes -/

/-- Handles in a mailbox and places reserved for handles on their way (R219, R270). -/
def Core.boxLoad (x : Core) (m : Fin 4) : Nat := x.boxes[m].length + x.coming[m]
/-- `hsend`: reserves a place, takes the see references and sends; it completes when the handle has arrived (R219, R270). -/
def execHsend (h : Fin 16) (b : Src) (m : Fin 4) (notify : Bool) (s : State) : Out :=
  ctl s do
    let x := s.me
    if x.ctl.reply.isSome then
      let r ← x.src1 b
      let y := if x.ctl.h[h].isFill then r.2.putHandle h .null else r.2
      .ok (.go (s.setCore s.cur y))
    else if x.ctl.committed then waitOf .other
    else do
      let r ← x.src1 b
      let d ← s.rankTarget r.1
      let v := x.ctl.h[h]
      require (v != .null) .badHandle (handleInfo h)
      s.checkLive (match v with | .fill t => [t] | _ => v.sees) (handleInfo h)
      awaits (decide ((s.core d).boxLoad m < 8)) (.queue 16)
      let s1 := v.sees.foldl State.addSee s
      let s2 := s1.modCore d fun y => { y with coming := y.coming.set m (y.coming[m] + 1) }
      .ok (.stay ((s2.post (.handle s.cur d m v notify s.nextId)).onMe fun y => y.withCtl fun c => { c with committed := true }) .other)

/-- A V cause with its value becomes pending: its PEND bit and its latest value (R363, R366). `i` numbers the V causes in the
order of bits 32 to 35. -/
def Core.pendV (x : Core) (i : Fin 4) (v : Word) : Core :=
  { x with events := { x.events with vals := x.events.vals.set i v }
           csr := { x.csr with uie := setBit x.csr.uie (32 + i.val) } }
/-- A handle that core `src` sent cannot arrive: its see references end again, and the word traps GROUP_ABSENT (DESIGN CHOICE, entry
105; R391). -/
def State.sendFailed (s : State) (src dst : Nat) (h : Handle) : State :=
  let s1 := (h.sees.foldl State.loseSee s).modCore src fun y => y.withCtl fun c => { c with committed := false }
  s1.take src (.sync (s.absentTrap dst) false)
/-- HANDLE_MAILBOX_ARRIVAL: the handle enters its reserved place and the sender's word completes (R219, R270); where the receiver has
become unreachable the word ends in GROUP_ABSENT (R391). -/
def execHandleMailboxArrival (k : Nat) (s : State) : Out :=
  .next (match s.msgs[k]? with
    | some (.handle src dst m h notify n) =>
      let ready := match h with | .fill t => s.tileStoresDone src t | _ => true
      if !ready then s
      else if !s.reaches src dst then { s with msgs := dropNth s.msgs k }.sendFailed src dst h
      else if !s.mayGo src (spadKey dst 0) || s.behindSent src (pkgOf dst) n (s.msgs.take k) s.chunks then s
      else
        let s1 := { s with msgs := dropNth s.msgs k }.modCore dst fun y =>
          let z := { y with boxes := y.boxes.set m (y.boxes[m] ++ [h]), coming := y.coming.set m (y.coming[m] - 1) }
          if notify then z.pendV 3 (BitVec.ofNat 64 m.val) else z
        s1.modCore src fun y => y.withCtl fun c => { c with reply := some { handle := .null, status := 0 } }
    | _ => s)

/-- `hrecv` (R271). -/
def execHrecv (h : Fin 16) (m : Fin 4) (s : State) : Out :=
  ctl s do
    let x := s.me
    x.needNull h
    match x.boxes[m] with
    | [] => waitOf (.queue 16)
    | v :: r => .ok (.go (s.onMe fun y => { y with boxes := y.boxes.set m r }.putHandle h v))

/-- The code of a state (R212). -/
def TileSt.code : TileSt → Nat
  | .free => 0 | .filling => 1 | .published => 2 | .poisoned => 3
/-- The information word of a fill or see handle (R212). -/
def State.tileInfo (s : State) (t : TileRef) (kind : Nat) : Word :=
  let x := s.tileOf t
  let names := (s.pkg (pkgOf t.core)).member * 2 ^ 52 + idxOf t.core * 2 ^ 43 + t.tile * 2 ^ 35 + kind
  BitVec.ofNat 64 (if s.live t then
    names + (x.size / 64 - 1) * 2 ^ 21 + x.base / 64 * 64 + x.st.code * 16 + (if x.ring.isSome then 8 else 0)
  else names)
/-- The information word of a group see handle (R237). -/
def State.groupInfo (s : State) (g : GSee) : Word :=
  let st (p : TileSt) : Bool := g.refs.any fun t => (s.tileOf t).st == p
  let code := if st .poisoned then 3 else if st .filling then 1 else 2
  BitVec.ofNat 64 (g.gid.toNat * 2 ^ 44 + g.ring.val * 2 ^ 40 + g.round.toNat % 2 ^ 32 * 256 + code * 16 + 8 + 3)
/-- `hinfo` (R212, R237, R272). -/
def execHinfo (d : Fin 32) (h : Fin 16) (s : State) : Out :=
  ctl s do
    let v := s.me.ctl.h[h]
    let refs := match v with | .fill t => [t] | _ => v.sees
    match refs.find? fun t => !s.reaches s.cur t.core with
    | some t => .error (.trap (s.absentTrap t.core))
    | none =>
      let w := match v with
        | .null => 0
        | .fill t => s.tileInfo t 1
        | .see t => s.tileInfo t 2
        | .gsee g => s.groupInfo g
      .ok (.go (s.onMe fun x => x.putReg d w 1))

/-! ## Rings -/

/-- The ring that a rank and a number name: PERM where there is none (R275 to R277). -/
def State.ringAt (s : State) (rank : Word) (r : Fin 16) : Except Stop (Nat × Ring) := do
  let c ← s.rankTarget rank
  match (s.core c).rings.find r.val with
  | some g => .ok (c, g)
  | none => trapOf .perm (BitVec.ofNat 64 r.val)
/-- A handle and a status delivered to the word (R274). -/
def Core.deliverHandle (x : Core) (h : Fin 16) (v : Handle) (sd : Fin 32) (status : Word) : Core :=
  (x.putHandle h v).putReg sd status 1

/-- `tclaim`: waits at the home in the order of arrival, until its slot is FREE or the ring is closed (R221, R275). -/
def execTclaim (h : Fin 16) (a : Src) (r : Fin 16) (sd : Fin 32) (s : State) : Out :=
  ctl s do
    let x := s.me
    let v ← x.src1 a
    match x.ctl.reply with
    | some p => .ok (.go (s.setCore s.cur (v.2.deliverHandle h p.handle sd p.status)))
    | none => do
      x.needNull h
      let g ← s.ringAt v.1 r
      if g.2.closed then .ok (.go (s.setCore s.cur (v.2.deliverHandle h .null sd noClaim)))
      else if x.ctl.asked then waitOf (.queue 16)
      else .ok (.stay ((s.modRing g.1 r.val fun q => { q with waiters := q.waiters ++ [s.cur] }).onMe fun y =>
        y.withCtl fun c => { c with asked := true }) (.queue 16))

/-- TCLAIM_GRANT: the claim that waits first at ring `r` of core `c` gets its slot once that is FREE (R221). -/
def execTclaimGrant (c : Nat) (r : Fin 16) (s : State) : Out :=
  .next (match (s.core c).rings.find r.val with
    | none => s
    | some g => match g.waiters, g.slots[g.claimed.toNat % g.slots.length]? with
      | w :: rest, some t =>
        if g.closed || ((s.core c).tile t).st != .free then s
        else
          let s1 := s.modCore c fun x => { x with
            tiles := x.tiles.put t { x.tile t with st := .filling, fill := true, see := g.c } }
          let s2 := s1.modRing c r.val fun q => { q with claimed := q.claimed + 1, waiters := rest }
          s2.answer w (.fill (s2.refOf c t)) g.claimed
      | _, _ => s)

/-- The core no longer waits at a ring. -/
def Ring.leave (g : Ring) (c : Nat) : Ring := { g with readers := g.readers.filter (·.core != c) }
/-- `tnext`: waits at the ring while its cursor stands at CLAIMED and the ring is open (R223, R276). -/
def execTnext (h : Fin 16) (a : Src) (r : Fin 16) (j : Fin 64) (sd : Fin 32) (s : State) : Out :=
  ctl s do
    let x := s.me
    let v ← x.src1 a
    match x.ctl.reply with
    | some p => .ok (.go (s.setCore s.cur (v.2.deliverHandle h p.handle sd p.status)))
    | none => do
      x.needNull h
      let g ← s.ringAt v.1 r
      match g.2.next[j.val]? with
      | none => trapOf .perm (BitVec.ofNat 64 j.val)
      | some n =>
        if n.toNat < g.2.claimed.toNat then
          let t := s.refOf g.1 (g.2.slots.getD (n.toNat % g.2.slots.length) 0)
          let s1 := (s.setCore s.cur v.2).modRing g.1 r.val fun q => { q.leave s.cur with next := setNth q.next j.val (n + 1) }
          .ok (.go (s1.onMe fun y => y.deliverHandle h (.see t) sd n))
        else if g.2.closed then
          .ok (.go (((s.setCore s.cur v.2).modRing g.1 r.val fun q => q.leave s.cur).onMe fun y => y.deliverHandle h .null sd noClaim))
        else if x.ctl.asked then waitOf (.queue 16)
        else .ok (.stay ((s.modRing g.1 r.val fun q =>
            { q with readers := q.readers ++ [{ core := s.cur, cursor := some j.val, round := n }] }).onMe fun y =>
          y.withCtl fun c => { c with asked := true }) (.queue 16))

/-- `tclose`: the claims still waiting get the null handle (R221, R224, R277). -/
def execTclose (a : Src) (r : Fin 16) (s : State) : Out :=
  ctl s do
    let v ← s.me.src1 a
    let g ← s.ringAt v.1 r
    let s1 := (s.setCore s.cur v.2).modRing g.1 r.val fun q => { q with closed := true, waiters := [] }
    let s2 := g.2.waiters.foldl (fun s w => s.answer w .null noClaim) s1
    .ok (.go (s2.endRing g.1 r.val))

end Sys2Proof.Machine
end

