-- ==== Sys2Proof/Machine/Task.lean ====
section
/-! DEFINITION. Tasks and names: the hierarchy of a launch (R163 to R168), `spawn`, `join` and `enq` (R281 to R283), and the
block-table store with the `bt` words (R194, R284, R285). -/
namespace Sys2Proof.Machine

/-! ## The hierarchy of a launch -/

/-- QLOG2 of a level descriptor; 0 selects 10 (R163). -/
def levelLog (w : Word) : Nat := let q := w.toNat / 256 % 32; if q = 0 then 10 else q
/-- SCOPE of a level descriptor (R163). -/
def levelScope (w : Word) : Scope :=
  match w.toNat / 16 % 8 with | 0 => .core | 1 => .die | 2 => .pkg | 3 => .dom | _ => .sys
/-- The instance of a level's domain that holds a core (R163, R166). -/
def levelNode (w : Word) (c : Nat) : Nat :=
  match w.toNat % 8 with | 0 => c | 1 => c / 16 | 2 => c / 128 | 3 => c / 512 | _ => 0
/-- The nodes of a level in the order of the lowest rank that each contains (R166). -/
def levelNodes (w : Word) (gang : List Nat) : List Nat := (gang.map (levelNode w)).eraseDups
/-- Bytes of a node queue of a level (R168). -/
def queueBytes (w : Word) : Nat := 64 + 32 * 2 ^ levelLog w

/-- FLAGS.RESUME of a launch. -/
def Launch.resume (l : Launch) : Bool := l.flags.getLsbD 2
/-- The launch of a core's partition. -/
def State.launchOf (s : State) (c : Nat) : Option Launch :=
  match s.partOfCore c with
  | some k => (s.part k).launch
  | none => none

/-- A node queue: its address, the power of its size, the scope of its pushes and pops (R168, R170). -/
structure NodeQueue where
  addr : Word
  log : Nat
  scope : Scope
  deriving DecidableEq, Repr
/-- Node `i` of level `j`. -/
def Launch.queue (l : Launch) (gang : List Nat) (j i : Nat) : NodeQueue :=
  let w := l.levels.getD j 0
  let below := (l.levels.take j).foldl (fun n v => n + (levelNodes v gang).length * queueBytes v) 0
  { addr := l.qbase + BitVec.ofNat 64 (below + i * queueBytes w), log := levelLog w, scope := levelScope w }
/-- The node that an id names for a core that uses it; none where it names no node (R167). -/
def State.nodeQueue (s : State) (c : Nat) (id : Word) : Option NodeQueue :=
  match s.launchOf c with
  | none => none
  | some l =>
    let j := id.toNat / 2 ^ 32
    let i := id.toNat % 2 ^ 32
    let gang := s.gang c
    match l.levels[j]? with
    | none => none
    | some w =>
      let nodes := levelNodes w gang
      if i = 0xFFFFFFFF then some (l.queue gang j (nodes.idxOf (levelNode w c)))
      else if i < nodes.length then some (l.queue gang j i) else none

/-- A translation by the device itself for the partition of a core, with its own permission (R281, R387). -/
def State.deviceKey (s : State) (c : Nat) (va : Word) (n : Nat) (need : Need) : Except Trap Nat :=
  let e := s.entry (pkgOf c) ((s.funcOf c).getD 0)
  match s.translateDev (pkgOf c) e.ptbase va n need with
  | .ok k _ => if need.r && s.poisoned k n then .error { cause := .ue, info := va - BitVec.ofNat 64 (k % granuleSize k) } else .ok k
  | .absent node => .error (nodeTrap node)
  | .trap cause => .error { cause := cause, info := va }

/-- A node queue as the device finds it: the keys of its head and tail, and the key of the record at an index. -/
structure QueueKeys where
  head : Nat
  tail : Nat
  record : Nat → Except Trap Nat
/-- The header of a node queue reached (R168). -/
def State.queueKeys (s : State) (c : Nat) (q : NodeQueue) : Except Trap QueueKeys := do
  let h ← s.deviceKey c q.addr 8 .both
  let t ← s.deviceKey c (q.addr + 8) 8 .both
  .ok { head := h, tail := t
        record := fun i => s.deviceKey c (q.addr + BitVec.ofNat 64 (64 + 32 * (i % 2 ^ q.log))) 32 .store }
/-- How many records a node queue holds: tail − head (R168). -/
def State.queueLoad (s : State) (k : QueueKeys) : Nat := (s.readWord k.tail - s.readWord k.head).toNat
/-- The accesses of a push or pop counted: both words of the header and the record (R168, R197). -/
def State.countQueue (s : State) (k : QueueKeys) (rec_ : Nat) : State :=
  ((s.countFrame k.head 8).countFrame k.tail 8).countFrame rec_ 32
/-- A push by core `c`: the record, then the tail (R170); what lies in the host range the host acknowledges later (R241). -/
def State.pushRecord (s : State) (c : Nat) (k : QueueKeys) (rec_ : Nat) (bytes : List Byte) : State :=
  ((((s.countQueue k rec_).write rec_ bytes).noteHost c rec_).writeNat k.tail 8 ((s.readWord k.tail) + 1).toNat).noteHost c k.tail

/-- A word that ends as usual, or in a fault of the queue region, which is a kernel trap at the word (R281). -/
abbrev RegionIssue := Except Stop (Except Trap Done)
/-- The state after such a word. -/
def ctlRegion (s : State) (r : RegionIssue) : Out :=
  match r with
  | .error e => ctlRel s (.error e)
  | .ok (.ok d) => ctlRel s (.ok d)
  | .ok (.error t) => .next (s.enterKernel s.cur (.sync t false))
/-- What a release waits for at issue: the acquires before it, and everything that it covers (R170, R243, R248, R281). With every
earlier store performed, the tokens of R257 would find each counter at zero. -/
def State.awaitRelease (s : State) (scope : Scope) : Except Stop Unit := do
  awaits (s.me.accessReady && s.releasedAll s.cur s.nextId && !(scope == .sys && s.hostBusy s.cur)) .other
  s.me.checkLost true scope
/-- A push of a record by the running core into a node queue, in state `t`: waits while the queue is full (R170). -/
def State.push (t : State) (q : NodeQueue) (bytes : List Byte) (next : State → Done) : RegionIssue :=
  match t.queueKeys t.cur q with
  | .error e => .ok (.error e)
  | .ok k =>
    if 2 ^ q.log ≤ t.queueLoad k then waitOf (.queue 16)
    else match k.record (t.readWord k.tail).toNat with
      | .error e => .ok (.error e)
      | .ok r => do
        awaits (!t.writeHeld r && !t.writeHeld k.tail) .other
        .ok (.ok (next (t.pushRecord t.cur k r bytes)))

/-- A continuation record from four words (R169). -/
def recordBytes (w : List Word) : List Byte := (w.map fun x => leBytes 8 x.toNat).flatten

/-- `spawn` (R170, R281). -/
def execSpawn (a : Src) (b : Fin 32) (s : State) : Out :=
  ctlRegion s do
    let r ← s.me.srcs [a, .reg b, .reg (b + 1), .reg (b + 2), .reg (b + 3)]
    let id := r.1.headD 0
    match s.nodeQueue s.cur id with
    | none => trapOf .perm id
    | some q => do
      s.awaitRelease q.scope
      (s.setCore s.cur r.2).push q (recordBytes r.1.tail) Done.go

/-- A word of a join frame, translated, checked and counted (R197, R282). -/
def State.frameWord (s : State) (va : Word) (need : Need) : State × Except Trap Nat :=
  match s.translate s.cur va 8 need s.me.ctl.kernel with
  | (s1, .ok k _) => (s1.countFrame k 8, .ok k)
  | (s1, .absent node) => (s1, .error (nodeTrap node))
  | (s1, .trap cause) => (s1, .error { cause := cause, info := va })

/-- `join` (R169, R170, R282). -/
def execJoin (d : Fin 32) (a : Src) (s : State) : Out :=
  ctlRegion s do
    let r ← s.me.src1 a
    let f := r.1
    checkAlign f 8
    let w0 := s.frameWord f .load
    let k0 ← orTrap w0.2
    let w1 := w0.1.frameWord (f + 8) .both
    let k1 ← orTrap w1.2
    let w2 := w1.1.frameWord (f + 16) .load
    let k2 ← orTrap w2.2
    let s1 := w2.1
    s.checkOverlap k0 8 false f
    s.checkOverlap k1 8 true (f + 8)
    s.checkOverlap k2 8 false (f + 16)
    require (!s1.poisoned k1 8) .ue (f + 8 - BitVec.ofNat 64 (k1 % granuleSize k1))
    let c := s1.readWord k1
    let id := s1.readWord k2
    let q? := s1.nodeQueue s.cur id
    s.awaitRelease (match q? with | some q => q.scope | none => .dom)
    awaits (s1.noneAtAll s.cur [(k0, 8), (k1, 8), (k2, 8)]) .other
    awaits (!s1.writeHeld k1) .other
    let count (t : State) : Done :=
      .go ((((t.setCore s.cur r.2).writeNat k1 8 (c - 1).toNat).noteHost s.cur k1).onMe fun x => x.putReg d (c - 1) 1)
    require (c != 0) .perm f
    if c != 1 then .ok (.ok (count s1))
    else do
      require (!s1.poisoned k2 8) .ue (f + 16 - BitVec.ofNat 64 (k2 % granuleSize k2))
      match q? with
      | none => trapOf .perm id
      | some q => do
        require (!s1.poisoned k0 8) .ue (f - BitVec.ofNat 64 (k0 % granuleSize k0))
        awaits (s1.noneAtAll s.cur (s1.keysOf s.cur s.me.ctl.kernel .load (.virt (s1.readWord k0)) 32)) .other
        s1.checkReads s.me.ctl.kernel (s1.readWord k0) 32
        let b := s1.readVirtual s.cur s.me.ctl.kernel ((EAddr.virt (s1.readWord k0)).pieces 32)
        let bytes ← orTrap b.2
        b.1.push q bytes count

/-- Entries that a queue holds: 16 in a carter queue, 8 in a mill queue (R292). -/
def queueDepth (q : Fin 6) : Nat := if q.val < 4 then 16 else 8
/-- A queue with an entry added at its end. -/
def Core.addEntry (x : Core) (q : Fin 6) (e : QEntry) : Core :=
  { x with queues := x.queues.set q { x.queues[q] with entries := x.queues[q].entries ++ [e] } }
/-- `enq` (R283). -/
def execEnq (a b : Src) (q : Fin 6) (s : State) : Out :=
  ctlRel s do
    let r ← s.me.src2 a b
    let d ← s.rankTarget r.1
    require (decide (r.2.1.toNat % 8 = 0)) .misalign r.2.1
    s.awaitRelease .dom
    awaits (decide ((s.core d).queues[q].entries.length < queueDepth q))
      (.queue (if d = s.cur then q.val else 16))
    let e : QEntry := .chain r.2.1 s.cur s.me.ctl.kernel s.nextId s.me.vec.era none none 0
    .ok (.go ((s.setCore s.cur r.2.2).modCore d fun x => x.addEntry q e))

/-! ## The block-table store -/

/-- The store of a core's partition in its package (R194). -/
def State.btStore (s : State) (c : Nat) : BtStore :=
  ((s.pkg (pkgOf c)).bt.find ((s.funcOf c).getD 0)).getD { keys := [], counts := [] }
/-- The store changed. -/
def State.setBt (s : State) (c : Nat) (b : BtStore) : State :=
  s.modPkg (pkgOf c) fun x => { x with bt := x.bt.put ((s.funcOf c).getD 0) b }
/-- The window address of a block (R284). -/
def blockAddr (bn : Nat) : Word := BitVec.ofNat 64 (0x00D0_0000_0000_0000 + bn * 0x1_0000)
/-- The lowest number from `i` on that is no key of a table with rising keys. -/
def firstGap (t : Tab Nat) (i : Nat) : Nat :=
  match t with
  | [] => i
  | (j, _) :: r => if j = i then firstGap r (i + 1) else i
/-- The lowest free block of a store of `n` blocks (R194). -/
def BtStore.lowest (b : BtStore) (n : Nat) : Option Nat := let i := firstGap b.counts 0; if i < n then some i else none
/-- A valid key (R284). -/
def checkKey (k : Word) : Except Stop Unit := require (decide (k.toNat / 2 ^ 48 = 0)) .perm k
/-- Blocks of the store of a core's partition (R386); a BTBLOCKS above 2^20 is none of the tests of R386 and stands as it is (DESIGN
CHOICE, entry 116; R194). -/
def State.btBlocks (s : State) (c : Nat) : Nat := (s.entry (pkgOf c) ((s.funcOf c).getD 0)).btblocks.toNat
/-- A `bt` word: sources, keys, then one atomic step that acquires and releases at pkg scope (R285). -/
def State.btWord (s : State) (d : Fin 32) (srcs : List Src) (f : List Nat → BtStore → Except Stop (BtStore × Word)) : Out :=
  ctlRel s do
    let r ← s.me.srcs srcs
    r.1.forM checkKey
    s.awaitRelease .pkg
    let o ← f (r.1.map (·.toNat)) (s.btStore s.cur)
    .ok (.go (((s.setCore s.cur r.2).setBt s.cur o.1).onMe fun x => x.putReg d o.2 1))

/-- `bt.alloc`: the lowest free block under a new key (R194, R285). -/
def execBtAlloc (d : Fin 32) (a : Src) (s : State) : Out :=
  s.btWord d [a] fun ks b => do
    let k := ks.headD 0
    require (b.keys.find k).isNone .perm (BitVec.ofNat 64 k)
    match b.lowest (s.btBlocks s.cur) with
    | none => .ok (b, 0)
    | some n => .ok ({ keys := b.keys.put k n, counts := b.counts.put n 1 }, blockAddr n)
/-- `bt.free`: the key removed; the block free at count 0 (R194, R285). -/
def execBtFree (d : Fin 32) (a : Src) (s : State) : Out :=
  s.btWord d [a] fun ks b =>
    let k := ks.headD 0
    match b.keys.find k with
    | none => trapOf .perm (BitVec.ofNat 64 k)
    | some n =>
      let c := (b.counts.find n).getD 1 - 1
      .ok ({ keys := Tab.del b.keys k, counts := if c = 0 then Tab.del b.counts n else b.counts.put n c }, BitVec.ofNat 64 c)
/-- `bt.share`: a new key for the block of another (R194, R285). -/
def execBtShare (d : Fin 32) (a b : Src) (s : State) : Out :=
  s.btWord d [a, b] fun ks t =>
    let k := ks.headD 0
    let old := ks.getD 1 0
    match t.keys.find old with
    | none => trapOf .perm (BitVec.ofNat 64 old)
    | some n => do
      let c := (t.counts.find n).getD 1
      require ((t.keys.find k).isNone && decide (c < 65535)) .perm (BitVec.ofNat 64 k)
      .ok ({ keys := t.keys.put k n, counts := t.counts.put n (c + 1) }, blockAddr n)
/-- `bt.xl`: the window address of a key's block, 0 for a key that is not mapped (R285). -/
def execBtXl (d : Fin 32) (a : Src) (s : State) : Out :=
  s.btWord d [a] fun ks b => .ok (b, match b.keys.find (ks.headD 0) with | some n => blockAddr n | none => 0)

end Sys2Proof.Machine
end

