-- ==== Sys2Proof/Machine/Push.lean ====
section
/-! DEFINITION. Engine units at push: substitution markers (R35), the checks of R333, handle references (R226, R332), the
captured state (R352), the numbering (R293) and the order between commands (R301); the words that push (R336 to R350). -/
namespace Sys2Proof.Machine

/-! ## Units -/

/-- What a unit asks of an engine. -/
inductive EOp where
  | carter (o : CarterOp)
  | mill (m : MillCmd)
  | qwait (m : Fin 6)
  | qfence (mask : BitVec 6)
  | qsig
  deriving DecidableEq, Repr
/-- A unit (R34). -/
structure EUnit where
  q : Fin 6
  op : EOp
  p : Params
  h : Fin 16
  i : Bool
  w : Bool
  follow : Option FollowOn
  deriving DecidableEq, Repr

/-- The parameter words in address order. -/
def paramList (p : Params) : List Word := [p.p0, p.p1, p.p2, p.p3]
/-- Parameters from four words. -/
def paramsFrom (l : List Word) : Params :=
  { p0 := l.getD 0 0, p1 := l.getD 1 0, p2 := l.getD 2 0, p3 := l.getD 3 0 }
/-- A mill queue, as one of the six. -/
def millQ (q : Fin 2) : Fin 6 := if q = 0 then 4 else 5
/-- No parameters. -/
def noParams : Params := { p0 := 0, p1 := 0, p2 := 0, p3 := 0 }

/-- What a parameter word must be (R329). -/
inductive Role where
  | addr (ref : Bool)
  | opt
  | loc (zero : Bool)
  | shape
  | rows
  | rowCount
  | number
  | dash
  | free
  deriving DecidableEq, Repr
/-- The roles of a unit's parameter words (R329). -/
def EOp.roles : EOp → List Role
  | .carter .copy | .carter (.red _ _) => [.addr true, .addr true, .shape, .free]
  | .carter (.gath _) | .carter .scat => [.addr true, .addr true, .rows, .addr false]
  | .carter (.fill _) => [.free, .addr true, .shape, .free]
  | .carter .put => [.addr true, .free, .shape, .free]
  | .carter .get => [.free, .addr true, .shape, .free]
  | .carter (.pin _) => [.addr false, .dash, .shape, .free]
  | .mill (.lds _ f) => [.addr false, if f.block.isSome then .opt else .dash, .dash, .dash]
  | .mill (.mm _) => [.addr false, .addr false, .rowCount, .opt]
  | .mill (.mmr _ _ _ _) => [.addr false, .opt, .dash, .dash]
  | .mill (.relax _ _ _) | .mill (.relaxb _) => [.addr false, .addr false, .addr false, .opt]
  | .mill (.pwl _) => [.addr false, .dash, .dash, .dash]
  | .mill (.chain _ _) => [.addr false, .loc false, .rowCount, .loc true]
  | .qwait _ => [.number, .dash, .dash, .dash]
  | .qfence _ | .qsig => []

/-- Step 3 of R333: codes and zero fields of an address word, and references where none may stand. -/
def Role.addrOk (r : Role) (w : Word) : Bool :=
  match r, AddrWord.of w with
  | .addr ref, .href _ _ => ref
  | .addr _, .bad => false
  | .opt, .href _ _ | .opt, .bad => false
  | .loc _, .loc _ => true
  | .loc zero, _ => zero && w == 0
  | _, _ => true
/-- Step 4 of R333: dash fields and the limits of a word. -/
def Role.valueOk (r : Role) (w : Word) : Bool :=
  let n := w.toNat
  match r with
  | .shape => decide (n / 2 ^ 62 = 0 ∧ n % 2 ^ 20 ≠ 0)
  | .rows => decide (n / 2 ^ 34 = 0 ∧ n % 2 ^ 20 ≠ 0)
  | .rowCount => decide (1 ≤ n ∧ n ≤ 2 ^ 20)
  | .number => decide (n / 2 ^ 32 = 0)
  | .dash => decide (n = 0)
  | _ => true

/-- The least and the greatest distance that a traversal reaches from its start. -/
def Shape.span (h : Shape) : Int × Int :=
  let part (c : Nat) (st : Int) : Int := ((c - 1 : Nat) : Int) * st
  let lows := [part h.c1 h.s1, part h.c2 h.s2, part h.c3 h.s3]
  (lows.foldl (fun a x => if x < 0 then a + x else a) 0, lows.foldl (fun a x => if 0 < x then a + x else a) h.len)
/-- The bytes that a unit touches from each address word, where they follow from its words (R332, R333 step 6). -/
def EOp.spans (o : EOp) (p : Params) : List (Option (Int × Int)) :=
  let h := Shape.of p.p2 p.p3
  let dense (n : Nat) : Option (Int × Int) := some (0, n)
  let list := dense (8 * h.c1)
  match o with
  | .carter .copy | .carter (.red _ _) => [some h.span, dense h.total]
  | .carter (.gath _) => [none, dense (h.c1 * h.len), none, list]
  | .carter .scat => [dense (h.c1 * h.len), none, none, list]
  | .carter (.fill _) => [none, some h.span]
  | .carter .put => [some h.span]
  | .carter .get => [none, dense h.total]
  | .carter (.pin _) => [some h.span]
  | .mill (.lds _ f) =>
    let cnt := f.kn.1 * f.kn.2
    match f.block with
    | some b => [dense (cnt / b.b * b.p), if p.p1 = 0 then none else dense (cnt / b.b * b.h)]
    | none => [dense (cnt * f.elemTy.size)]
  | .mill (.pwl _) => [dense 768]
  | .mill (.mmr _ _ _ _) => [none, if p.p1 = 0 then none else dense 8]
  | .mill (.relax _ b n) =>
    let rows := dense (4 * (b.val + 1) * (n.val + 1))
    [rows, rows, rows, if p.p3 = 0 then none else dense 16]
  | .mill (.relaxb _) => [none, none, none, if p.p3 = 0 then none else dense 16]
  | _ => []

/-- Step 5 of R333: the alignment of each word, for the sizes that the unit itself fixes; what depends on a format is checked
at start. -/
def EOp.aligns (o : EOp) : List Nat :=
  match o with
  | .carter (.gath _) | .carter .scat => [1, 1, 1, 8]
  | .carter (.red _ t) => [t.size, t.size, 1, 1]
  | .mill (.lds _ f) => [if f.block.isSome then 1 else f.elemTy.size]
  | .mill (.pwl _) => [4]
  | .mill (.mmr _ _ _ _) => [1, 8]
  | .mill (.relax _ _ _) | .mill (.relaxb _) => [4, 4, 4, 8]
  | _ => []
/-- The strides and run length of a `c.red` in whole elements (R333 step 5); the index of the first word that is not. -/
def EOp.redMisfit (o : EOp) (p : Params) : Option Nat :=
  match o with
  | .carter (.red _ t) =>
    let h := Shape.of p.p2 p.p3
    if h.len % t.size ≠ 0 then some 2
    else if h.s1 % t.size ≠ 0 ∨ h.s2 % t.size ≠ 0 ∨ h.s3 % t.size ≠ 0 then some 3 else none
  | _ => none

/-- The index of the first word of a list that fails a check. -/
def firstBad (l : List Bool) : Option Nat := let i := l.idxOf false; if i < l.length then some i else none
/-- A PARAM that names a word of the unit by its index, the command word being 0 (R362). -/
def paramTrap (i : Nat) : Trap := { cause := .param, info := BitVec.ofNat 64 i }
/-- A unit's part with the index of its command word: the command itself, and its follow-on. -/
structure Piece where
  op : EOp
  p : Params
  base : Nat
  deriving DecidableEq, Repr
/-- The parts of a unit. -/
def EUnit.pieces (u : EUnit) : List Piece :=
  { op := u.op, p := u.p, base := 0 } ::
    (match u.follow with | some f => [{ op := .mill f.cmd, p := f.word.p, base := 5 }] | none => [])
/-- A check of the words of a part. -/
def Piece.check (x : Piece) (ok : Role → Word → Bool) : Except Trap Unit :=
  match firstBad ((x.op.roles.zip (paramList x.p)).map fun r => ok r.1 r.2) with
  | some i => .error (paramTrap (x.base + 1 + i))
  | none => .ok ()
/-- Step 5 for a part. -/
def Piece.checkAlign (x : Piece) : Except Trap Unit :=
  match firstBad ((x.op.aligns.zip (paramList x.p)).map fun r => decide (r.2.toNat % r.1 = 0)), x.op.redMisfit x.p with
  | some i, _ => .error (paramTrap (x.base + 1 + i))
  | none, some i => .error (paramTrap (x.base + 1 + i))
  | none, none => .ok ()
/-- The first local address word of a part whose traversal leaves the scratchpad (step 6). -/
def Piece.checkExtent (x : Piece) : Except Trap Unit :=
  let out := ((x.op.spans x.p).zip (paramList x.p)).find? fun r =>
    match r.1, AddrWord.of r.2 with
    | some b, .loc off => decide ((off : Int) + b.1 < 0 ∨ (Config.spadSize : Int) < off + b.2)
    | _, _ => false
  match out with
  | some r => .error { cause := .perm, info := r.2 &&& 0x1FFFFF }
  | none => .ok ()
/-- Does a part capture the relaxation registers (R318)? -/
def EOp.relaxes : EOp → Bool
  | .mill (.relax _ _ _) | .mill (.relaxb _) => true
  | _ => false
/-- Steps 3 to 6 of R333 over a unit (R296, R333); `mitl` is the captured limit. -/
def EUnit.check (u : EUnit) (mitl : BitVec 16) : Except Trap Unit := do
  u.pieces.forM fun x => x.check Role.addrOk
  u.pieces.forM fun x => do
    x.check Role.valueOk
    if x.op.relaxes && mitl == 0 then .error (paramTrap x.base) else .ok ()
  u.pieces.forM Piece.checkAlign
  u.pieces.forM Piece.checkExtent

/-! ## Captured state, numbers, order -/

/-- The state that a command captures (R318, R352), at a privilege level. -/
def Core.capture (x : Core) (kernel : Bool) : Cap :=
  let r := x.csr
  { det := bitOf r.det 0, kernel := kernel, nantrap := x.nanTraps, mtol := r.mtol.setWidth 32, mitl := r.mitl.setWidth 16
    momega := r.momega.setWidth 32, macc := bitOf r.macc 0, mnorm := bitOf r.mnorm 0, mclamp := r.mclamp
    mpwl := (r.mpwl.extractLsb' 0 2).toFin, mctl := r.mctl.setWidth 8 }

/-- A table of numbers by queue moved up to a number. -/
def raise (k : Tab (BitVec 32)) (q : Nat) (n : BitVec 32) : Tab (BitVec 32) :=
  match k.find q with
  | some m => if seqReached m n then k else k.put q n
  | none => k.put q n
/-- Is number `n` of queue `q` ordered before (R301)? -/
def Before.covers (b : Before) (q : Nat) (n : BitVec 32) : Bool :=
  (match Tab.find b.upTo q with
    | some m => seqReached m n
    | none => false) && !b.but.contains (q, n)
/-- What is ordered before by one of two sets. -/
def Before.join (a b : Before) : Before :=
  { upTo := b.upTo.foldl (fun k x => raise k x.1 x.2) a.upTo
    but := (a.but ++ b.but).filter fun h => !a.covers h.1 h.2 && !b.covers h.1 h.2 }
/-- The numbers of a queue up to one. -/
def Before.of (q : Nat) (n : BitVec 32) : Before := { upTo := [(q, n)], but := [] }

/-- SEQ of a queue. -/
def Core.seq (x : Core) (q : Nat) : BitVec 32 := x.csr.seq.toList.getD q 0
/-- PSEQ of a queue. -/
def Core.pseq (x : Core) (q : Nat) : BitVec 32 := x.csr.pseq.toList.getD q 0
/-- The commands of a queue in order. -/
def Core.queueCmds (x : Core) (q : Nat) : List Cmd :=
  match x.queues.toList[q]? with
  | some e => e.entries.filterMap QEntry.cmd?
  | none => []
/-- What is ordered before a command that waits for number `n` of a queue: the numbers up to that one, and what is ordered before its
command, where that has not completed (R301). -/
def Core.beforeAt (x : Core) (q : Nat) (n : BitVec 32) : Before :=
  match (x.queueCmds q).find? fun y => y.num = n with
  | some y => y.after.join (.of q n)
  | none => .of q n
/-- The queues of a mask. -/
def maskQueues (m : BitVec 6) : List Nat := (upto 6).filter fun i => m.getLsbD i
/-- The operation of a queue entry; a `q.fence` captures PSEQ of every queue of its mask but its own (R299). -/
def EOp.cmdOp (o : EOp) (x : Core) (q : Nat) (p : Params) : CmdOp :=
  match o with
  | .carter c => .carter c
  | .mill m => .mill m
  | .qwait m => .qwait m (p.p0.setWidth 32)
  | .qfence mask => .qfence (((maskQueues mask).filter (· != q)).map fun i => (i, x.pseq i))
  | .qsig => .qsig
/-- The commands that have completed: of each queue the numbers up to SEQ but for those still in the queue, which an open chain ahead of
them can leave behind (R297, entry 79). -/
def Core.completed (x : Core) : Before :=
  { upTo := (upto 6).map fun i => (i, x.seq i)
    but := (upto 6).flatMap fun i => ((x.queueCmds i).filter fun y => seqReached (x.seq i) y.num).map fun y => (i, y.num) }
/-- What is ordered before a command at push (R301). -/
def Core.beforeOf (x : Core) (q : Nat) (o : CmdOp) : Before :=
  let none_ : Before := { upTo := [], but := [] }
  let last := match (x.queueCmds q).getLast? with | some y => y.after.join (.of q y.num) | none => none_
  let named := match o with
    | .qwait m v => x.beforeAt m.val v
    | .qfence l => l.foldl (fun k e => k.join (x.beforeAt e.1 e.2)) none_
    | _ => none_
  (x.completed.join last).join named

/-- A command made of a unit by core `c`, for an issuer, with the next number of its queue (R293). -/
def Core.command (x : Core) (u : EUnit) (cap : Cap) (issuer before era : Nat) (fill see : Option TileRef) : Cmd :=
  let op := u.op.cmdOp x u.q.val u.p
  { op := op, p := u.p, i := u.i, w := u.w, follow := u.follow, issuer := issuer, num := x.pseq u.q.val + 1
    order := x.order + 1, before := before, era := era, cap := cap, hfill := fill, hsee := see, after := x.beforeOf u.q.val op }
/-- The core after it has numbered a command (R293). -/
def Core.numbered (x : Core) (q : Fin 6) : Core :=
  { x with order := x.order + 1, csr := { x.csr with pseq := x.csr.pseq.set q (x.csr.pseq[q] + 1) } }

/-! ## The push by a stream -/

/-- The registers that a unit's markers name, in address order, with the index of each word (R35). -/
def EUnit.words (u : EUnit) : List (Nat × Word) :=
  u.pieces.flatMap fun x => if x.op.roles.isEmpty then [] else
    (paramList x.p).zipIdx.map fun w => (x.base + 1 + w.2, w.1)
/-- Is a word a substitution marker? -/
def isMarker (w : Word) : Bool := w.getLsbD 63
/-- The register of a marker. -/
def markerReg (w : Word) : Fin 32 := (w.extractLsb' 0 5).toFin
/-- A word resolved (R35). -/
def Ctl.resolve (x : Ctl) (i : Nat) (w : Word) : Except Stop Word :=
  if !isMarker w then .ok w
  else if w.toNat % 2 ^ 63 / 32 ≠ 0 then .error (.trap (paramTrap i))
  else do
    let v ← x.readSrc [] (.reg (markerReg w))
    if isMarker v then .error (.trap (paramTrap i)) else .ok v
/-- Every word of a list resolved in address order. -/
def Ctl.resolveAll (x : Ctl) : List (Nat × Word) → Except Stop (List Word)
  | [] => .ok []
  | (i, w) :: r => do
    let v ← x.resolve i w
    let vs ← x.resolveAll r
    .ok (v :: vs)
/-- The unit with its words resolved; the push waits for every register that a marker names (R35). -/
def Ctl.resolveUnit (x : Ctl) (u : EUnit) : Except Stop EUnit := do
  u.words.forM fun w => if isMarker w.2 && decide (w.2.toNat % 2 ^ 63 / 32 = 0)
    then x.awaitSrc [] (.reg (markerReg w.2)) else .ok ()
  let v ← x.resolveAll u.words
  .ok { u with
    p := if u.op.roles.isEmpty then u.p else paramsFrom (v.take 4)
    follow := u.follow.map fun f => { f with word := { f.word with p := paramsFrom (v.drop 4) } } }

/-- The handle register and offset of a reference word. -/
def refOf? (r : Role) (w : Word) : Option (Nat × Nat) :=
  match r, AddrWord.of w with
  | .addr true, .href h off => some (h, off)
  | _, _ => none
/-- Is tile `t` read through a see handle by an entry of queue `q` (R226)? -/
def Core.readsTile (x : Core) (q : Nat) (t : TileRef) : Bool := (x.queueCmds q).any fun y => y.hsee == some t
/-- The handle of a reference checked: live and of its kind, with its traversal within the tile (R332). -/
def State.checkRef (s : State) (fill : Bool) (h off : Nat) (span : TileRef → Option (Int × Int)) : Except Stop TileRef := do
  let info := BitVec.ofNat 64 h
  let live (t : TileRef) : Except Stop TileRef := do
    s.checkLive [t] info
    let out := match span t with
      | some b => decide ((off : Int) + b.1 < 0 ∨ ((s.tileOf t).size : Int) < off + b.2)
      | none => false
    require (!out) .perm (BitVec.ofNat 64 off)
    .ok t
  match fill, s.me.ctl.h.toList.getD h .null with
  | true, .fill t => live t
  | false, .see t => live t
  | _, _ => trapOf .badHandle info
/-- Step 7 of R333: the handle references of a unit (R226, R332). The bytes that a copy writes into formatted banks do not follow from
its shape alone where the source's bank is formatted too (R305), and are checked in their chunk. -/
def State.checkRefs (s : State) (u : EUnit) : Except Stop (Option TileRef × Option TileRef) := do
  let roles := u.op.roles
  let r0 := refOf? (roles.getD 0 .free) u.p.p0
  let r1 := refOf? (roles.getD 1 .free) u.p.p1
  let spans := u.op.spans u.p
  let want := match r1, r0 with | some r, _ => r.1 | none, some r => r.1 | none, none => 0
  if u.h.val ≠ want then .error (.trap (paramTrap 0))
  else do
    let see ← match r0 with
      | some r => (s.checkRef false r.1 r.2 fun _ => spans.getD 0 none).map some
      | none => .ok none
    let fill ← match r1 with
      | some r => (s.checkRef true r.1 r.2 fun t =>
          if u.op == .carter .copy && s.inBank s.cur s.me.ctl.kernel (EAddr.of u.p.p0 see true)
            && s.inBank s.cur s.me.ctl.kernel (EAddr.of u.p.p1 (some t) false) then none else spans.getD 1 none).map some
      | none => .ok none
    match fill with
    | some t => require (!s.me.readsTile u.q.val t) .selfPark (BitVec.ofNat 64 want)
    | none => .ok ()
    .ok (fill, see)
/-- FORWARD_WAIT of a `q.wait` (R298). -/
def Core.checkForward (x : Core) (u : EUnit) : Except Trap Unit :=
  match u.op with
  | .qwait m =>
    let v := u.p.p0.setWidth 32
    if seqReached (x.pseq m.val) v then .ok () else .error { cause := .forwardWait, info := v.setWidth 64 }
  | _ => .ok ()

/-- The push of a unit into a queue of the issuing core, a release at dom scope (R35, R226, R255, R257, R333). -/
def State.pushUnit (s : State) (u0 : EUnit) : Issue := do
  let x := s.me
  let room := awaits (decide (x.queues[u0.q].entries.length < queueDepth u0.q)) (.queue u0.q.val)
  let u ← alsoBlocked (x.ctl.resolveUnit u0) room
  orTrap (u.check (x.csr.mitl.setWidth 16))
  let refs ← s.checkRefs u
  orTrap (x.checkForward u)
  x.checkLost true .dom
  together (awaits x.accessReady .other) room
  let cmd := x.command u (x.capture x.ctl.kernel) s.cur s.nextId x.vec.era refs.1 refs.2
  let s1 := (match refs.2 with | some t => s.addSee t | none => s).release s.cur
  .ok (.go (s1.onMe fun y =>
    let z := if refs.1.isSome then y.putHandle u.h .null else y
    { (z.addEntry u.q (.cmd cmd)).numbered u.q with lastPush := z.lastPush.set u.q cmd.num }))
/-- The number of words of a unit, a follow-on's among them (R36). -/
def EUnit.length (u : EUnit) : Nat := (u.pieces.map fun x => if x.op.roles.isEmpty then 1 else 5).sum
/-- A word that pushes. -/
def push (s : State) (u : EUnit) : Out :=
  let r := s.pushUnit u
  .next ((s.reportLost r).settleCtl u.length r)

/-! ## The words -/

/-- A carter unit. -/
def carterUnit (e : CarterWord) (o : CarterOp) : EUnit :=
  { q := ⟨e.q.val, by omega⟩, op := .carter o, p := e.p, h := e.h, i := e.i, w := e.w, follow := e.follow }
/-- A mill unit. -/
def millUnit (e : MillWord) (m : MillCmd) : EUnit :=
  { q := millQ e.q, op := .mill m, p := e.p, h := 0, i := e.i, w := e.w, follow := none }
/-- A queue unit. -/
def queueUnit (e : QWord) (o : EOp) (p : Params) : EUnit :=
  { q := e.q, op := o, p := p, h := 0, i := e.i, w := e.w, follow := none }

/-- `c.copy` (R336). -/
def execCCopy (e : CarterWord) (s : State) : Out := push s (carterUnit e .copy)
/-- `c.gath` (R337). -/
def execCGath (e : CarterWord) (s : State) : Out := push s (carterUnit e (.gath false))
/-- `c.gath.z` (R337). -/
def execCGathZ (e : CarterWord) (s : State) : Out := push s (carterUnit e (.gath true))
/-- `c.scat` (R337). -/
def execCScat (e : CarterWord) (s : State) : Out := push s (carterUnit e .scat)
/-- `c.fill` (R338). -/
def execCFill (e : CarterWord) (b63 : Bool) (s : State) : Out := push s (carterUnit e (.fill b63))
/-- `c.put` (R340). -/
def execCPut (e : CarterWord) (s : State) : Out := push s (carterUnit e .put)
/-- `c.get` (R340). -/
def execCGet (e : CarterWord) (s : State) : Out := push s (carterUnit e .get)
/-- `c.pin` (R341). -/
def execCPin (e : CarterWord) (s : State) : Out := push s (carterUnit e (.pin false))
/-- `c.pin.off` (R341). -/
def execCPinOff (e : CarterWord) (s : State) : Out := push s (carterUnit e (.pin true))
/-- `c.red.add`, with the types of R261 as for the others (R339). -/
def execCRedAdd (e : CarterWord) (sz : Sz) (s : State) : Out := push s (carterUnit e (.red .add (szTy sz)))
/-- `c.red.and` (R339). -/
def execCRedAnd (e : CarterWord) (sz : Sz) (s : State) : Out := push s (carterUnit e (.red .and (szTy sz)))
/-- `c.red.or` (R339). -/
def execCRedOr (e : CarterWord) (sz : Sz) (s : State) : Out := push s (carterUnit e (.red .or (szTy sz)))
/-- `c.red.xor` (R339). -/
def execCRedXor (e : CarterWord) (sz : Sz) (s : State) : Out := push s (carterUnit e (.red .xor (szTy sz)))
/-- `c.red.min` (R339). -/
def execCRedMin (e : CarterWord) (sz : Sz) (s : State) : Out := push s (carterUnit e (.red .min (szTy sz)))
/-- `c.red.max` (R339). -/
def execCRedMax (e : CarterWord) (sz : Sz) (s : State) : Out := push s (carterUnit e (.red .max (szTy sz)))
/-- `c.red.minu` (R339). -/
def execCRedMinu (e : CarterWord) (sz : Sz) (s : State) : Out := push s (carterUnit e (.red .minu (szTy sz)))
/-- `c.red.maxu` (R339). -/
def execCRedMaxu (e : CarterWord) (sz : Sz) (s : State) : Out := push s (carterUnit e (.red .maxu (szTy sz)))
/-- `c.red.fadd` (R339). -/
def execCRedFadd (e : CarterWord) (sz : Sz) (s : State) : Out := push s (carterUnit e (.red .fadd (fpTy sz)))
/-- `c.red.fmin` (R339). -/
def execCRedFmin (e : CarterWord) (sz : Sz) (s : State) : Out := push s (carterUnit e (.red .fmin (fpTy sz)))
/-- `c.red.fmax` (R339). -/
def execCRedFmax (e : CarterWord) (sz : Sz) (s : State) : Out := push s (carterUnit e (.red .fmax (fpTy sz)))
/-- `c.red.bfadd` (R339). -/
def execCRedBfadd (e : CarterWord) (_sz : Sz) (s : State) : Out := push s (carterUnit e (.red .fadd .bf16))
/-- `c.red.bfmin` (R339). -/
def execCRedBfmin (e : CarterWord) (_sz : Sz) (s : State) : Out := push s (carterUnit e (.red .fmin .bf16))
/-- `c.red.bfmax` (R339). -/
def execCRedBfmax (e : CarterWord) (_sz : Sz) (s : State) : Out := push s (carterUnit e (.red .fmax .bf16))

/-- `m.lds` (R342). -/
def execMLds (e : MillWord) (plane : Fin 2) (fmt : Fmt) (s : State) : Out := push s (millUnit e (.lds plane fmt))
/-- `m.mm` (R344). -/
def execMMm (e : MillWord) (plane : Fin 2) (s : State) : Out := push s (millUnit e (.mm plane))
/-- `m.mmr` (R346). -/
def execMMmr (e : MillWord) (plane : Fin 2) (ring : Fin 16) (j : Fin 64) (t : Fin 128) (s : State) : Out :=
  push s (millUnit e (.mmr plane ring j t))
/-- `m.relax` (R347). -/
def execMRelax (e : MillWord) (plane : Fin 2) (bm1 : Fin 64) (nm1 : Fin 128) (s : State) : Out :=
  push s (millUnit e (.relax plane bm1 nm1))
/-- `m.relaxb` (R347). -/
def execMRelaxb (e : MillWord) (plane : Fin 2) (s : State) : Out := push s (millUnit e (.relaxb plane))
/-- `m.pwl` (R343). -/
def execMPwl (e : MillWord) (table : Fin 4) (s : State) : Out := push s (millUnit e (.pwl table))
/-- `m.chain` (R345). -/
def execMChain (e : MillWord) (plane : Fin 2) (lm1 : Fin 8) (s : State) : Out := push s (millUnit e (.chain plane lm1))

/-- `q.wait` (R348). -/
def execQWait (e : QWord) (m : Fin 6) (p : Params) (s : State) : Out := push s (queueUnit e (.qwait m) p)
/-- `q.fence` (R349). -/
def execQFence (e : QWord) (mask : BitVec 6) (s : State) : Out := push s (queueUnit e (.qfence mask) noParams)
/-- `q.sig` (R350). -/
def execQSig (e : QWord) (s : State) : Out := push s (queueUnit e .qsig noParams)

end Sys2Proof.Machine
end

