-- ==== Sys2Proof/Machine/Carter.lean ====
section
/-! DEFINITION. The carter: queues as they run (R292, R310), a chunk of each operation (R303 to R306, R336 to R341) and the
conditions of a converting copy (R305). -/
namespace Sys2Proof.Machine

/-! ## Queues as they run -/

/-- Queue `q` of a core. -/
def Core.equeue (x : Core) (q : Nat) : EQueue := x.queues.toList.getD q .reset
/-- Queue `q` of core `c` changed. -/
def State.modQueue (s : State) (c q : Nat) (f : EQueue → EQueue) : State :=
  s.modCore c fun x => { x with queues := x.queues.set! q (f (x.equeue q)) }
/-- The command at the head of a queue, of a chain the one that runs (R297). -/
def EQueue.headCmd (e : EQueue) : Option Cmd :=
  match e.entries with
  | [] => none
  | x :: _ => x.cmd?
/-- The running state of a command that starts. -/
def Run.fresh : Run :=
  { pos := 0, fmts := [], conv := none, claim := 0, flags := 0, nan := none, zue := false, halted := none, done := false, sent := 0, acked := 0, claims := 0
    share := none, indices := [], touched := [], members := [], report := 0, trace := 0, nonconv := false, rung := false, ended := false }
/-- A command that fails its checks before its first chunk has not started: it samples its formats again (R183, R334). -/
def Run.unstarted (r : Run) : Run := if r.pos = 0 then { r with fmts := [] } else r
/-- A queue with its head's running state set. -/
def State.setRun (s : State) (c q : Nat) (r : Run) : State := s.modQueue c q fun e => { e with run := some r }
/-- Do a core's engines run: not in a freeze (R199), nor on a core that is gated, stopped, or being saved (R377)? -/
def Core.engineRuns (x : Core) : Bool :=
  x.freeze == 0 && (match x.mode with | .gated | .stopped | .saving _ | .saved => false | _ => true)
/-- A command that has started, is not halted, and has work left. -/
def EQueue.working (e : EQueue) : Option (Cmd × Run) :=
  match e.headCmd, e.run with
  | some x, some r => if r.halted.isNone && !r.done then some (x, r) else none
  | _, _ => none

/-- The queue halts, and the fault goes to the issuer with chunk or row group `pos` (R310). -/
def State.haltQueue (s : State) (c q : Nat) (issuer : Nat) (num : BitVec 32) (r : Run) (pos : Nat) (t : Trap) : State :=
  (s.setRun c q { r with halted := some t }).modCore issuer fun x =>
    { x with events := { x.events with engine := x.events.engine ++ [{ core := c, q := q, num := num, c := pos, trap := t }] } }
/-- A command halts its queue. -/
def State.haltCmd (s : State) (c q : Nat) (x : Cmd) (r : Run) (pos : Nat) (t : Trap) : State :=
  s.haltQueue c q x.issuer x.num r pos t

/-! ## Bytes -/

/-- A byte that an engine moves, with its poison (R201). -/
abbrev Datum8 := Byte × Bool
/-- The bytes of runs read at an engine port; `feed` says that the vault feed of the core may perform the read (R193, R199). -/
def State.gatherBytes (s : State) (c : Nat) (feed : Bool) : List (Nat × Nat) → State × List Datum8
  | [] => (s, [])
  | (k, n) :: r =>
    let s1 := (s.countFrame k n).onRead c k (feed && vaultOwner (s.backing k) == some c)
    let bs := (upto n).map fun i => (s1.readByte (k + i), s1.poisoned (k + i) 1)
    let x := s1.gatherBytes c feed r
    (x.1, bs ++ x.2)
/-- Data cut along runs. -/
def splitRuns {α : Type} : List (Nat × Nat) → List α → List (Nat × List α)
  | [], _ => []
  | (k, n) :: r, d => (k, d.take n) :: splitRuns r (d.drop n)
/-- The granules of poisoned data poisoned where they are written, but for those that the runs written after it cover whole. -/
def State.spreadPoison (s : State) (later : List (Nat × List Datum8)) (k : Nat) : List Datum8 → State
  | [] => s
  | b :: r =>
    let hidden := (upto (granuleSize k)).all fun i => covers later (granuleOf k + i)
    (if b.2 && !hidden then s.poisonGranule k else s).spreadPoison later (k + 1) r
/-- The poison of runs of data, run after run. -/
def State.spreadRuns (s : State) : List (Nat × List Datum8) → State
  | [] => s
  | x :: r => (s.spreadPoison r x.1 x.2).spreadRuns r
/-- Data written along runs by an engine of core `c`, as one write in which a later run lies over an earlier one, poison with it
(R201, R304); frames are counted, and writes to the host range noted (R197, R241). -/
def State.putBytes (s : State) (c : Nat) (keys : List (Nat × Nat)) (d : List Datum8) : State :=
  let runs := splitRuns keys d
  let s1 := keys.foldl (fun s k => (s.countFrame k.1 k.2).noteHost c k.1) s
  (s1.writeRuns (runs.map fun x => (x.1, x.2.map (·.1)))).spreadRuns runs
/-- The key of byte `i` of a list of runs. -/
def keyAt : List (Nat × Nat) → Nat → Nat
  | [], _ => 0
  | (k, n) :: r, i => if i < n then k + i else keyAt r (i - n)
/-- The virtual address of the granule of a byte at an address; 0 where there is none (R201, R337). -/
def EAddr.granule (a : EAddr) (k : Nat) : Word :=
  match a with
  | .virt va => va - BitVec.ofNat 64 (k % granuleSize k)
  | _ => 0

/-! ## Chunks that do not convert -/

/-- How a chunk or row group ends: it cannot go now, it faults, or it has been performed. -/
inductive Work where
  | wait
  | fault (s : State) (t : Trap)
  | done (s : State) (r : Run)
  deriving DecidableEq, Repr

/-- Bytes that a carter operation moves (R304). -/
def Cmd.total (x : Cmd) (o : CarterOp) : Nat :=
  let h := Shape.of x.p.p2 x.p.p3
  match o with
  | .gath _ | .scat => h.c1 * h.len
  | _ => h.total
/-- Index `k` of a gather or scatter; a poisoned index word is UE (R337). -/
def State.indexWord (s : State) (c : Nat) (x : Cmd) (r : Run) (k : Nat) : State × Except Trap Nat :=
  match r.indices[k]? with
  | some i => (s, .ok i)
  | none =>
    let a := x.at3.add (8 * k)
    match s.pieceKey c x.cap.kernel .load a 8 with
    | (s1, .error t) => (s1, .error t)
    | (s1, .ok key) =>
      let s2 := (s1.countFrame key 8).onRead c key
      if s2.poisoned key 8 then (s2, .error { cause := .ue, info := a.granule key }) else (s2, .ok (s2.readWord key).toNat)
/-- Indices `k` and on. -/
def State.indexWords (s : State) (c : Nat) (x : Cmd) (r : Run) (k : Nat) : Nat → State × Except Trap (List Nat)
  | 0 => (s, .ok [])
  | n + 1 =>
    match s.indexWord c x r k with
    | (s1, .error t) => (s1, .error t)
    | (s1, .ok i) =>
      match s1.indexWords c x r (k + 1) n with
      | (s2, .error t) => (s2, .error t)
      | (s2, .ok l) => (s2, .ok (i :: l))
/-- The indexed pieces of bytes `lo` to `hi - 1` of rows of `len` bytes. -/
def rowPieces (a : EAddr) (len lo hi : Nat) (idx : List Nat) : List (EAddr × Nat) :=
  idx.zipIdx.map fun r =>
    let k := lo / len + r.2
    let p := maxN lo (k * len)
    let q := minN hi ((k + 1) * len)
    (a.add (r.1 * len + (p - k * len) : Nat), q - p)

/-- Where a chunk reads and writes (R304, R337, R338). -/
def State.chunkRuns (s : State) (c : Nat) (x : Cmd) (o : CarterOp) (r : Run) (lo hi : Nat) :
    State × Except Trap (List (EAddr × Nat) × List (EAddr × Nat)) :=
  let h := Shape.of x.p.p2 x.p.p3
  let spread (a : EAddr) : List (EAddr × Nat) := (h.segs lo hi).map fun p => (a.add p.1, p.2)
  let dense (a : EAddr) : List (EAddr × Nat) := [(a.add lo, hi - lo)]
  match o with
  | .fill _ => (s, .ok ([], spread x.at1))
  | .gath _ | .scat =>
    match s.indexWords c x r (lo / h.len) ((hi - 1) / h.len - lo / h.len + 1) with
    | (s1, .error t) => (s1, .error t)
    | (s1, .ok idx) =>
      (s1, .ok (if o == .scat then (dense x.at0, rowPieces x.at1 h.len lo hi idx)
        else (rowPieces x.at0 h.len lo hi idx, dense x.at1)))
  | .put | .pin _ => (s, .ok (spread x.at0, []))
  | .get => (s, .ok ([], dense x.at1))
  | .copy | .red _ _ => (s, .ok (spread x.at0, dense x.at1))

/-- The source bytes of `c.gath.z`: a poisoned 64-byte beat is zeros (R203). -/
def State.zeroBeats (s : State) (keys : List (Nat × Nat)) (d : List Datum8) : List Datum8 × Bool :=
  let runs := splitRuns keys d
  let l := runs.flatMap fun x => x.2.zipIdx.map fun b =>
    let beat := (x.1 + b.2) / 64 * 64
    (b.1, s.poisoned beat 64)
  (l.map fun b => if b.2 then (0, false) else b.1, l.any (·.2))
/-- The pattern byte of traversal byte `d` (R338). -/
def patternByte (b63 : Bool) (p0 : Word) (d : Nat) : Byte :=
  BitVec.ofNat 8 (((if b63 then 2 ^ 63 else 0) + p0.toNat % 2 ^ 63) / 2 ^ (8 * (d % 8)))
/-- The elements of a `c.red` applied one by one (R263, R339): each reads its destination, poison of the operand poisons the
destination, a poisoned destination is not changed. -/
def State.reduceBytes (s0 : State) (c issuer : Nat) (op : AmoOp) (t : Ty) (keys : List (Nat × Nat)) (i : Nat) :
    Nat → List Datum8 → State
  | 0, _ => s0
  | n + 1, d =>
    let k := keyAt keys i
    let s := (s0.countFrame k t.size).onRead c k
    let e := d.take t.size
    let s1 := if e.any (·.2) then s.poisonGranule k
      else if s.poisoned k t.size then s
      else
        let l := op.apply t (t.extend (s.readNat k t.size)) (BitVec.ofNat 64 (leNat (e.map (·.1))))
        ((s.writeNat k t.size (t.low l.v)).noteHost c k).memFlags issuer l.fl
    s1.reduceBytes c issuer op t keys (i + t.size) n (d.drop t.size)

/-- The frames of the automatic range that keys touch, by package and frame number in one number (R197, R341). -/
def autoFrames (keys : List (Nat × Nat)) : List Nat :=
  (keys.filter fun k => regionOf (k.1 % nodeSize) == .auto).map fun k => k.1 / 65536
/-- The pin count of a frame raised or lowered (R341). -/
def State.pinFrame (s : State) (off : Bool) (f : Nat) : State :=
  let n := f % 2 ^ 26
  s.modDie (f * 65536 / nodeSize) (n % 4) fun d =>
    let v := (d.pins.find n).getD 0
    { d with pins := d.pins.put n (if off then (if v = 0 then 0 else v - 1) else if v = 0xFFFF then v else v + 1) }

/-- A chunk that moves bytes here (R304, R306, R335). -/
def State.moveChunk (s : State) (c : Nat) (x : Cmd) (o : CarterOp) (r : Run) (lo hi : Nat) : Work :=
  match s.chunkRuns c x o r lo hi with
  | (s1, .error t) => .fault s1 t
  | (s1, .ok (src, dst)) =>
    match s1.resolveRuns c x.cap.kernel .load src with
    | (s2, .error t) => .fault s2 t
    | (s2, .ok sk) =>
      match s2.resolveRuns c x.cap.kernel (match o with | .red _ _ => .both | _ => .store) dst with
      | (s3, .error t) => .fault s3 t
      | (s3, .ok dk) =>
        if (dk.any fun k => s3.writeHeld k.1) || !(sk ++ dk).all fun k => s3.mayGo c k.1 then .wait
        else
          let d := s3.gatherBytes c false sk
          match o with
          | .gath true =>
            let z := d.1.zeroBeats sk d.2
            .done (d.1.putBytes c dk z.1) { r with zue := r.zue || z.2 }
          | .fill b63 => .done (d.1.putBytes c dk ((upto (hi - lo)).map fun i => (patternByte b63 x.p.p0 (lo + i), false))) r
          | .red op t => .done (d.1.reduceBytes c x.issuer op t dk 0 ((hi - lo) / t.size) d.2) r
          | .pin off =>
            let fs := (autoFrames sk).eraseDups.filter fun f => !r.touched.contains f
            .done (fs.foldl (fun s f => s.pinFrame off f) s3) { r with touched := r.touched ++ fs }
          | _ => .done (d.1.putBytes c dk d.2) r

/-! ## Converting copies -/

/-- Is the bank that holds a key formatted, as the command sampled it (R184)? -/
def State.formatted (s : State) (r : Run) (k : Nat) : Bool := (BankFmt.of (r.fmtAt s k)).fmt != .raw
/-- Does a copy convert: do the first byte of its source and that of its destination lie in formatted banks (R305)? -/
def State.converts (s : State) (c : Nat) (x : Cmd) (r : Run) : Bool :=
  match (s.pieceKey c x.cap.kernel .load x.at0 1).2, (s.pieceKey c x.cap.kernel .store x.at1 1).2 with
  | .ok a, .ok b => s.formatted r a && s.formatted r b
  | _, _ => false
/-- The formats of the banks that keys touch sampled, each at its first access (R183). -/
def Run.sample (r : Run) (s : State) (keys : List Nat) : Run :=
  { r with fmts := (keys.filterMap bankOfKey).foldl (fun t b =>
      let n := b.1 * 16 + b.2
      if (Tab.find t n).isSome then t else Tab.put t n (s.bankWord b.1 b.2)) r.fmts }

/-- Elements in a bank: the key of the bank, its layout, the first element, how many, and the key of the first byte. -/
structure BankRun where
  kb : Nat
  l : Layout
  first : Nat
  cnt : Nat
  k : Nat
  deriving DecidableEq, Repr
/-- A run of `len` bytes at a key as elements of its bank; none where a condition of R305 fails. -/
def State.bankRun (s : State) (r : Run) (k len : Nat) : Option BankRun :=
  match bankOfKey k with
  | none => none
  | some (h, b) =>
    let f := BankFmt.of (r.fmtAt s k)
    let l := f.layout .u8
    let o := spadOff k % bankSize
    let x : BankRun := { kb := bankKey h b, l := l, first := l.first o, cnt := len / l.size * l.per, k := k }
    if f.fmt = .raw ∨ o % l.size ≠ 0 ∨ len % l.size ≠ 0 ∨ x.cnt = 0 then none
    else if (l.outside (x.first + x.cnt - 1)).isSome then none else some x
/-- PARAM at the source or the destination of a copy. -/
def copyParam (a : EAddr) : Trap := { cause := .param, info := a.info }

/-- Is a resolved run one run of keys? -/
def contiguous : List (Nat × Nat) → Bool
  | a :: b :: r => a.1 + a.2 == b.1 && contiguous (b :: r)
  | _ => true
/-- The layout of the bank that a run of `len` bytes lies in, for its rest from a key on, `byte` bytes in; none where a condition of
R305 fails: a formatted bank, an element boundary, whole elements, all of them in the bank. -/
def State.runLayout (s : State) (r : Run) (k byte len : Nat) : Option Layout :=
  match s.bankRun r k (len - byte) with
  | some b => if len % b.l.size = 0 then some b.l else none
  | none => none
/-- The next elements of the source of a converting copy, `need` of them or as many as are left: where they stand, and how far the
copy has come then. Only the bytes of these elements are resolved, and a run goes on in the bank in which it began (R305, R306,
R310). -/
def State.sourcePart (s : State) (c : Nat) (x : Cmd) (r : Run) : Nat → Nat → Conv → State × Except Trap (Run × List BankRun × Conv)
  | 0, _, v => (s, .ok (r, [], v))
  | fuel + 1, need, v =>
    let h := Shape.of x.p.p2 x.p.p3
    if need = 0 ∨ h.runs ≤ v.run then (s, .ok (r, [], v))
    else
      let a := x.at0.add (h.off v.run + (v.byte : Int))
      match s.pieceKey c x.cap.kernel .load a 1 with
      | (s1, .error t) => (s1, .error t)
      | (s1, .ok k) =>
        let r1 := r.sample s1 [k]
        let bad : Except Trap (Run × List BankRun × Conv) := .error (copyParam (x.at0.add (h.off v.run)))
        let first := v.byte = 0 ∧ v.skip = 0
        match if first ∨ k = v.key + v.byte then s1.runLayout r1 k v.byte h.len else none with
        | none => (s1, bad)
        | some l =>
          let take := minN need ((h.len - v.byte) / l.size * l.per - v.skip)
          let used := v.skip + take
          match s1.resolveRuns c x.cap.kernel .load [(a, (used + l.per - 1) / l.per * l.size)] with
          | (s2, .error t) => (s2, .error t)
          | (s2, .ok keys) =>
            if !contiguous keys then (s2, bad)
            else
              let o := spadOff k % bankSize
              let b : BankRun := { kb := k - o, l := l, first := l.first o + v.skip, cnt := take, k := k }
              let byte := v.byte + used / l.per * l.size
              let w : Conv := if h.len ≤ byte then { v with run := v.run + 1, byte := 0, skip := 0 }
                else { v with byte := byte, skip := used % l.per, key := if first then k else v.key }
              match s2.sourcePart c x r1 fuel (need - take) w with
              | (s3, .error t) => (s3, .error t)
              | (s3, .ok (r2, l2, w2)) => (s3, .ok (r2, b :: l2, w2))
/-- The elements of runs, one by one: the key of the bank, the layout and the number. -/
def elementsOf (l : List BankRun) : List (Nat × Layout × Nat) :=
  l.flatMap fun b => (upto b.cnt).map fun i => (b.kb, b.l, b.first + i)

/-- An element decoded exactly: one of a block as F64, which holds every value of a block element, any other as it stands (R305). -/
def State.exactItem (s : State) (e : Nat × Layout × Nat) (n : Nat) : Item :=
  if e.2.1.isBlock then
    { pos := 0, n := n, ty := .f64, v := (convert .f64 .f64 .rne false 0 (s.elemValue e.1 e.2.1 e.2.2)).v }
  else { pos := 0, n := n, ty := e.2.1.ty, v := e.2.1.ty.extend (s.elemBits e.1 e.2.1 e.2.2) }
/-- The start of the destination of a converting copy. -/
def State.destBank (s : State) (r : Run) (k : Nat) : Option BankRun :=
  match bankOfKey k with
  | none => none
  | some (h, b) =>
    let l := (BankFmt.of (r.fmtAt s k)).layout .u8
    let o := spadOff k % bankSize
    if o % l.size ≠ 0 then none else some { kb := bankKey h b, l := l, first := l.first o, cnt := 0, k := k }

/-- Chunk `r.pos` of a converting copy: the destination units whose first byte lies in it, encoded from the next elements of the
source (R305, R306). The destination must stand in its bank where element n0 + j does. -/
def State.convertChunk (s : State) (c : Nat) (x : Cmd) (r0 : Run) : Work :=
  let h := Shape.of x.p.p2 x.p.p3
  let start : State × Except Trap Nat := match r0.conv with
    | some v => (s, .ok v.dst)
    | none => s.pieceKey c x.cap.kernel .store x.at1 1
  match start with
  | (s1, .error t) => .fault s1 t
  | (s1, .ok kd) =>
    let r := r0.sample s1 [kd]
    match s1.destBank r kd with
    | none => .fault s1 (copyParam x.at1)
    | some d =>
      let u0 := (chunkSize * r.pos + d.l.size - 1) / d.l.size
      let u1 := (chunkSize * (r.pos + 1) + d.l.size - 1) / d.l.size
      let need := (u1 - u0) * d.l.per
      match s1.sourcePart c x r need need (r0.conv.getD { run := 0, byte := 0, skip := 0, key := 0, dst := kd }) with
      | (s2, .error t) => .fault s2 t
      | (s2, .ok (r1, runs, v)) =>
        let mine := elementsOf runs
        let bytes := mine.length / d.l.per * d.l.size
        let n0 := d.first + u0 * d.l.per
        if mine.length % d.l.per ≠ 0 ∨ (mine ≠ [] ∧ (d.l.outside (n0 + mine.length - 1)).isSome) then
          .fault s2 (copyParam x.at1)
        else match s2.resolveRuns c x.cap.kernel .store [(x.at1.add (u0 * d.l.size : Nat), bytes)] with
          | (s3, .error t) => .fault s3 t
          | (s3, .ok dk) =>
            if !(dk.all fun k => s3.mayGo c k.1) || !(runs.all fun e => s3.mayGo c e.k) then .wait
            else if !(contiguous dk && (dk.head?.map (·.1)).getD (kd + u0 * d.l.size) == kd + u0 * d.l.size) then
              .fault s3 (copyParam x.at1)
            else if s3.inFrames d.kb ((upto (mine.length / d.l.per)).flatMap fun i => d.l.runs (n0 + i * d.l.per)) then
              .fault s3 { cause := .perm, info := x.at1.info }
            else
              let s4 := (runs.map fun b => b.kb + (b.l.payload b.first).1).foldl (fun s k => s.onRead c k) s3
              let items := mine.zipIdx.map fun e => (s4.exactItem e.1 (n0 + e.2), s4.elemPoisoned e.1.1 e.1.2.1 e.1.2.2)
              let enc := s4.encodeBank false d.kb d.l (items.map (·.1))
              let bad := (items.filter (·.2)).flatMap fun i => (d.l.runs i.1.n).map fun p => (d.kb + p.1, p.2)
              let s5 := bad.foldl (fun s p => s.poisonRun p.1 p.2) (s4.writeEnc enc)
              .done s5 { r1 with conv := some v, flags := r1.flags ||| enc.flags, done := decide (h.runs ≤ v.run) }

/-- The keys of pieces up to the first that does not resolve. -/
def State.keysUpTo (s : State) (c : Nat) (kernel : Bool) (need : Need) : List (EAddr × Nat) → List (Nat × Nat)
  | [] => []
  | (a, n) :: r => match (s.pieceKey c kernel need a n).2 with
    | .ok k => (k, n) :: s.keysUpTo c kernel need r
    | .error _ => []
/-- The runs of a converting copy that lie in banks of the executing core, checked at start, with the elements of all runs
where they all do; the first failure (R305). -/
def State.ownRuns (s : State) (c : Nat) (x : Cmd) (r : Run) : List Nat → Except Trap (Option Nat)
  | [] => .ok (some 0)
  | i :: rest => do
    let h := Shape.of x.p.p2 x.p.p3
    let a := x.at0.add (h.off i)
    let own ← match s.keysUpTo c x.cap.kernel .load (a.pieces h.len) with
      | (k, n) :: more =>
        if spadOwner k = some c then
          match if contiguous ((k, n) :: more) then s.bankRun r k h.len else none with
          | some b => .ok (some b.cnt)
          | none => .error (copyParam a)
        else .ok none
      | [] => .ok none
    let l ← s.ownRuns c x r rest
    .ok (match own, l with | some a, some b => some (a + b) | _, _ => none)
/-- The conditions of R305 that the executing core's own banks decide, at start. -/
def State.checkCopy (s : State) (c : Nat) (x : Cmd) (r : Run) : Except Trap Unit :=
  if !s.converts c x r then .ok ()
  else do
    let h := Shape.of x.p.p2 x.p.p3
    let n ← s.ownRuns c x r (upto h.runs)
    match (s.pieceKey c x.cap.kernel .store x.at1 1).2 with
    | .ok k =>
      if spadOwner k = some c then
        match s.destBank r k, n with
        | none, _ => .error (copyParam x.at1)
        | some d, some n =>
          let keys := s.keysUpTo c x.cap.kernel .store (x.at1.pieces (n / d.l.per * d.l.size))
          if n % d.l.per ≠ 0 ∨ (d.l.outside (d.first + n - 1)).isSome ∨ !contiguous keys then .error (copyParam x.at1) else .ok ()
        | some _, none => .ok ()
      else .ok ()
    | .error _ => .ok ()

/-! ## A chunk of a queue -/

/-- Has the traffic of a core to the IOD of its package ring slots (R384)? -/
def State.toFabric (s : State) (c : Nat) : Bool := s.ringWay (pkgOf c) (s.funcOf c) (dieOf c) 4
/-- A chunk of `c.put` or `c.get` sent to the package that the remote word names (R340), once its traffic may cross the ring (R384). -/
def State.sendChunk (s : State) (c : Nat) (q : Fin 4) (x : Cmd) (o : CarterOp) (r : Run) (lo hi : Nat) (last : Bool) : Work :=
  let put := o == .put
  let send (s : State) (d : List Datum8) : Work :=
    let rem_ := remoteOf (if put then x.p.p1 else x.p.p0)
    let bad := (upto d.length).filter fun i => (d.getD i (0, false)).2
    let chunk : Chunk :=
      { seq := s.nextId, src := c, q := q, target := rem_.1, put := put, offset := rem_.2, bytes := d.map (·.1), bad := bad, dst := lo
        c := r.pos, last := last, resends := 0, performed := false }
    .done { s with chunks := s.chunks ++ [chunk], nextId := s.nextId + 1 }
      { r with sent := r.sent + 1 }
  if put then
    match s.chunkRuns c x o r lo hi with
    | (s1, .error t) => .fault s1 t
    | (s1, .ok (src, _)) =>
      match s1.resolveRuns c x.cap.kernel .load src with
      | (s2, .error t) => .fault s2 t
      | (s2, .ok sk) =>
        if !s2.toFabric c || !(sk.all fun k => s2.mayGo c k.1) then .wait
        else let d := s2.gatherBytes c false sk; send d.1 d.2
  else if s.toFabric c then send s [] else .wait

/-- Do the reads of a command of core `c` park: is the tile that it reads FILLING (R226), unless they raise SELF_PARK (R213) or its home
cannot be reached (R391)? -/
def State.parks (s : State) (c : Nat) (x : Cmd) : Bool :=
  match x.hsee with
  | some t => s.live t && (s.tileOf t).st == .filling && s.reaches c t.core && !(s.core c).holdsFill t
  | none => false
/-- The formats of the banks at some addresses sampled where they are first met (R183). -/
def State.sampleAt (s : State) (c : Nat) (x : Cmd) (r : Run) (l : List EAddr) : Run :=
  r.sample s (l.filterMap fun a => match (s.pieceKey c x.cap.kernel .load a 1).2 with | .ok k => some k | .error _ => none)
/-- The next chunk of a started carter command (R306). Whether a copy converts is decided as its first chunk samples the formats
(R183, R305). -/
def State.nextChunk (s : State) (c : Nat) (q : Fin 4) (x : Cmd) (o : CarterOp) (r : Run) : Work :=
  let total := x.total o
  let lo := chunkSize * r.pos
  let hi := minN total (lo + chunkSize)
  if s.parks c x then .wait
  else match o with
    | .put | .get => if r.sent ≠ r.pos then .wait else s.sendChunk c q x o r lo hi (decide (total ≤ hi))
    | _ =>
      let r := if o == .copy then s.sampleAt c x r [x.at0, x.at1] else r
      if o == .copy && (r.conv.isSome || (r.pos == 0 && s.converts c x r)) then
        match s.convertChunk c x r with
        | .done s1 r1 => .done s1 { r1 with pos := r.pos + 1 }
        | w => w
      else if total ≤ lo then .wait
      else match s.moveChunk c x o r lo hi with
        | .done s1 r1 =>
          let pin := match o with | .pin _ => true | _ => false
          .done s1 { r1 with pos := r.pos + 1, done := decide (total ≤ hi) && !pin }
        | w => w

/-- The work that carter queue `q` of a core could do now. -/
def State.chunkOf (s : State) (c : Nat) (q : Fin 4) : Option (Cmd × Run × Work) :=
  match ((s.core c).equeue q.val).working with
  | some (x, r) => match x.op with
    | .carter o => match s.nextChunk c q x o r with
      | .wait => none
      | w => some (x, r, w)
    | _ => none
  | none => none
/-- The carter queue that is served next: the first runnable one after the one it last served (R306). -/
def State.servedNext (s : State) (c : Nat) : Option (Fin 4) :=
  let last := (s.core c).rr
  [last + 1, last + 2, last + 3, last].find? fun q => (s.chunkOf c q).isSome

/-- CARTER_CHUNK: the carter performs the next chunk of a queue (R306, R310). -/
def execCarterChunk (c : Nat) (q : Fin 4) (s : State) : Out :=
  .next (if !(s.core c).engineRuns || s.servedNext c != some q then s
    else match s.chunkOf c q with
      | some (x, r, .fault s1 t) => (s1.haltCmd c q.val x r r.pos t).modCore c fun y => { y with rr := q }
      | some (_, _, .done s1 r1) => (s1.setRun c q.val r1).modCore c fun y => { y with rr := q }
      | _ => s)

/-- Is a swap of one of some frames in progress (R198, R341)? -/
def State.swapOf (s : State) (frames : List Nat) : Bool :=
  frames.any fun f => s.writeHeld (f * 65536)
/-- SWAP_FRAME_PIN_SETTLE: a pin whose traversal is done has all its work done once no swap of its frames goes on (R341). -/
def execSwapFramePinSettle (c : Nat) (q : Fin 4) (s : State) : Out :=
  .next (match ((s.core c).equeue q.val).working with
    | some (x, r) => match x.op with
      | .carter (.pin o) =>
        if x.total (.pin o) ≤ chunkSize * r.pos && !s.swapOf r.touched then s.setRun c q.val { r with done := true } else s
      | _ => s
    | none => s)

end Sys2Proof.Machine
end

