-- ==== Sys2Proof/Machine/Csr.lean ====
section
/-! DEFINITION. The control and status registers: which there are, what each field takes from a write, and the four CSR words
(R4, R52, R53, R77; the fields of R54, R55, R115, R176, R182, R191, R200, R204, R205, R254, R293, R318, R365, R366). -/
namespace Sys2Proof.Machine

/-- The plain CSRs by number; the numbered families, CORE and MEMFLAGS stand apart (R53). -/
def Csrs.get (r : Csrs) (n : Nat) : Option Word :=
  match n with
  | 0x001 => some r.fsr
  | 0x002 => some r.uvec
  | 0x003 => some r.uframe
  | 0x004 => some r.ucause
  | 0x005 => some r.uinfo
  | 0x006 => some r.uie
  | 0x030 => some r.mtol
  | 0x031 => some r.mitl
  | 0x032 => some r.momega
  | 0x033 => some r.macc
  | 0x034 => some r.mnorm
  | 0x035 => some r.mclamp
  | 0x036 => some r.mpwl
  | 0x037 => some r.mctl
  | 0x040 => some r.det
  | 0x400 => some r.cycle
  | 0x402 => some r.rank
  | 0x403 => some r.ncores
  | 0x420 => some r.mres
  | 0x421 => some r.miter
  | 0x422 => some r.mhist
  | 0x430 => some r.uezcount
  | 0x431 => some r.eccfreeze
  | 0x432 => some r.euse
  | 0x800 => some r.kvec
  | 0x801 => some r.kframe
  | 0x802 => some r.kcause
  | 0x803 => some r.kinfo
  | 0x804 => some r.udeleg
  | 0x805 => some r.ptbase
  | 0x806 => some r.ctxid
  | 0x807 => some r.preempt
  | 0x808 => some r.tenant
  | 0x810 => some r.errinj
  | _ => none
/-- A plain CSR set whole. -/
def Csrs.put (r : Csrs) (n : Nat) (v : Word) : Csrs :=
  match n with
  | 0x001 => { r with fsr := v }
  | 0x002 => { r with uvec := v }
  | 0x003 => { r with uframe := v }
  | 0x004 => { r with ucause := v }
  | 0x005 => { r with uinfo := v }
  | 0x006 => { r with uie := v }
  | 0x030 => { r with mtol := v }
  | 0x031 => { r with mitl := v }
  | 0x032 => { r with momega := v }
  | 0x033 => { r with macc := v }
  | 0x034 => { r with mnorm := v }
  | 0x035 => { r with mclamp := v }
  | 0x036 => { r with mpwl := v }
  | 0x037 => { r with mctl := v }
  | 0x040 => { r with det := v }
  | 0x800 => { r with kvec := v }
  | 0x801 => { r with kframe := v }
  | 0x802 => { r with kcause := v }
  | 0x803 => { r with kinfo := v }
  | 0x804 => { r with udeleg := v }
  | 0x805 => { r with ptbase := v }
  | 0x806 => { r with ctxid := v }
  | 0x807 => { r with preempt := v }
  | 0x808 => { r with tenant := v }
  | 0x810 => { r with errinj := v }
  | _ => r

/-- A register of a numbered family (R53): BANKFMT, PACE, SEQ, PSEQ. -/
def Csrs.family (r : Csrs) (n : Nat) : Option Word :=
  if 0x010 ≤ n ∧ n ≤ 0x01F then r.bankfmt.toList[n - 0x010]?
  else if 0x020 ≤ n ∧ n ≤ 0x025 then r.pace.toList[n - 0x020]?
  else if 0x410 ≤ n ∧ n ≤ 0x415 then (r.seq.toList[n - 0x410]?).map (·.setWidth 64)
  else if 0x418 ≤ n ∧ n ≤ 0x41D then (r.pseq.toList[n - 0x418]?).map (·.setWidth 64)
  else none

/-- The value of a CSR of a core; none for a number that is not assigned (R53, R54, R254). -/
def State.csrGet (s : State) (c n : Nat) : Option Word :=
  let r := (s.core c).csr
  if n = 0x401 then some (s.coreCsr c)
  else if n = 0x809 then
    some (match s.partOfCore c with | some k => (s.part k).memflags.setWidth 64 | none => 0)
  else match r.family n with
    | some v => some v
    | none => r.get n

/-- The RW bits of a CSR (R4, R53). -/
def rwMask (n : Nat) : Word :=
  match n with
  | 0x001 => 0x8F1F
  | 0x002 => 0x1FFFFFFFFFFFFF8
  | 0x003 => 0x1FFFC0
  | 0x004 => 0xE0FF
  | 0x005 => 0xFFFFFFFFFFFFFFFF
  | 0x006 => 0xF1
  | 0x030 => 0xFFFFFFFF
  | 0x031 => 0xFFFF
  | 0x032 => 0xFFFFFFFF
  | 0x033 => 0x1
  | 0x034 => 0x1
  | 0x035 => 0xFFFFFFFFFFFFFFFF
  | 0x036 => 0x3
  | 0x037 => 0xB3
  | 0x040 => 0x1
  | 0x800 => 0x1FFFFFFFFFFFFF8
  | 0x801 => 0x1FFFC0
  | 0x802 => 0xE0FF
  | 0x803 => 0xFFFFFFFFFFFFFFFF
  | 0x804 => 0x9FFFFFB
  | 0x805 => 0xFFFFFFFFFF0000
  | 0x806 => 0xFFFF
  | 0x807 => 0x1
  | 0x808 => 0xFFFF3F00
  | 0x810 => 0x3F
  | _ => if 0x010 ≤ n ∧ n ≤ 0x01F then 0xFFFFFF else if 0x020 ≤ n ∧ n ≤ 0x025 then 0xFFFF else 0
/-- The W1C bits of a CSR: UIE.PEND and MEMFLAGS (R254, R366). -/
def w1cMask (n : Nat) : Word := if n = 0x006 then 0xF_0000_0000 else if n = 0x809 then 0x1F else 0

/-- A field of a new value kept from the old one. -/
def keepField (old new mask : Word) : Word := (new &&& ~~~mask) ||| (old &&& mask)
/-- Fields that a write would leave at a value that they cannot hold stay as they were (R115, R182, R205). -/
def legalize (n : Nat) (old new : Word) : Word :=
  if n = 0x001 then (if 5 ≤ new.toNat / 256 % 8 then keepField old new 0x700 else new)
  else if 0x010 ≤ n ∧ n ≤ 0x01F then
    let v := if 13 ≤ new.toNat % 16 then keepField old new 0xF else new
    if 5 ≤ new.toNat / 16 % 8 then keepField old v 0x70 else v
  else if n = 0x810 then (if 4 ≤ new.toNat / 8 % 8 ∨ 2 ≤ new.toNat / 2 % 4 then old &&& 0x3E else new)
  else new

/-- What a write does to a CSR: RW fields take `rw`, W1C bits set in `w1` are cleared (R52). -/
def csrValue (n : Nat) (old rw w1 : Word) : Word :=
  let v := (old &&& ~~~(rwMask n)) ||| (rw &&& rwMask n)
  legalize n old (v &&& ~~~(w1 &&& w1cMask n))

/-- A write of PREEMPT that clears REQ leaves no watchdog of the request behind (R176, R178). -/
def Core.withdrawn (x : Core) (new : Word) : Core :=
  if x.req && !bitOf new 0 then { x with elapsed := false, events := { x.events with watchdog := false } } else x
/-- Clearing PREEMPT.REQ before DRAINED is set takes ELAPSED back to 0 (R176); clearing it after that leaves DRAINED at 1 and lets the
core pop again (DESIGN CHOICE, entry 114). -/
def preemptValue (old new : Word) : Word :=
  if bitOf old 0 && !bitOf new 0 && !bitOf old 1 then new &&& 0b111 else new

/-- A CSR of a core set to a value that its rules allow. -/
def State.csrPut (s : State) (c n : Nat) (v : Word) : State :=
  if n = 0x809 then match s.partOfCore c with
    | some k => s.modPart k fun p => { p with memflags := v.setWidth 5 }
    | none => s
  else if n = 0x807 then s.modCore c fun x =>
    Core.drain ((x.withdrawn v).withCsr fun r => { r with preempt := preemptValue r.preempt v })
  else s.modCore c fun x => x.withCsr fun r =>
    if 0x010 ≤ n ∧ n ≤ 0x01F then { r with bankfmt := r.bankfmt.set! (n - 0x010) v }
    else if 0x020 ≤ n ∧ n ≤ 0x025 then { r with pace := r.pace.set! (n - 0x020) v }
    else r.put n v

/-- Whether a CSR word may access a number, in the order of R52: PRIV, an unassigned number, a read-only one. -/
def State.csrCheck (s : State) (n : Nat) (writes : Bool) : Except Stop Word := do
  let x := s.me
  require (!(decide (0x800 ≤ n) && !x.ctl.kernel)) .priv x.ctl.offered
  match s.csrGet s.cur n with
  | none => trapOf .illegal x.ctl.offered
  | some v => do
    require (!(writes && decide (0x400 ≤ n ∧ n < 0x800))) .illegal x.ctl.offered
    .ok v

/-- `csrr`: d := CSR (R77). -/
def execCsrr (d : Fin 32) (n : BitVec 12) (s : State) : Out :=
  ctl s do
    let v ← s.csrCheck n.toNat false
    .ok (.go (s.onMe fun x => x.putReg d v 1))

/-- The bits of a CSR that hardware has merged in this cycle: a CSR word acts first, so they stand after its write (R117, R254). -/
def Core.merged (x : Core) (n : Nat) : Word :=
  if n = 0x001 then x.landed else if n = 0x809 then x.landedMem.setWidth 64 else 0
/-- The value of a CSR before the bits that hardware has merged into it in this cycle (R117). -/
def Core.unmerged (x : Core) (n : Nat) (v : Word) : Word := if n = 0x001 then v &&& ~~~x.fresh else v
/-- A word that writes a CSR and returns the old value where it has a destination; the write, with the read of the old value, comes
before the merges of its cycle and of flags that a popped entry carries (R52, R77, R117). -/
def State.csrWord (s : State) (d : Option (Fin 32)) (n : BitVec 12) (a : Src) (rw w1 : Word → Word → Word) : Out :=
  ctl s do
    let now ← s.csrCheck n.toNat true
    let old := s.me.unmerged n.toNat now
    let r ← s.me.src1 a
    let t := s.csrPut s.cur n.toNat (csrValue n.toNat old (rw old r.1) (w1 old r.1) ||| s.me.merged n.toNat)
    .ok (.go (t.onMe fun x =>
      let y := x.commitPops [a]
      match d with | some d => y.putReg d old 1 | none => y))

/-- `csrw`: CSR := a (R77). -/
def execCsrw (n : BitVec 12) (a : Src) (s : State) : Out := s.csrWord none n a (fun _ v => v) fun _ v => v
/-- `csrs`: sets RW bits, clears the sticky bits named (R52, R77). -/
def execCsrs (d : Fin 32) (n : BitVec 12) (a : Src) (s : State) : Out :=
  s.csrWord (some d) n a (fun old v => old ||| v) fun _ v => v
/-- `csrc`: clears RW bits, no sticky bit (R52, R77). -/
def execCsrc (d : Fin 32) (n : BitVec 12) (a : Src) (s : State) : Out :=
  s.csrWord (some d) n a (fun old v => old &&& ~~~v) fun _ _ => 0

end Sys2Proof.Machine
end

