-- ==== Sys2Proof/Machine/VArith.lean ====
section
/-! DEFINITION. The arithmetic, fused, logic, comparison, classification, conversion and selection words of the vector
stream (R130 to R140). -/
namespace Sys2Proof.Machine

/-- An arithmetic word: 2 cycles for integers, 4 for floats (R131). -/
def State.vArith (s : State) (o : Vvv) (b : Bin) : Out :=
  let x := s.me
  vec s (s.lanewise o.d [o.a, o.b] o.k o.ty (if o.ty.isInt then 2 else 4) fun i =>
    laneBin b o.ty x.rm (x.vec.lane o.a i) (x.vec.lane o.b i))
/-- A word of two sources with a fixed latency of 2. -/
def State.vTwo (s : State) (o : Vvv) (f : Word → Word → Lane) : Out :=
  let x := s.me
  vec s (s.lanewise o.d [o.a, o.b] o.k o.ty 2 fun i => f (x.vec.lane o.a i) (x.vec.lane o.b i))
/-- A word of one source. -/
def State.vOne (s : State) (o : Vv) (lat : Nat) (f : Nat → Word → Lane) : Out :=
  let x := s.me
  vec s (s.lanewise o.d [o.a] o.k o.ty lat fun i => f i (x.vec.lane o.a i))
/-- A word on the divider: its repeat interval of 8, and 30 cycles for f64, 18 otherwise (R89, R91, R131). -/
def State.divider (s : State) (d : Fin 32) (srcs : List (Fin 32)) (k : Fin 8) (ty : Ty) (f : Nat → Lane) : Issue := do
  let x := s.me
  let m := x.vec.mask k
  x.checkLent (d :: srcs)
  x.checkRepeat x.vec.divAt 8 0
  x.checkUes m srcs
  let y := x.withVec fun v => { v with divAt := some v.now }
  .ok (.go (s.setCore s.cur (y.putV d (if ty = .f64 then 30 else 18) ty m f)))

/-- `vadd` (R131). -/
def execVadd (o : Vvv) (s : State) : Out := s.vArith o .add
/-- `vsub` (R131). -/
def execVsub (o : Vvv) (s : State) : Out := s.vArith o .sub
/-- `vmul` (R131). -/
def execVmul (o : Vvv) (s : State) : Out := s.vArith o .mul
/-- `vmin` (R132, R133). -/
def execVmin (o : Vvv) (s : State) : Out := s.vTwo o (laneMin false o.ty)
/-- `vmax` (R132, R133). -/
def execVmax (o : Vvv) (s : State) : Out := s.vTwo o (laneMin true o.ty)
/-- `vabs` (R132, R133). -/
def execVabs (o : Vv) (s : State) : Out := s.vOne o 2 fun _ a => laneAbs o.ty a
/-- `vneg` (R132, R133). -/
def execVneg (o : Vv) (s : State) : Out := s.vOne o 2 fun _ a => laneNeg o.ty a
/-- `vdiv` (R131, R133). -/
def execVdiv (o : Vvv) (s : State) : Out :=
  let x := s.me
  vec s (s.divider o.d [o.a, o.b] o.k o.ty fun i => laneBin .div o.ty x.rm (x.vec.lane o.a i) (x.vec.lane o.b i))
/-- `vsqrt` (R131, R133). -/
def execVsqrt (o : Vv) (s : State) : Out :=
  let x := s.me
  vec s (s.divider o.d [o.a] o.k o.ty fun i => laneSqrt o.ty x.rm (x.vec.lane o.a i))
/-- `vcsgn` (R133). -/
def execVcsgn (o : Vvv) (s : State) : Out := s.vTwo o (laneCsgn o.ty)

/-- A fused word: one rounding, latency 4 (R134). -/
def State.vFused (s : State) (o : Vvvv) (negP negC : Bool) : Out :=
  let x := s.me
  vec s (s.lanewise o.d [o.a, o.b, o.c] o.k o.ty 4 fun i =>
    laneFma o.ty x.rm negP negC (x.vec.lane o.a i) (x.vec.lane o.b i) (x.vec.lane o.c i))
/-- `vfma`: a × b + c (R134). -/
def execVfma (o : Vvvv) (s : State) : Out := s.vFused o false false
/-- `vfms`: a × b − c (R134). -/
def execVfms (o : Vvvv) (s : State) : Out := s.vFused o false true
/-- `vfnma`: −(a × b) + c (R134). -/
def execVfnma (o : Vvvv) (s : State) : Out := s.vFused o true false
/-- `vfnms`: −(a × b) − c (R134). -/
def execVfnms (o : Vvvv) (s : State) : Out := s.vFused o true true

/-- A logic word; the amount of a shift is bits [7:0] of the b element (R135). -/
def State.vLogic (s : State) (o : Vvv) (l : Logic) : Out := s.vTwo o fun a b => laneLogic l o.ty a b (b.toNat % 256)
/-- A shift by an immediate amount (R135). -/
def State.vShift (s : State) (o : Vvi) (l : Logic) : Out :=
  let x := s.me
  vec s (s.lanewise o.d [o.a] o.k o.ty 2 fun i => laneLogic l o.ty (x.vec.lane o.a i) 0 o.n.toNat)

/-- `vand` (R135). -/
def execVand (o : Vvv) (s : State) : Out := s.vLogic o .and
/-- `vor` (R135). -/
def execVor (o : Vvv) (s : State) : Out := s.vLogic o .or
/-- `vxor` (R135). -/
def execVxor (o : Vvv) (s : State) : Out := s.vLogic o .xor
/-- `vandn` (R135). -/
def execVandn (o : Vvv) (s : State) : Out := s.vLogic o .andn
/-- `vshl` (R135). -/
def execVshl (o : Vvv) (s : State) : Out := s.vLogic o .shl
/-- `vshr` (R135). -/
def execVshr (o : Vvv) (s : State) : Out := s.vLogic o .shr
/-- `vsra` (R135). -/
def execVsra (o : Vvv) (s : State) : Out := s.vLogic o .sra
/-- `vrol` (R135). -/
def execVrol (o : Vvv) (s : State) : Out := s.vLogic o .rol
/-- `vshl` by an immediate amount (R135). -/
def execVshlImmediate (o : Vvi) (s : State) : Out := s.vShift o .shl
/-- `vshr` by an immediate amount (R135). -/
def execVshrImmediate (o : Vvi) (s : State) : Out := s.vShift o .shr
/-- `vsra` by an immediate amount (R135). -/
def execVsraImmediate (o : Vvi) (s : State) : Out := s.vShift o .sra
/-- `vrol` by an immediate amount (R135). -/
def execVrolImmediate (o : Vvi) (s : State) : Out := s.vShift o .rol

/-- A comparison into a mask: the bits of the active lanes (R136). -/
def State.vCompare (s : State) (o : Vcmp) (c : Cond) : Out :=
  vec s do
    let x := s.me
    let m := x.vec.mask o.k
    x.checkLent [o.a, o.b]
    x.checkUes m [o.a, o.b]
    let r := (upto 64).map fun i =>
      if active m i then laneCmp c o.ty (x.vec.lane o.a i) (x.vec.lane o.b i) else (false, 0)
    let bits : Mask := r.foldr (fun (b : Bool × Fl) acc => (acc <<< 1) ||| (if b.1 then 1 else 0)) 0
    .ok (.go (s.setCore s.cur (x.putK o.d 2 m bits (r.foldl (fun a b => a ||| b.2) 0))))

/-- `vcmp.eq` (R136). -/
def execVcmpEq (o : Vcmp) (s : State) : Out := s.vCompare o .eq
/-- `vcmp.ne` (R136). -/
def execVcmpNe (o : Vcmp) (s : State) : Out := s.vCompare o .ne
/-- `vcmp.lt` (R136). -/
def execVcmpLt (o : Vcmp) (s : State) : Out := s.vCompare o .lt
/-- `vcmp.le` (R136). -/
def execVcmpLe (o : Vcmp) (s : State) : Out := s.vCompare o .le
/-- `vcmp.gt` (R136). -/
def execVcmpGt (o : Vcmp) (s : State) : Out := s.vCompare o .gt
/-- `vcmp.ge` (R136). -/
def execVcmpGe (o : Vcmp) (s : State) : Out := s.vCompare o .ge
/-- `vcmp.un` (R136). -/
def execVcmpUn (o : Vcmp) (s : State) : Out := s.vCompare o .un
/-- `vcmp.ord` (R136). -/
def execVcmpOrd (o : Vcmp) (s : State) : Out := s.vCompare o .ord

/-- `vclass` (R137). -/
def execVclass (o : Vv) (s : State) : Out := s.vOne o 2 fun _ a => laneClass o.ty a
/-- `vcvt`: a conversion to the same type is exact, infinities with SAT included (R138). -/
def execVcvt (o : Vv) (from_ : Ty) (sat : Bool) (s : State) : Out :=
  s.vOne o 4 fun i a => convert from_ o.ty s.me.rm sat i (from_.value a)
/-- The lanes on which a selection depends of the operand that it takes where the selecting mask is `v` (R139). -/
def selected (m c : Mask) (v : Bool) : Mask := if v then m &&& c else m &&& ~~~c
/-- `vsel`: whole lanes of a where the mask is set, else of b (R139). -/
def execVsel (d a b : Fin 32) (c k : Fin 8) (s : State) : Out :=
  vec s do
    let x := s.me
    let m := x.vec.mask k
    let sel := x.vec.mask c
    x.checkLent [d, a, b]
    x.checkNeeds [(a, selected m sel true), (b, selected m sel false)]
    .ok (.go (s.setCore s.cur (x.putV d 2 .u64 m fun i =>
      plainLane (if active sel i then x.vec.lane a i else x.vec.lane b i))))
/-- `vclamp`: vmin(vmax(a, b), c) (R139). -/
def execVclamp (o : Vvvv) (s : State) : Out :=
  let x := s.me
  vec s (s.lanewise o.d [o.a, o.b, o.c] o.k o.ty 2 fun i =>
    laneMin false o.ty (laneMin true o.ty (x.vec.lane o.a i) (x.vec.lane o.b i)).v (x.vec.lane o.c i))

/-- The segment of a piecewise-linear function: the largest index whose breakpoint does not exceed the argument, else 0 (R140). -/
def segment (ty : Ty) (t : Nat → Word) (a : Word) : Nat :=
  let x := ty.value a
  ((upto 64).reverse.find? fun j =>
    let b := ty.value (t j)
    !b.isNan && !x.isNan && (FV.cmp b x != .gt)).getD 0
/-- The value of a piecewise-linear function at an argument, rounded once (R140). -/
def pwlLane (ty : Ty) (mode : RM) (t m c : Nat → Word) (a : Word) : Lane :=
  let j := segment ty t a
  match ty.ff with
  | some f => if (ty.value a).isNan then { v := ty.extend f.nanBits, fl := 0, nan := false }
      else laneFma ty mode false false (m j) a (c j)
  | none => plainLane 0
/-- A set of lanes from a list of indices. -/
def maskOf (l : List Nat) : Mask := l.foldl (fun m i => m ||| BitVec.ofNat 64 (2 ^ (i % 64))) 0
/-- The active lanes of a mask. -/
def lanesIn (m : Mask) : List Nat := (upto 64).filter fun i => active m i
/-- `vpwl` (R140). -/
def execVpwl (o : Vvvv) (s : State) : Out :=
  vec s do
    let x := s.me
    let m := x.vec.mask o.k
    let c1 : Fin 32 := o.c + 1
    x.checkLent [o.d, o.a, o.b, o.c, c1]
    let t := x.vec.lane o.b
    let segs := maskOf ((lanesIn m).map fun i => segment o.ty t (x.vec.lane o.a i))
    x.checkNeeds [(o.a, m), (o.b, if m = 0 then 0 else BitVec.allOnes 64), (o.c, segs), (c1, segs)]
    .ok (.go (s.setCore s.cur (x.putV o.d 6 o.ty m fun i =>
      pwlLane o.ty x.rm t (x.vec.lane o.c) (x.vec.lane c1) (x.vec.lane o.a i))))

end Sys2Proof.Machine
end

