-- ==== Sys2Proof/Machine/VMove.lean ====
section
/-! DEFINITION. Lane movement, folds, scans, `vpart`, masks, `vflag`, address registers, loops, branches, `vend`, lent banks and
`vnop` (R96 to R103, R141 to R146, R156 to R161). -/
namespace Sys2Proof.Machine

/-- A word that moves whole lanes, with the source lanes that its active lanes depend on (R141). -/
def State.vMoveWord (s : State) (d : Fin 32) (regs : List (Fin 32)) (needs : List (Fin 32 × Mask)) (m : Mask) (lat : Nat)
    (f : Nat → Word) : Issue := do
  let x := s.me
  x.checkLent (d :: regs)
  x.checkNeeds needs
  .ok (.go (s.setCore s.cur (x.putV d lat .u64 m fun i => plainLane (f i))))

/-- The lane that an index lane selects. -/
def permIndex (v : Vec) (b : Fin 32) (i : Nat) : Nat := (v.lane b i).toNat % 64
/-- `vperm` (R141). -/
def execVperm (d a b : Fin 32) (k : Fin 8) (s : State) : Out :=
  let v := s.me.vec
  let m := v.mask k
  vec s (s.vMoveWord d [a, b] [(a, maskOf ((lanesIn m).map (permIndex v b))), (b, m)] m 3 fun i => v.lane a (permIndex v b i))
/-- `vrot` (R141). -/
def execVrot (d a : Fin 32) (n : Fin 64) (k : Fin 8) (s : State) : Out :=
  let v := s.me.vec
  let m := v.mask k
  vec s (s.vMoveWord d [a] [(a, maskOf ((lanesIn m).map fun i => (i + n.val) % 64))] m 3 fun i => v.lane a ((i + n.val) % 64))
/-- `vbcast` of a lane (R141). -/
def execVbcast (d a : Fin 32) (n : Fin 64) (k : Fin 8) (s : State) : Out :=
  let v := s.me.vec
  let m := v.mask k
  vec s (s.vMoveWord d [a] [(a, if m = 0 then 0 else maskOf [n.val])] m 3 fun _ => v.lane a n.val)
/-- `vbcast` of an address register or a popped value (R141). -/
def execVbcastScalar (d : Fin 32) (a : Ab) (k : Fin 8) (s : State) : Out :=
  vec s do
    let x := s.me
    let r ← x.ab a
    x.checkLent [d]
    .ok (.go (s.setCore s.cur (r.2.putV d 3 .u64 (x.vec.mask k) fun _ => plainLane r.1)))
/-- `viota` (R141). -/
def execViota (ty : Ty) (d : Fin 32) (k : Fin 8) (s : State) : Out :=
  vec s (s.lanewise d [] k ty 2 fun i => ty.ofInt i)
/-- `vmov` (R141). -/
def execVmov (d a : Fin 32) (k : Fin 8) (s : State) : Out :=
  let v := s.me.vec
  vec s (s.vMoveWord d [a] [(a, v.mask k)] (v.mask k) 2 fun i => v.lane a i)

/-! ## Folds and scans -/

/-- An element as the leaf of a fold: its low bits, a NaN canonical (R107, R124). -/
def leafLane (t : Ty) (a : Word) : Lane :=
  match t.ff with
  | some f => if (t.value a).isNan then plainLane (t.extend f.nanBits) else plainLane (t.extend (t.low a))
  | none => plainLane (t.extend (t.low a))
/-- A node: the operation, with the flags of both sides and its own. -/
def foldNode (f : Word → Word → Lane) (a b : Lane) : Lane :=
  let r := f a.v b.v
  { v := r.v, fl := a.fl ||| b.fl ||| r.fl, nan := a.nan || b.nan || r.nan }
/-- The operations of folds and scans (R142). -/
inductive FoldOp where
  | add | min | max | and | or | xor
  deriving DecidableEq, Repr
/-- One node of an operation; floats round with RNE (R124). -/
def FoldOp.lane (o : FoldOp) (t : Ty) (a b : Word) : Lane :=
  match o with
  | .add => laneBin .add t .rne a b
  | .min => laneMin false t a b
  | .max => laneMin true t a b
  | .and => laneLogic .and t a b 0
  | .or => laneLogic .or t a b 0
  | .xor => laneLogic .xor t a b 0
/-- A word in flight whose lanes are given as a list. -/
def Core.putLanes (x : Core) (d : Fin 32) (lat : Nat) (ty : Ty) (l : List (Option Lane)) : Core :=
  x.pend { x.blank .v d.val lat ty with
    value := laneWords l, lanes := maskOf ((upto 64).filter fun i => (l.getD i none).isSome), flags := laneFlags l
    nan := (nanLane? l).isSome, nanLane := (nanLane? l).getD 0 }
/-- A fold: the tree over the active lanes, into every lane (R142). -/
def State.vFold (s : State) (o : Vv) (f : FoldOp) : Out :=
  vec s do
    let x := s.me
    let m := x.vec.mask o.k
    x.checkLent [o.d, o.a]
    x.checkUe o.a m
    let leaves := (upto 64).map fun i => if active m i then some (leafLane o.ty (x.vec.lane o.a i)) else none
    let r := (treeFold (foldNode (f.lane o.ty)) 6 leaves).getD (plainLane 0)
    .ok (.go (s.setCore s.cur (x.putLanes o.d 8 o.ty ((upto 64).map fun _ => some r))))
/-- The running values of a scan from lane 0 upward (R125). -/
def scanFrom (f : Word → Word → Lane) : Option Lane → List (Option Lane) → List (Option Lane)
  | _, [] => []
  | run, none :: r => none :: scanFrom f run r
  | none, some a :: r => some a :: scanFrom f (some a) r
  | some p, some a :: r =>
    let q := f p.v a.v
    some q :: scanFrom f (some q) r
/-- A scan (R143). -/
def State.vScan (s : State) (o : Vv) (f : FoldOp) : Out :=
  vec s do
    let x := s.me
    let m := x.vec.mask o.k
    x.checkLent [o.d, o.a]
    x.checkUe o.a m
    let items := (upto 64).map fun i => if active m i then some (leafLane o.ty (x.vec.lane o.a i)) else none
    .ok (.go (s.setCore s.cur (x.putLanes o.d 12 o.ty (scanFrom (f.lane o.ty) none items))))

/-- `vfold.add` (R142). -/
def execVfoldAdd (o : Vv) (s : State) : Out := s.vFold o .add
/-- `vfold.min` (R142). -/
def execVfoldMin (o : Vv) (s : State) : Out := s.vFold o .min
/-- `vfold.max` (R142). -/
def execVfoldMax (o : Vv) (s : State) : Out := s.vFold o .max
/-- `vfold.and` (R142). -/
def execVfoldAnd (o : Vv) (s : State) : Out := s.vFold o .and
/-- `vfold.or` (R142). -/
def execVfoldOr (o : Vv) (s : State) : Out := s.vFold o .or
/-- `vfold.xor` (R142). -/
def execVfoldXor (o : Vv) (s : State) : Out := s.vFold o .xor
/-- `vscan.add` (R143). -/
def execVscanAdd (o : Vv) (s : State) : Out := s.vScan o .add
/-- `vscan.min` (R143). -/
def execVscanMin (o : Vv) (s : State) : Out := s.vScan o .min
/-- `vscan.max` (R143). -/
def execVscanMax (o : Vv) (s : State) : Out := s.vScan o .max
/-- `vscan.and` (R143). -/
def execVscanAnd (o : Vv) (s : State) : Out := s.vScan o .and
/-- `vscan.or` (R143). -/
def execVscanOr (o : Vv) (s : State) : Out := s.vScan o .or
/-- `vscan.xor` (R143). -/
def execVscanXor (o : Vv) (s : State) : Out := s.vScan o .xor

/-- Lane indices as lanes, the rest 0. -/
def indexLanes (l : List Nat) : List (Option Lane) := (upto 64).map fun i => some (plainLane (BitVec.ofNat 64 (l.getD i 0)))
/-- `vpart` (R100, R144). -/
def execVpart (d : Fin 32) (c : Fin 8) (n : Fin 12) (s : State) : Out :=
  vec s do
    let x := s.me
    x.checkLent [d, d + 1]
    let m := x.vec.mask c
    let yes := lanesIn m
    let no := lanesIn (~~~m)
    .ok (.go (s.setCore s.cur
      (((x.putLanes d 6 .u64 (indexLanes yes)).putLanes (d + 1) 6 .u64 (indexLanes no)).putA n 6 (BitVec.ofNat 64 yes.length))))

/-! ## Masks and F -/

/-- A mask word (R145). -/
def State.vMask (s : State) (d : Fin 8) (v : Mask) : Out :=
  vec s (.ok (.go (s.setCore s.cur (s.me.putK d 2 (BitVec.allOnes 64) v 0))))
/-- `kand` (R145). -/
def execKand (d a b : Fin 8) (s : State) : Out := s.vMask d (s.me.vec.mask a &&& s.me.vec.mask b)
/-- `kor` (R145). -/
def execKor (d a b : Fin 8) (s : State) : Out := s.vMask d (s.me.vec.mask a ||| s.me.vec.mask b)
/-- `kxor` (R145). -/
def execKxor (d a b : Fin 8) (s : State) : Out := s.vMask d (s.me.vec.mask a ^^^ s.me.vec.mask b)
/-- `knot` (R145). -/
def execKnot (d a : Fin 8) (s : State) : Out := s.vMask d (~~~(s.me.vec.mask a))
/-- `kmov` (R145). -/
def execKmov (d a : Fin 8) (s : State) : Out := s.vMask d (s.me.vec.mask a)
/-- The mask of the lanes below `n`, at most 64. -/
def lowMask (n : Nat) : Mask := if 64 ≤ n then BitVec.allOnes 64 else BitVec.ofNat 64 (2 ^ n - 1)
/-- `kset` by a number (R145). -/
def execKset (d : Fin 8) (n : Fin 65) (s : State) : Out := s.vMask d (lowMask n.val)
/-- `kset` by an address register or a popped value (R145). -/
def execKsetRegister (d : Fin 8) (a : Ab) (s : State) : Out :=
  vec s do
    let r ← s.me.ab a
    .ok (.go (s.setCore s.cur (r.2.putK d 2 (BitVec.allOnes 64) (lowMask r.1.toNat) 0)))
/-- `vflag`: F lands 6 cycles later (R96, R146). -/
def execVflag (a k : Fin 8) (s : State) : Out :=
  let x := s.me
  let f := FReg.ofMask (x.vec.mask a) (x.vec.mask k)
  vec s (.ok (.go (s.setCore s.cur (x.pend { x.blank .f 0 6 .u64 with
    value := lanesOf [BitVec.ofNat 64 f.code], lanes := BitVec.allOnes 64 }))))

/-! ## Address registers -/

/-- An address-register word: its source is read or popped, its result lands one cycle later (R156). -/
def State.vAreg (s : State) (d : Fin 12) (a : Ab) (f : Core → Word → Word) : Out :=
  vec s do
    let x := s.me
    let r ← x.ab a
    .ok (.go (s.setCore s.cur (r.2.putA d 1 (f x r.1))))
/-- `aadd` with an immediate (R156). -/
def execAadd (d : Fin 12) (a : Ab) (imm : BitVec 32) (s : State) : Out := s.vAreg d a fun _ v => v + imm.signExtend 64
/-- `asub` with an immediate (R156). -/
def execAsub (d : Fin 12) (a : Ab) (imm : BitVec 32) (s : State) : Out := s.vAreg d a fun _ v => v - imm.signExtend 64
/-- `ashl` (R156). -/
def execAshl (d : Fin 12) (a : Ab) (n : Fin 64) (s : State) : Out := s.vAreg d a fun _ v => v <<< n.val
/-- `amov` (R156). -/
def execAmov (d : Fin 12) (a : Ab) (s : State) : Out := s.vAreg d a fun _ v => v
/-- `aadd` of two registers (R156). -/
def execAaddRegister (d : Fin 12) (a : Ab) (b : Fin 12) (s : State) : Out := s.vAreg d a fun x v => v + x.vec.a[b]
/-- `asub` of two registers (R156). -/
def execAsubRegister (d : Fin 12) (a : Ab) (b : Fin 12) (s : State) : Out := s.vAreg d a fun x v => v - x.vec.a[b]
/-- `ali` (R156). -/
def execAli (d : Fin 12) (imm : BitVec 32) (s : State) : Out :=
  vec s (.ok (.go (s.setCore s.cur (s.me.putA d 1 (imm.signExtend 64)))))
/-- `apop` (R156). -/
def execApop (d : Fin 12) (q : Fin 4) (s : State) : Out := s.vAreg d (.aq q) fun _ v => v

/-! ## Loops, branches and the end of the stream -/

/-- A word displacement as bytes (R157, R158). -/
def wordDisp (imm : BitVec 32) : Word := 8 * imm.signExtend 64
/-- `loop`: a trip count of 0 transfers past the body and arms nothing (R97, R157). A word that stands at the end address of its own
level arms it first, and the levels are examined after that (DESIGN CHOICE, entry 103; `loop.off` likewise). -/
def execLoop (l : Fin 4) (a : Ab) (imm : BitVec 32) (s : State) : Out :=
  vec s do
    let r ← s.me.ab a
    let t : BitVec 32 := r.1.setWidth 32
    let pc := s.me.vec.pc
    if t = 0 then .ok (.jump (s.setCore s.cur r.2) (pc + wordDisp imm + 8))
    else .ok (.go (s.setCore s.cur (r.2.withVec fun v =>
      { v with loops := v.loops.set l { start := pc + 8, stop := pc + wordDisp imm, count := t - 1, armed := true } })))
/-- `loop.off` (R157). -/
def execLoopOff (l : Fin 4) (s : State) : Out :=
  vec s (.ok (.go (s.onMe fun x => x.withVec fun v => { v with loops := v.loops.set l { v.loops[l] with armed := false } })))
/-- A branch of the vector stream (R98, R158). -/
def State.vBranch (s : State) (disp : BitVec 32) (taken : Bool) : Out :=
  vec s (if taken then .ok (.jump s (s.me.vec.pc + wordDisp disp)) else .ok (.go s))
/-- `vbr` (R158). -/
def execVbr (disp : BitVec 32) (s : State) : Out := s.vBranch disp true
/-- `vbr.z` (R158). -/
def execVbrZ (a : Fin 12) (disp : BitVec 32) (s : State) : Out := s.vBranch disp (s.me.vec.a[a] == 0)
/-- `vbr.nz` (R158). -/
def execVbrNz (a : Fin 12) (disp : BitVec 32) (s : State) : Out := s.vBranch disp (s.me.vec.a[a] != 0)
/-- `vbr.neg` (R158). -/
def execVbrNeg (a : Fin 12) (disp : BitVec 32) (s : State) : Out := s.vBranch disp (s.me.vec.a[a].msb)
/-- `vbr.nneg` (R158). -/
def execVbrNneg (a : Fin 12) (disp : BitVec 32) (s : State) : Out := s.vBranch disp (!s.me.vec.a[a].msb)
/-- `vbr.kany` (R158). -/
def execVbrKany (a : Fin 8) (disp : BitVec 32) (s : State) : Out := s.vBranch disp (s.me.vec.mask a != 0)
/-- `vbr.knone` (R158). -/
def execVbrKnone (a : Fin 8) (disp : BitVec 32) (s : State) : Out := s.vBranch disp (s.me.vec.mask a == 0)

/-- `vend`: the stream stops, a kernel run back to held, and the loop levels disarm (R159, R369). -/
def execVend (s : State) : Out :=
  vec s (.ok (.go (s.onMe fun x => x.withVec fun v =>
    { v with run := if v.run = .kernelRun then .held else .stopped
             loops := Vector.ofFn fun i => { v.loops[i] with armed := false } })))
/-- The number of a bank that can be lent. -/
def lendNum : LendBank → Nat
  | .vb2 => 2
  | .vb3 => 3
/-- The lent mark of a bank set or cleared. -/
def Vec.markLent (v : Vec) (b : LendBank) (on : Bool) : Vec :=
  match b with
  | .vb2 => { v with lent2 := on }
  | .vb3 => { v with lent3 := on }
/-- `vlend`: LEND_BUSY while a result is due in the bank, that of a word with no active lane too (DESIGN CHOICE, entry 99; R101). -/
def execVlend (b : LendBank) (s : State) : Out :=
  vec s do
    let x := s.me
    let busy := x.vec.pend.any fun e => e.kind == .v && e.reg / 8 == (lendNum b)
    require (x.vec.lent (lendNum b) || !busy) .lendBusy (BitVec.ofNat 64 (lendNum b))
    .ok (.go (s.onMe fun x => x.withVec fun v => v.markLent b true))
/-- Does a relax command still reference vb3: until its completion if it reports there, else until it has read a report address
(R322)? `started` says that its tail record has been read, with the report address it held. -/
def relaxHolds (x : Cmd) (started : Option Word) : Bool :=
  match x.op with
  | .mill (.relax _ _ _) | .mill (.relaxb _) => match started with
    | some report => x.p.p3 == 0 || report == 0
    | none => true
  | _ => false
/-- Does a queued or running mill command reference a bank (R101, R322)? -/
def Core.bankHeld (x : Core) (b : LendBank) : Bool :=
  match b with
  | .vb2 => false
  | .vb3 => [4, 5].any fun q =>
      let e := x.queues.toList.getD q .reset
      e.entries.zipIdx.any fun n => match n.1.cmd? with
        | some c => relaxHolds c (if n.2 = 0 then e.run.map (·.report) else none)
        | none => false
/-- `vreclaim`: stalls while a mill command references the bank (R101). -/
def execVreclaim (b : LendBank) (s : State) : Out :=
  vec s do
    awaits (!(s.me.vec.lent (lendNum b) && s.me.bankHeld b)) .other
    .ok (.go (s.onMe fun x => x.withVec fun v => v.markLent b false))
/-- `vnop` (R161). -/
def execVnop (s : State) : Out := vec s (.ok (.go s))

end Sys2Proof.Machine
end

