-- ==== Sys2Proof/Machine/Group.lean ====
section
/-! DEFINITION. Groups: `gdef`, `gdel`, `gsee` (R227 to R229, R236, R278 to R280), and the two events of a group load
(R231 to R235, R238). -/
namespace Sys2Proof.Machine

/-! ## Defining -/

/-- Bits [56:0] of a value. -/
def low57 (v : Nat) : Nat := v % 2 ^ 57
/-- The PERM of a `gdef` with its code (R228). -/
def gdefTrap {α : Type} (code v : Nat) : Except Stop α := trapOf .perm (BitVec.ofNat 64 (code * 2 ^ 60 + low57 v))
/-- Bytes read by a word of the stream at a virtual address: a fault or poison is the word's own (R228). -/
def State.readVirt (s : State) (c : Nat) (kernel : Bool) (va : Word) (n : Nat) : State × Except Trap (List Byte) :=
  s.readVirtual c kernel ((EAddr.virt va).pieces n)
/-- The pairs of OP and ACC that a group may have (R227, R228). -/
def groupPairOk (op acc : Nat) : Bool :=
  match op with
  | 0 => acc == 0 || acc == 1
  | 1 | 2 => decide (acc ≤ 3)
  | 3 | 4 | 5 | 6 => acc == 2 || acc == 3
  | _ => false
/-- Word 0 of a record: its zero fields, its codes and its pair (R227, R228). -/
def groupWordOk (w : Nat) : Bool :=
  w / 2 ^ 33 == 0 && w / 2 ^ 10 % 64 == 0 && decide (w / 256 % 4 ≤ 1) && groupPairOk (w % 16) (w / 16 % 16)
    && decide (1 ≤ w / 2 ^ 16 % 2 ^ 17 ∧ w / 2 ^ 16 % 2 ^ 17 ≤ 65536)
/-- Room of the group store (R227). -/
def groupRoom : Nat := 1048576
/-- Member entries in use. -/
def Part.members (p : Part) : Nat := p.groups.foldl (fun n g => n + g.2.members.length) 0
/-- 32-bit words of a list of bytes. -/
def words32 (b : List Byte) : List (BitVec 32) := (upto (b.length / 4)).map fun i => BitVec.ofNat 32 (at_ b (4 * i) 4)

/-- `gdef`: every check of R228, then the installation, which every core of the partition finds (R227, R278). -/
def execGdef (a b : Src) (s : State) : Out :=
  ctlRel s do
    let x := s.me
    let r ← x.src2 a b
    let id := r.1.toNat
    let rec_ := r.2.1
    if 4096 ≤ id then gdefTrap 1 id else .ok ()
    require (decide (rec_.toNat % 8 = 0)) .misalign rec_
    awaits (x.accessReady && s.released s.cur s.nextId) .other
    x.checkLost true .dom
    if (s.group? s.cur id).isSome then gdefTrap 2 id else .ok ()
    s.checkReads x.ctl.kernel rec_ 16
    let m := s.readVirt s.cur x.ctl.kernel rec_ 16
    awaits (s.noneAtAll s.cur (s.keysOf s.cur x.ctl.kernel .load (.virt rec_) 16)) .other
    let bytes ← orTrap m.2
    let w := at_ bytes 0 8
    let list := wordAt bytes 8
    if groupWordOk w then .ok () else gdefTrap 3 w
    if list.toNat % 4 = 0 then .ok () else gdefTrap 4 list.toNat
    let n := w / 2 ^ 16 % 2 ^ 17
    awaits (s.noneAtAll s.cur (s.keysOf s.cur x.ctl.kernel .load (.virt list) (4 * n))) .other
    s.checkReads x.ctl.kernel list (4 * n)
    let ml := m.1.readVirt s.cur x.ctl.kernel list (4 * n)
    let mbytes ← orTrap ml.2
    let members := words32 mbytes
    match members.findIdx? fun v => v != 0xFFFFFFFF && decide (x.csr.ncores.toNat ≤ v.toNat) with
    | some i => gdefTrap 5 i
    | none =>
      match s.partOfCore s.cur with
      | none => gdefTrap 6 n
      | some k =>
        if groupRoom < (s.part k).members + n then gdefTrap 6 n
        else
          let g : Group := { members := members, skip := w / 256 % 4 == 1, acc := w / 16 % 16, op := w % 16 }
          .ok (.go ((ml.1.setCore s.cur (((ml.1.me).commitPops [a, b]))).modPart k fun p =>
            { p with groups := p.groups.put id g }))

/-- Does a list of handles hold a group see handle of a group? -/
def namesGroup (id : Nat) (l : List Handle) : Bool := l.any fun h => match h with | .gsee g => g.gid.toNat == id | _ => false
/-- Does a core's state hold a group see handle of a group, in a register or a mailbox? -/
def Core.holdsGroup (x : Core) (id : Nat) : Bool := namesGroup id x.ctl.h.toList || x.boxes.toList.any (namesGroup id)
/-- Does a live group see handle name a group of a partition: at a core, under way to a mailbox, or in a context that is saved and not
yet restored (R229, R376)? -/
def State.groupHeld (s : State) (k id : Nat) : Bool :=
  (s.gang s.cur).any (fun c => (s.core c).holdsGroup id)
    || s.msgs.any (fun m => match m with | .handle src _ _ h _ _ => namesGroup id [h] && s.partOfCore src == some k | _ => false)
    || (s.part k).slots.any (fun t => t.2.state != 0 && (match t.2.image with | some x => x.holdsGroup id | none => false))

/-- `gdel` (R229, R279). -/
def execGdel (a : Src) (s : State) : Out :=
  ctl s do
    let r ← s.me.src1 a
    let id := r.1.toNat
    match s.partOfCore s.cur with
    | none => trapOf .perm r.1
    | some k => do
      require (decide (id < 4096) && ((s.part k).groups.find id).isSome && !s.groupHeld k id) .perm r.1
      .ok (.go ((s.setCore s.cur r.2).modPart k fun p => { p with groups := Tab.del p.groups id }))

/-! ## Group see handles -/

/-- The member cores of a group by position, none for padding. -/
def State.memberCores (s : State) (g : Group) : List (Option Nat) := g.members.map (s.member s.cur)
/-- The ring of a member; none where the member is absent (R236, R391). -/
def State.memberRing (s : State) (r : Fin 16) (d : Nat) : Option Ring :=
  if s.reaches s.cur d then (s.core d).rings.find r.val else none
/-- `gsee` (R236, R280). -/
def execGsee (h : Fin 16) (a b : Src) (r : Fin 16) (j : Fin 64) (sd : Fin 32) (s : State) : Out :=
  ctl s do
    let x := s.me
    let v ← x.src2 a b
    let id := v.1.toNat
    let k := v.2.1
    x.needNull h
    let g ← match (if id < 4096 then s.group? s.cur id else none) with
      | some g => (.ok g : Except Stop Group)
      | none => trapOf .perm v.1
    let cores := s.memberCores g
    let ring (d : Nat) : Option Ring := s.memberRing r d
    if g.skip then .ok ()
    else match cores.findIdx? fun d => match d with | some d => (ring d).isNone && !x.ctl.drained.contains d | none => false with
      | some m => trapOf .groupAbsent (memberInfo m 0)
      | none => .ok ()
    let there := (cores.filterMap fun d => d).eraseDups.filterMap fun d => (ring d).map fun q => (d, q)
    let gone (d : Nat) (q : Ring) : Bool := x.ctl.drained.contains d || (q.closed && decide (q.claimed.toNat ≤ k.toNat))
    require (there.all fun p => decide (j.val < p.2.c)) .perm (BitVec.ofNat 64 j.val)
    if !(there.all fun p => decide (k.toNat < p.2.claimed.toNat) || p.2.closed || gone p.1 p.2) then
      if x.ctl.asked then waitOf (.queue 16)
      else .ok (.stay ((there.foldl (fun t p => t.modRing p.1 r.val fun q =>
          { q with readers := q.readers ++ [{ core := s.cur, cursor := none, round := k }] }) s).onMe fun y =>
        y.withCtl fun c => { c with asked := true
                                    drained := (there.filter fun p => gone p.1 p.2).map (·.1) }) (.queue 16))
    else if there.any (fun p => gone p.1 p.2) || !x.ctl.drained.isEmpty then
      .ok (.go ((there.foldl (fun t p => t.modRing p.1 r.val fun q => q.leave s.cur) (s.setCore s.cur v.2.2)).onMe fun y =>
        y.deliverHandle h .null sd noClaim))
    else do
      require (there.all fun p => p.2.next[j.val]? == some k) .perm k
      let s1 := there.foldl (fun t p => t.modRing p.1 r.val fun q =>
        { q.leave s.cur with next := setNth q.next j.val (k + 1) }) (s.setCore s.cur v.2.2)
      let slot (d : Nat) : Option TileRef := (ring d).map fun q => s.refOf d (q.slots.getD (k.toNat % q.slots.length) 0)
      let hd : GSee := { gid := BitVec.ofNat 12 id, ring := r, round := k, slots := cores.map fun d => d.bind slot }
      .ok (.go (s1.onMe fun y => y.deliverHandle h (.gsee hd) sd k))

/-! ## Group loads -/

/-- Group load `k` replaced. -/
def State.setGload (s : State) (k : Nat) (g : GLoad) : State := { s with gloads := setNth s.gloads k g }
/-- The lowest member position whose slot is POISONED or dead, with its place in the slot (R238). -/
def State.poisonedSlot (s : State) (g : GLoad) : Option Nat :=
  match g.see with
  | none => none
  | some h => h.slots.findIdx? fun r => match r with
    | some t => s.reaches g.core t.core && (s.tileOf t).st == .poisoned
    | none => false
/-- The layout of the bank that holds x at a member, and the number of the element there (R231). -/
def State.leafElem (s : State) (g : GLoad) (d x : Nat) : Layout × Nat :=
  let t := leafTy g.group g.vec g.ty
  ((BankFmt.of (s.bankWord d (x / bankSize % 16))).layout t, x % bankSize / t.size)
/-- The first byte that the leaf of a member reads. -/
def State.leafKey (s : State) (g : GLoad) (d x : Nat) : Nat :=
  let e := s.leafElem g d x
  bankKey d (x / bankSize % 16) + (e.1.payload e.2).1
/-- The leaf of a member: the element at x of its bank, converted into ACC, or its fault (R231, R235); at U a leaf of which a byte lies in
a live kernel frame is PERM (R369). -/
def State.leafAt (s : State) (g : GLoad) (m d x : Nat) : Leaf × BitVec 5 × Bool :=
  let l := (s.leafElem g d x).1
  let n := (s.leafElem g d x).2
  let kb := bankKey d (x / bankSize % 16)
  let fault (c : Cause) : Leaf × BitVec 5 × Bool := (.fault { cause := c, info := memberInfo m x }, 0, false)
  if (l.outside n).isSome || (!g.kernel && (l.runs n).any fun r => (s.core d).inLiveFrame (spadOff (kb + r.1)) r.2) then fault .perm
  else if (l.isBlock || !l.ty.isInt) != g.group.isFloat then fault .perm
  else if s.elemPoisoned kb l n then fault .groupMemberUe
  else if g.group.isFloat then
    let r := convert l.srcTy g.group.accTy .rne false 0 (s.elemValue kb l n)
    (.value r.v, r.fl, r.nan)
  else (.value (l.ty.extend (s.elemBits kb l n)), 0, false)

/-- GROUP_LEAF_READ: member position `m` of group load `k` is read (R231, R232, R239). -/
def execGroupLeafRead (k m : Nat) (s : State) : Out :=
  .next (match s.gloads[k]? with
    | none => s
    | some g =>
      if g.fault.isSome || !s.gloadReady g || (s.poisonedSlot g).isSome then s
      else match g.leaves[m]?, g.group.members[m]? with
        | some .unread, some w =>
          let put (s : State) (l : Leaf) (f : BitVec 5) (nan : Bool) : State :=
            s.setGload k { g with leaves := setNth g.leaves m l, flags := g.flags ||| f, nan := g.nan || nan }
          match (g.slots[m]?).join, (if w = 0xFFFFFFFF then none else s.rankCore g.core w.toNat) with
          | some x, some d =>
            if !s.reaches g.core d then put s (if g.group.skip then .empty else .absent) 0 false
            else if !s.mayGo g.core (spadKey d x) || s.behindSent g.core (pkgOf d) g.id s.msgs s.chunks then s
            else
              let s1 := s.onRead g.core (s.leafKey g d x)
              let r := s1.leafAt g m d x
              put s1 r.1 r.2.1 r.2.2
          | _, _ => put s .empty 0 false
        | _, _ => s)

/-- One node of a group's tree (R233). -/
def Group.node (g : Group) (a b : Word) : Lane :=
  let t := g.accTy
  match g.op with
  | 0 | 3 => laneBin .add t .rne a b
  | 1 => laneMin false t a b
  | 2 => laneMin true t a b
  | 4 => laneLogic .and t a b 0
  | 5 => laneLogic .or t a b 0
  | _ => laneLogic .xor t a b 0
/-- The outcome of a group load whose leaves are read (R233, R235). -/
def GLoad.outcome (g : GLoad) : Result :=
  let x (m : Nat) : Nat := ((g.slots[m]?).join).getD g.x
  let bad := g.leaves.findIdx? fun l => match l with | .absent | .fault _ => true | _ => false
  match bad with
  | some m => match g.leaves.getD m .empty with
    | .fault t => .of (.fault t)
    | _ => .of (.fault { cause := .groupAbsent, info := memberInfo m (x m) })
  | none =>
    let items := g.leaves.map fun l => match l with
      | .value v => some (leafLane g.group.accTy v)
      | _ => none
    match treeFold (foldNode g.group.node) 17 items with
    | none => .of (.fault { cause := .groupEmpty, info := memberInfo 0 g.x })
    | some r =>
      let t := leafTy g.group g.vec g.ty
      if g.group.isFloat then
        let c := convert g.group.accTy t .rne false 0 (g.group.accTy.value r.v)
        { datum := .value (g.ty.extend (t.low c.v)), flags := g.flags ||| r.fl ||| c.fl, nan := g.nan || r.nan || c.nan }
      else { datum := .value (g.ty.extend (g.ty.low r.v)), flags := g.flags ||| r.fl, nan := g.nan || r.nan }

/-- A blocking group load returns: its flags merge with its datum (R234). -/
def State.endGroup (s : State) (c : Nat) (b : BlkLoad) (r : Result) : State :=
  let pc := (s.core c).ctl.pc
  match r.datum with
  | .fault t => s.take c (.sync t false)
  | d => (s.endBlocking c b d).modCore c fun x => x.mergeCtl r.flags r.nan pc
/-- GROUP_LOAD_RETURN: group load `k` ends in its register or its queue entry (R233, R235, R238). -/
def execGroupLoadReturn (k : Nat) (s : State) : Out :=
  .next (match s.gloads[k]? with
    | none => s
    | some g =>
      let result : Option Result := match g.fault, s.poisonedSlot g with
        | some t, _ => some (.of (.fault t))
        | none, some m => some (.of (.fault { cause := .poisonedTile, info := memberInfo m (((g.slots[m]?).join).getD 0) }))
        | none, none => if g.leaves.all (· != .unread) then some g.outcome else none
      match result with
      | none => s
      | some r =>
        let s1 := { s with gloads := dropNth s.gloads k }
        match g.dest with
        | .queue b => s1.deliver g.core b r
        | .blocking => match (s.core g.core).ctl.blk with
          | some b => if b.id == g.id && b.left == 0 then s1.endGroup g.core b r else s
          | none => s)

end Sys2Proof.Machine
end

