-- ==== Sys2Proof/Decode.lean ====
section
/-! DEFINITION. Decoding and encoding of instruction words: the formats of R21 to R26, the shared codes of R27 to R33, the
function codes of the instruction chapters, and the first six checks of R38. The seventh, privilege, needs the level of the
core and stands with the step. -/
namespace Sys2Proof

/-- A word with its IDLE count and SYNC bit (R21). -/
structure Slot where
  idle : BitVec 10
  sync : Bool
  instr : Instr
  deriving DecidableEq, Repr

/-- The stream that offers a word (R38). -/
inductive Stream where
  | control | vector
  deriving DecidableEq, Repr

/-- How the first six checks of R38 turn a word away. -/
inductive Reject where
  | illegal | wrongStream
  deriving DecidableEq, Repr

/-- `n` bits of a word from bit `lo` up. -/
def bits (w : Word) (lo n : Nat) : BitVec n := w.extractLsb' lo n

/-- The bit of a Boolean. -/
def bit (b : Bool) : BitVec 1 := BitVec.ofBool b

/-- IDLE, SYNC, MAJ and body (R21). -/
def joinWord (idle : BitVec 10) (sync : Bool) (maj : BitVec 8) (body : BitVec 45) : Word :=
  (idle ++ bit sync ++ maj ++ body : BitVec 64)

/-- The fields of an RR body (R24). -/
structure RR where
  d : BitVec 6
  a : BitVec 6
  b : BitVec 6
  fn : BitVec 9
  x : BitVec 18
  deriving DecidableEq, Repr
/-- The fields of an RI body (R24). -/
structure RI where
  d : BitVec 6
  a : BitVec 6
  imm : BitVec 33
  deriving DecidableEq, Repr
/-- The fields of an LI body (R24). -/
structure LI where
  d : BitVec 6
  imm : BitVec 39
  deriving DecidableEq, Repr
/-- The fields of a MEM body (R24). -/
structure MEM where
  d : BitVec 6
  base : BitVec 6
  sz : BitVec 3
  am : BitVec 4
  ord : BitVec 2
  off : BitVec 24
  deriving DecidableEq, Repr
/-- The fields of a BR body (R24). -/
structure BR where
  cc : BitVec 4
  a : BitVec 6
  b : BitVec 6
  disp : BitVec 29
  deriving DecidableEq, Repr
/-- The fields of an EC body (R24). -/
structure EC where
  q : BitVec 4
  a : BitVec 6
  b : BitVec 6
  h : BitVec 4
  p : BitVec 1
  f : BitVec 1
  i : BitVec 1
  w : BitVec 1
  x : BitVec 21
  deriving DecidableEq, Repr
/-- The fields of a VV body (R26). -/
structure VV where
  vd : BitVec 5
  va : BitVec 5
  vb : BitVec 5
  vc : BitVec 5
  k : BitVec 3
  ty : BitVec 4
  fn : BitVec 10
  i8 : BitVec 8
  deriving DecidableEq, Repr
/-- The fields of a VM body (R26). -/
structure VM where
  vd : BitVec 5
  ab : BitVec 4
  k : BitVec 3
  ty : BitVec 4
  am : BitVec 4
  off : BitVec 25
  deriving DecidableEq, Repr
/-- The fields of a VS body (R26). -/
structure VS where
  ad : BitVec 4
  as_ : BitVec 4
  lc : BitVec 5
  imm : BitVec 32
  deriving DecidableEq, Repr

/-- The body of RR fields. -/
def RR.body (r : RR) : BitVec 45 := (0#0 ++ r.d ++ r.a ++ r.b ++ r.fn ++ r.x : BitVec 45)
/-- The RR fields of a word. -/
def RR.of (w : Word) : RR :=
  { d := bits w 39 6, a := bits w 33 6, b := bits w 27 6, fn := bits w 18 9, x := bits w 0 18 }
/-- The body of RI fields. -/
def RI.body (r : RI) : BitVec 45 := (r.d ++ r.a ++ r.imm : BitVec 45)
/-- The RI fields of a word. -/
def RI.of (w : Word) : RI := { d := bits w 39 6, a := bits w 33 6, imm := bits w 0 33 }
/-- The body of LI fields. -/
def LI.body (r : LI) : BitVec 45 := (r.d ++ r.imm : BitVec 45)
/-- The LI fields of a word. -/
def LI.of (w : Word) : LI := { d := bits w 39 6, imm := bits w 0 39 }
/-- The body of MEM fields. -/
def MEM.body (r : MEM) : BitVec 45 := (r.d ++ r.base ++ r.sz ++ r.am ++ r.ord ++ r.off : BitVec 45)
/-- The MEM fields of a word. -/
def MEM.of (w : Word) : MEM :=
  { d := bits w 39 6, base := bits w 33 6, sz := bits w 30 3, am := bits w 26 4, ord := bits w 24 2, off := bits w 0 24 }
/-- The body of BR fields. -/
def BR.body (r : BR) : BitVec 45 := (r.cc ++ r.a ++ r.b ++ r.disp : BitVec 45)
/-- The BR fields of a word. -/
def BR.of (w : Word) : BR := { cc := bits w 41 4, a := bits w 35 6, b := bits w 29 6, disp := bits w 0 29 }
/-- The body of EC fields. -/
def EC.body (r : EC) : BitVec 45 := (r.q ++ r.a ++ r.b ++ r.h ++ r.p ++ r.f ++ r.i ++ r.w ++ r.x : BitVec 45)
/-- The EC fields of a word. -/
def EC.of (w : Word) : EC :=
  { q := bits w 41 4, a := bits w 35 6, b := bits w 29 6, h := bits w 25 4, p := bits w 24 1, f := bits w 23 1
    i := bits w 22 1, w := bits w 21 1, x := bits w 0 21 }
/-- The body of VV fields. -/
def VV.body (r : VV) : BitVec 45 :=
  (r.vd ++ r.va ++ r.vb ++ r.vc ++ r.k ++ r.ty ++ r.fn ++ r.i8 : BitVec 45)
/-- The VV fields of a word. -/
def VV.of (w : Word) : VV :=
  { vd := bits w 40 5, va := bits w 35 5, vb := bits w 30 5, vc := bits w 25 5, k := bits w 22 3, ty := bits w 18 4
    fn := bits w 8 10, i8 := bits w 0 8 }
/-- The body of VM fields. -/
def VM.body (r : VM) : BitVec 45 := (r.vd ++ r.ab ++ r.k ++ r.ty ++ r.am ++ r.off : BitVec 45)
/-- The VM fields of a word. -/
def VM.of (w : Word) : VM :=
  { vd := bits w 40 5, ab := bits w 36 4, k := bits w 33 3, ty := bits w 29 4, am := bits w 25 4, off := bits w 0 25 }
/-- The body of VS fields. -/
def VS.body (r : VS) : BitVec 45 := (r.ad ++ r.as_ ++ r.lc ++ r.imm : BitVec 45)
/-- The VS fields of a word. -/
def VS.of (w : Word) : VS := { ad := bits w 41 4, as_ := bits w 37 4, lc := bits w 32 5, imm := bits w 0 32 }

/-! ## The shared codes, R27 to R33 -/

/-- The 6-bit code of a scalar register (R27). -/
def encReg (r : Fin 32) : BitVec 6 := BitVec.ofNat 6 r.val
/-- A code that must name a scalar register. -/
def decReg (c : BitVec 6) : Option (Fin 32) := if h : c.toNat < 32 then some ⟨c.toNat, h⟩ else none
/-- The code of a destination (R27). -/
def encDst : Dst → BitVec 6
  | .reg r => BitVec.ofNat 6 r.val
  | .aq q => BitVec.ofNat 6 (32 + q.val)
/-- A code in a destination position. -/
def decDst (c : BitVec 6) : Option Dst :=
  if h : c.toNat < 32 then some (.reg ⟨c.toNat, h⟩)
  else if h : c.toNat < 36 then some (.aq ⟨c.toNat - 32, by omega⟩) else none
/-- The code of a source (R27). -/
def encSrc : Src → BitVec 6
  | .reg r => BitVec.ofNat 6 r.val
  | .pop q => BitVec.ofNat 6 (36 + q.val)
  | .peek q => BitVec.ofNat 6 (38 + q.val)
/-- A code in a source position. -/
def decSrc (c : BitVec 6) : Option Src :=
  if h : c.toNat < 32 then some (.reg ⟨c.toNat, h⟩)
  else if h : 36 ≤ c.toNat ∧ c.toNat < 38 then some (.pop ⟨c.toNat - 36, by omega⟩)
  else if h : 38 ≤ c.toNat ∧ c.toNat < 40 then some (.peek ⟨c.toNat - 38, by omega⟩) else none
/-- The code of a handle register (R27). -/
def encH (h : Fin 16) : BitVec 6 := BitVec.ofNat 6 (40 + h.val)
/-- A code in a handle position. -/
def decH (c : BitVec 6) : Option (Fin 16) :=
  if h : 40 ≤ c.toNat ∧ c.toNat < 56 then some ⟨c.toNat - 40, by omega⟩ else none
/-- A code bounded by `n`. -/
def decFin (n : Nat) {w : Nat} (c : BitVec w) : Option (Fin n) := if h : c.toNat < n then some ⟨c.toNat, h⟩ else none
/-- The code of a bounded number. -/
def encFin {n : Nat} (w : Nat) (i : Fin n) : BitVec w := BitVec.ofNat w i.val

/-- The TY code (R29). -/
def Ty.code : Ty → BitVec 4
  | .i8 => 0 | .i16 => 1 | .i32 => 2 | .i64 => 3 | .u8 => 4 | .u16 => 5 | .u32 => 6 | .u64 => 7
  | .f16 => 8 | .bf16 => 9 | .f32 => 10 | .f64 => 11 | .e4m3 => 12 | .e5m2 => 13
/-- The type of a TY code; 14 and 15 are reserved (R29). -/
def decTy (c : BitVec 4) : Option Ty :=
  match c.toNat with
  | 0 => some .i8 | 1 => some .i16 | 2 => some .i32 | 3 => some .i64 | 4 => some .u8 | 5 => some .u16
  | 6 => some .u32 | 7 => some .u64 | 8 => some .f16 | 9 => some .bf16 | 10 => some .f32 | 11 => some .f64
  | 12 => some .e4m3 | 13 => some .e5m2 | _ => none
/-- The SZ code of a load (R30). -/
def LdSz.code : LdSz → BitVec 3
  | .b => 0 | .h => 1 | .w => 2 | .d => 3 | .bu => 4 | .hu => 5 | .wu => 6
/-- The load size of an SZ code; 7 is reserved (R30). -/
def decLdSz (c : BitVec 3) : Option LdSz :=
  match c.toNat with
  | 0 => some .b | 1 => some .h | 2 => some .w | 3 => some .d | 4 => some .bu | 5 => some .hu | 6 => some .wu
  | _ => none
/-- The SZ code of a store or atomic (R30). -/
def Sz.code : Sz → BitVec 3
  | .b => 0 | .h => 1 | .w => 2 | .d => 3
/-- The store size of an SZ code (R30). -/
def decSz (c : BitVec 3) : Option Sz :=
  match c.toNat with
  | 0 => some .b | 1 => some .h | 2 => some .w | 3 => some .d | _ => none
/-- The ORD code (R32). -/
def Ord.code : Ord → BitVec 2
  | .plain => 0 | .sync => 1 | .strong => 2
/-- The ordering of an ORD code; 3 is reserved (R32). -/
def decOrd (c : BitVec 2) : Option Ord :=
  match c.toNat with
  | 0 => some .plain | 1 => some .sync | 2 => some .strong | _ => none
/-- The scope code (R240). -/
def Scope.code : Scope → BitVec 3
  | .core => 0 | .die => 1 | .pkg => 2 | .dom => 3 | .sys => 4
/-- The scope of a code; 5 to 7 are reserved (R258). -/
def decScope (c : BitVec 3) : Option Scope :=
  match c.toNat with
  | 0 => some .core | 1 => some .die | 2 => some .pkg | 3 => some .dom | 4 => some .sys | _ => none
/-- The FORMAT code (R182). -/
def Fmt.code : Fmt → BitVec 4
  | .raw => 0 | .f64 => 1 | .f32 => 2 | .bf16 => 3 | .f16 => 4 | .e4m3 => 5 | .e5m2 => 6 | .mx8 => 7
  | .wb3 => 8 | .wb5 => 9 | .wb8 => 10 | .i8 => 11 | .i32 => 12
/-- The format of a FORMAT code (R182). -/
def decFmt (c : BitVec 4) : Option Fmt :=
  match c.toNat with
  | 0 => some .raw | 1 => some .f64 | 2 => some .f32 | 3 => some .bf16 | 4 => some .f16 | 5 => some .e4m3
  | 6 => some .e5m2 | 7 => some .mx8 | 8 => some .wb3 | 9 => some .wb5 | 10 => some .wb8 | 11 => some .i8
  | 12 => some .i32 | _ => none
/-- The AB code (R26). -/
def Ab.code : Ab → BitVec 4
  | .areg a => BitVec.ofNat 4 a.val
  | .aq q => BitVec.ofNat 4 (12 + q.val)
/-- The base or source of an AB or AS code (R26). -/
def decAb (c : BitVec 4) : Ab :=
  if h : c.toNat < 12 then .areg ⟨c.toNat, h⟩ else .aq ⟨c.toNat - 12, by omega⟩
/-- A code that must name an address register. -/
def decA (c : BitVec 4) : Option (Fin 12) := if h : c.toNat < 12 then some ⟨c.toNat, h⟩ else none

/-- A condition that must hold, as a step of a decoder. -/
def need (b : Bool) : Option Unit := if b then some () else none

/-! ## Decoding the control stream -/

/-- The operands of an alu word, X zero (R63). -/
def decRrr (r : RR) : Option Rrr := do
  let d ← decDst r.d
  let a ← decSrc r.a
  let b ← decSrc r.b
  return { d, a, b }
/-- The operands of an immediate form (R64). -/
def decRri (r : RI) : Option Rri := do
  let d ← decDst r.d
  let a ← decSrc r.a
  return { d, a, imm := r.imm }

/-- The alu family, major 0x02 (R63). -/
def decAlu (r : RR) : Option Instr := do
  let o ← decRrr r
  if r.fn = 17 then
    let c ← decFin 32 r.x
    return .sel o c
  need (r.x == 0)
  match r.fn.toNat with
  | 0 => some (.add o) | 1 => some (.sub o) | 2 => some (.and o) | 3 => some (.or o) | 4 => some (.xor o)
  | 5 => some (.andn o) | 6 => some (.shl o) | 7 => some (.shr o) | 8 => some (.sra o) | 9 => some (.rot o)
  | 10 => some (.min o) | 11 => some (.max o) | 12 => some (.minu o) | 13 => some (.maxu o) | 14 => some (.slt o)
  | 15 => some (.sltu o) | 16 => some (.seq o) | _ => none

/-- The multiply and divide families, majors 0x0C and 0x0D (R65, R66). -/
def decMulDiv (div : Bool) (r : RR) : Option Instr := do
  let o ← decRrr r
  need (r.x == 0)
  match div, r.fn.toNat with
  | false, 0 => some (.mul o) | false, 1 => some (.mulh o) | false, 2 => some (.mulhu o)
  | true, 0 => some (.div o) | true, 1 => some (.divu o) | true, 2 => some (.rem o) | true, 3 => some (.remu o)
  | _, _ => none

/-- The bit family, major 0x0E (R67). -/
def decBit (r : RR) : Option Instr := do
  let d ← decDst r.d
  let a ← decSrc r.a
  need (r.b == 0)
  let n ← decFin 64 r.x
  match r.fn.toNat with
  | 0 => (need (r.x == 0)).map fun _ => .clz d a
  | 1 => (need (r.x == 0)).map fun _ => .ctz d a
  | 2 => (need (r.x == 0)).map fun _ => .popc d a
  | 3 => (need (r.x == 0)).map fun _ => .bswap d a
  | 4 => some (.sext d a n)
  | 5 => some (.zext d a n)
  | _ => none

/-- The `lo` and `w - 1` of a bit field word: X[5:0], X[11:6], the rest zero (R68). -/
def decField (x : BitVec 18) : Option (Fin 64 × Fin 64) := do
  need (x.extractLsb' 12 6 == 0)
  return ((x.extractLsb' 0 6).toFin, (x.extractLsb' 6 6).toFin)

/-- bfx and bfi, majors 0x0F and 0x10 (R68). -/
def decBf (ins : Bool) (r : RR) : Option Instr := do
  let a ← decSrc r.a
  need (r.b == 0 && r.fn == 0)
  let (lo, wm1) ← decField r.x
  if ins then return .bfi (← decReg r.d) a lo wm1 else return .bfx (← decDst r.d) a lo wm1

/-- lea and gaddr, majors 0x13 and 0x14 (R70, R71). -/
def decLea (g : Bool) (r : RR) : Option Instr := do
  let o ← decRrr r
  need (r.fn == 0)
  if g then
    need (r.x == 0)
    return .gaddr o
  return .lea o (r.x.extractLsb' 15 3).toFin (r.x.extractLsb' 0 15)

/-- The immediate forms, majors 0x03 to 0x0B (R64); a shift amount must lie in 0 to 63. -/
def decImm (maj : Nat) (r : RI) : Option Instr := do
  let o ← decRri r
  match maj with
  | 3 => some (.addImmediate o) | 4 => some (.andImmediate o) | 5 => some (.orImmediate o)
  | 6 => some (.xorImmediate o)
  | 7 => (need (decide (o.imm.toNat < 64))).map fun _ => .shlImmediate o
  | 8 => (need (decide (o.imm.toNat < 64))).map fun _ => .shrImmediate o
  | 9 => (need (decide (o.imm.toNat < 64))).map fun _ => .sraImmediate o
  | 10 => some (.sltImmediate o) | 11 => some (.sltuImmediate o) | _ => none

/-- li and lih, majors 0x11 and 0x12 (R69). -/
def decLi (high : Bool) (r : LI) : Option Instr := do
  if high then
    need (r.imm.extractLsb' 25 14 == 0)
    return .lih (← decReg r.d) (r.imm.extractLsb' 0 25)
  return .li (← decDst r.d) r.imm

/-- b.cc, major 0x18 (R25, R72). -/
def decB (r : BR) : Option Instr := do
  let a ← decSrc r.a
  let b ← decSrc r.b
  let o : Bcc := { a, b, disp := r.disp }
  let z := r.a == 0 && r.b == 0
  match r.cc.toNat with
  | 0 => some (.bEq o) | 1 => some (.bNe o) | 2 => some (.bLt o) | 3 => some (.bGe o) | 4 => some (.bLtu o)
  | 5 => some (.bGeu o)
  | 6 => (need z).map fun _ => .bAl r.disp
  | 7 => (need z).map fun _ => .bFany r.disp
  | 8 => (need z).map fun _ => .bFall r.disp
  | 9 => (need z).map fun _ => .bFnone r.disp
  | _ => none

/-- call and vgo, majors 0x1A and 0x1C (R73, R74). -/
def decCall (vgo : Bool) (r : BR) : Option Instr := do
  need (r.cc == 0 && r.a == 0 && r.b == 0)
  if vgo then return .vgo r.disp else return .call r.disp

/-- jr, major 0x19 (R73). -/
def decJr (r : RR) : Option Instr := do
  need (r.b == 0 && r.fn == 0 && r.x == 0)
  return .jr (← decReg r.d) (← decSrc r.a)

/-- A word whose body must be zero (R62, R74, R75). -/
def decZero (w : Word) (i : Instr) : Option Instr := (need (bits w 0 45 == 0)).map fun _ => i

/-- trap and sys, majors 0x20 and 0x1F (R76). -/
def decTrap (sys : Bool) (r : RI) : Option Instr := do
  need (r.d == 0 && r.a == 0)
  if sys then return .sys r.imm else return .trap r.imm

/-- The CSR family, major 0x21 (R77). -/
def decCsr (r : RR) : Option Instr := do
  need (r.b == 0 && r.x.extractLsb' 12 6 == 0)
  let n := r.x.extractLsb' 0 12
  let d ← decReg r.d
  let a ← decSrc r.a
  match r.fn.toNat with
  | 0 => (need (r.a == 0)).map fun _ => .csrr d n
  | 1 => (need (r.d == 0)).map fun _ => .csrw n a
  | 2 => some (.csrs d n a)
  | 3 => some (.csrc d n a)
  | _ => none

/-- uret and kret, major 0x22 (R78). -/
def decRet (r : RR) : Option Instr := do
  need (r.d == 0 && r.a == 0 && r.b == 0 && r.x == 0)
  match r.fn.toNat with
  | 0 => some .uret | 1 => some .kret | _ => none

/-- uie and uid, major 0x24, and fget, major 0x25 (R79, R80). The D of uie and uid is s0 to s31 (DESIGN CHOICE, entry 97). -/
def decUie (fget : Bool) (r : RR) : Option Instr := do
  need (r.a == 0 && r.b == 0 && r.x == 0)
  match fget, r.fn.toNat with
  | false, 0 => (decReg r.d).map .uie
  | false, 1 => (decReg r.d).map .uid
  | true, 0 => (decDst r.d).map .fget
  | _, _ => none

/-- tlbi, major 0x27 (R81). -/
def decTlbi (r : RR) : Option Instr := do
  need (r.d == 0 && r.x == 0)
  let a ← decReg r.a
  let b ← decReg r.b
  match r.fn.toNat with
  | 0 => some (.tlbiPage a b)
  | 1 => (need (r.b == 0)).map fun _ => .tlbiContext a
  | 2 => (need (r.a == 0 && r.b == 0)).map fun _ => .tlbiAll
  | _ => none

/-- The address of an ld or st (R31, R82). -/
def decMemAddr (r : MEM) : Option MemAddr :=
  match r.am.toNat with
  | 0 => (decReg r.base).map (.plain · r.off)
  | 1 => (decReg r.base).map (.loc · r.off)
  | 2 => (decReg r.base).map (.postInc · r.off)
  | 3 => (decReg r.base).map (.preInc · r.off)
  | 4 => (decH r.base).map (.handle · r.off)
  | 5 => (decReg r.base).map (.group · r.off)
  | _ => none
/-- The AM code and BASE of an ld or st address. -/
def MemAddr.fields : MemAddr → BitVec 4 × BitVec 6 × BitVec 24
  | .plain b o => (0, encReg b, o) | .loc b o => (1, encReg b, o) | .postInc b o => (2, encReg b, o)
  | .preInc b o => (3, encReg b, o) | .handle h o => (4, encH h, o) | .group b o => (5, encReg b, o)
/-- The address of an ldq (R85). -/
def decQAddr (r : MEM) : Option QAddr :=
  match r.am.toNat with
  | 0 => (decReg r.base).map (.plain · r.off)
  | 4 => (decH r.base).map (.handle · r.off)
  | 5 => (decReg r.base).map (.group · r.off)
  | 6 => (decReg r.base).map (.zue · r.off)
  | _ => none
/-- The AM code and BASE of an ldq address. -/
def QAddr.fields : QAddr → BitVec 4 × BitVec 6 × BitVec 24
  | .plain b o => (0, encReg b, o) | .handle h o => (4, encH h, o) | .group b o => (5, encReg b, o)
  | .zue b o => (6, encReg b, o)

/-- ld, st and ldq, majors 0x40 to 0x42 (R82, R85). -/
def decMem (maj : Nat) (r : MEM) : Option Instr := do
  let ord ← decOrd r.ord
  match maj with
  | 0x40 =>
    let d ← decReg r.d
    let addr ← decMemAddr r
    need (ldBaseOk d addr)
    return .ld d addr (← decLdSz r.sz) ord
  | 0x41 => return .st (← decReg r.d) (← decMemAddr r) (← decSz r.sz) ord
  | 0x42 => return .ldq (← decFin 2 r.d) (← decQAddr r) (← decLdSz r.sz) ord
  | _ => none

/-- The operands of an amo (R258): X[2:0] SZ, X[4:3] ORD. -/
def decAmoOps (r : RR) : Option Amo := do
  let q ← decFin 2 r.d
  let a ← decSrc r.a
  let b ← decSrc r.b
  need (r.x.extractLsb' 5 13 == 0)
  return { q, a, b, sz := ← decSz (r.x.extractLsb' 0 3), ord := ← decOrd (r.x.extractLsb' 3 2) }
/-- The operands of a red (R258). -/
def decRedOps (r : RR) : Option Red := do
  need (r.d == 0)
  let a ← decSrc r.a
  let b ← decSrc r.b
  need (r.x.extractLsb' 5 13 == 0)
  return { a, b, sz := ← decSz (r.x.extractLsb' 0 3), ord := ← decOrd (r.x.extractLsb' 3 2) }
/-- An instruction kept only when it is well formed (R38 step 5). -/
def keep (i : Instr) : Option Instr := if i.wf then some i else none

/-- amo, major 0x43 (R261, R262). -/
def decAmo (r : RR) : Option Instr := do
  let o ← decAmoOps r
  match r.fn.toNat with
  | 0 => keep (.amoSwap o)
  | 1 => keep (.amoAdd o)
  | 2 => keep (.amoAnd o)
  | 3 => keep (.amoOr o)
  | 4 => keep (.amoXor o)
  | 5 => keep (.amoMin o)
  | 6 => keep (.amoMax o)
  | 7 => keep (.amoMinu o)
  | 8 => keep (.amoMaxu o)
  | 9 => keep (.amoFadd o)
  | 10 => keep (.amoFmin o)
  | 11 => keep (.amoFmax o)
  | 12 => keep (.amoBfadd o)
  | 13 => keep (.amoBfmin o)
  | 14 => keep (.amoBfmax o)
  | _ => none
/-- red, major 0x44 (R261, R263). -/
def decRed (r : RR) : Option Instr := do
  let o ← decRedOps r
  match r.fn.toNat with
  | 1 => keep (.redAdd o)
  | 2 => keep (.redAnd o)
  | 3 => keep (.redOr o)
  | 4 => keep (.redXor o)
  | 5 => keep (.redMin o)
  | 6 => keep (.redMax o)
  | 7 => keep (.redMinu o)
  | 8 => keep (.redMaxu o)
  | 9 => keep (.redFadd o)
  | 10 => keep (.redFmin o)
  | 11 => keep (.redFmax o)
  | 12 => keep (.redBfadd o)
  | 13 => keep (.redBfmin o)
  | 14 => keep (.redBfmax o)
  | _ => none
/-- cas, major 0x45 (R264): X[5:0] the new value, X[8:6] SZ, X[10:9] ORD. -/
def decCas (r : RR) : Option Instr := do
  let q ← decFin 2 r.d
  let a ← decSrc r.a
  let b ← decSrc r.b
  need (r.fn == 0 && r.x.extractLsb' 11 7 == 0)
  let c ← decReg (r.x.extractLsb' 0 6)
  let sz ← decSz (r.x.extractLsb' 6 3)
  let ord ← decOrd (r.x.extractLsb' 9 2)
  return .cas { q, a, b, sz, ord } c
/-- fence, major 0x46 (R265). -/
def decFence (r : RR) : Option Instr := do
  need (r.d == 0 && r.a == 0 && r.b == 0 && r.x.extractLsb' 3 15 == 0)
  let s ← decScope (r.x.extractLsb' 0 3)
  match r.fn.toNat with
  | 0 => some (.fenceAcq s) | 1 => some (.fenceRel s) | 2 => some (.fenceFull s) | _ => none

/-- The handle, ring, group and task majors 0x26, 0x48 to 0x5A (R258). -/
def decTask (maj : Nat) (r : RR) : Option Instr := do
  need (r.fn == 0)
  match maj with
  | 0x26 =>
    need (r.d == 0 && r.b == 0)
    return .wait (← decFin 6 r.x) (← decSrc r.a)
  | 0x48 =>
    let hf ← decH r.d
    need (r.x.extractLsb' 6 12 == 0)
    let hs ← if r.x = 0 then some none else (decH (r.x.extractLsb' 0 6)).map some
    keep (.tnew hf hs (← decSrc r.a) (← decSrc r.b))
  | 0x49 =>
    need (r.b == 0 && r.x == 0)
    return .hdup (← decH r.d) (← decH r.a)
  | 0x4A =>
    need (r.d == 0 && r.b == 0 && r.x == 0)
    return .hdrop (← decH r.a)
  | 0x4B =>
    need (r.d == 0 && r.x.extractLsb' 3 15 == 0)
    return .hsend (← decH r.a) (← decSrc r.b) (r.x.extractLsb' 0 2).toFin (r.x.extractLsb' 2 1 == 1)
  | 0x4C =>
    need (r.a == 0 && r.b == 0 && r.x.extractLsb' 2 16 == 0)
    return .hrecv (← decH r.d) (r.x.extractLsb' 0 2).toFin
  | 0x4D =>
    need (r.b == 0 && r.x == 0)
    return .hinfo (← decReg r.d) (← decH r.a)
  | 0x4E =>
    need (r.d == 0 && r.x.extractLsb' 16 2 == 0)
    return .tring (← decSrc r.a) (← decSrc r.b) (r.x.extractLsb' 0 6).toFin (r.x.extractLsb' 6 6).toFin
      (r.x.extractLsb' 12 4).toFin
  | 0x4F =>
    need (r.b == 0 && r.x.extractLsb' 4 6 == 0 && r.x.extractLsb' 16 2 == 0)
    return .tclaim (← decH r.d) (← decSrc r.a) (r.x.extractLsb' 0 4).toFin (← decReg (r.x.extractLsb' 10 6))
  | 0x50 =>
    need (r.b == 0 && r.x.extractLsb' 16 2 == 0)
    return .tnext (← decH r.d) (← decSrc r.a) (r.x.extractLsb' 0 4).toFin (r.x.extractLsb' 4 6).toFin
      (← decReg (r.x.extractLsb' 10 6))
  | 0x51 =>
    need (r.d == 0 && r.b == 0 && r.x.extractLsb' 4 14 == 0)
    return .tclose (← decSrc r.a) (r.x.extractLsb' 0 4).toFin
  | 0x52 =>
    need (r.d == 0 && r.x == 0)
    return .gdef (← decSrc r.a) (← decSrc r.b)
  | 0x53 =>
    need (r.d == 0 && r.b == 0 && r.x == 0)
    return .gdel (← decSrc r.a)
  | 0x54 =>
    need (r.x.extractLsb' 16 2 == 0)
    return .gsee (← decH r.d) (← decSrc r.a) (← decSrc r.b) (r.x.extractLsb' 0 4).toFin (r.x.extractLsb' 4 6).toFin
      (← decReg (r.x.extractLsb' 10 6))
  | 0x58 =>
    need (r.d == 0 && r.x == 0)
    keep (.spawn (← decSrc r.a) (← decReg r.b))
  | 0x59 =>
    need (r.b == 0 && r.x == 0)
    return .join (← decReg r.d) (← decSrc r.a)
  | 0x5A =>
    need (r.d == 0)
    return .enq (← decSrc r.a) (← decSrc r.b) (← decFin 6 r.x)
  | _ => none

/-- The bt family, major 0x5B (R285). -/
def decBt (r : RR) : Option Instr := do
  let d ← decReg r.d
  let a ← decSrc r.a
  let b ← decSrc r.b
  need (r.x == 0)
  match r.fn.toNat with
  | 0 => (need (r.b == 0)).map fun _ => .btAlloc d a
  | 1 => (need (r.b == 0)).map fun _ => .btFree d a
  | 2 => some (.btShare d a b)
  | 3 => (need (r.b == 0)).map fun _ => .btXl d a
  | _ => none

/-! ## Decoding engine units (R34, R328, R329) -/

/-- What the head word of an instruction asks for: nothing more, or the `tail` words that follow it. -/
inductive Head where
  | done (i : Instr)
  | more (tail : Nat) (fin : List Word → Option Instr)

/-- Parameters from four words. -/
def paramsOf : List Word → Option Params
  | [a, b, c, d] => some { p0 := a, p1 := b, p2 := c, p3 := d }
  | _ => none

/-- The command of a mill word by its major and X21; unused bits of X21 must be zero (R329). -/
def decMill (maj : Nat) (x : BitVec 21) : Option MillCmd := do
  let plane : Fin 2 := (x.extractLsb' 0 1).toFin
  match maj with
  | 0x68 =>
    need (x.extractLsb' 5 16 == 0)
    let f ← decFmt (x.extractLsb' 1 4)
    need f.isPlane
    return .lds plane f
  | 0x6A => (need (x.extractLsb' 1 20 == 0)).map fun _ => .mm plane
  | 0x6B =>
    need (x.extractLsb' 18 3 == 0)
    let t : Fin 128 := (x.extractLsb' 11 7).toFin
    need (decide (1 ≤ t.val ∧ t.val ≤ 64))
    return .mmr plane (x.extractLsb' 1 4).toFin (x.extractLsb' 5 6).toFin t
  | 0x6C =>
    need (x.extractLsb' 14 7 == 0)
    return .relax plane (x.extractLsb' 1 6).toFin (x.extractLsb' 7 7).toFin
  | 0x6D => (need (x.extractLsb' 1 20 == 0)).map fun _ => .relaxb plane
  | 0x6E => (need (x.extractLsb' 2 19 == 0)).map fun _ => .pwl (x.extractLsb' 0 2).toFin
  | 0x6F => (need (x.extractLsb' 4 17 == 0)).map fun _ => .chain plane (x.extractLsb' 1 3).toFin
  | _ => none

/-- The major and X21 of a mill command. -/
def MillCmd.fields : MillCmd → BitVec 8 × BitVec 21
  | .lds p f => (0x68, (0#16 ++ f.code ++ encFin 1 p : BitVec 21))
  | .mm p => (0x6A, (0#20 ++ encFin 1 p : BitVec 21))
  | .mmr p r j t => (0x6B, (0#3 ++ encFin 7 t ++ encFin 6 j ++ encFin 4 r ++ encFin 1 p : BitVec 21))
  | .relax p b n => (0x6C, (0#7 ++ encFin 7 n ++ encFin 6 b ++ encFin 1 p : BitVec 21))
  | .relaxb p => (0x6D, (0#20 ++ encFin 1 p : BitVec 21))
  | .pwl t => (0x6E, (0#19 ++ encFin 2 t : BitVec 21))
  | .chain p l => (0x6F, (0#17 ++ encFin 3 l ++ encFin 1 p : BitVec 21))

/-- The instruction of a mill command. -/
def MillCmd.instr (e : MillWord) : MillCmd → Instr
  | .lds p f => .mLds e p f
  | .mm p => .mMm e p
  | .mmr p r j t => .mMmr e p r j t
  | .relax p b n => .mRelax e p b n
  | .relaxb p => .mRelaxb e p
  | .pwl t => .mPwl e t
  | .chain p l => .mChain e p l

/-- A mill command word: Q 4 or 5, A, B, H and F zero, P one (R33, R328). -/
def decMillWord (w : Word) : Option (Fin 2 × Bool × Bool × MillCmd) := do
  let r := EC.of w
  need (r.a == 0 && r.b == 0 && r.h == 0 && r.p == 1 && r.f == 0)
  need (r.q == 4 || r.q == 5)
  let c ← decMill (bits w 45 8).toNat r.x
  return ((r.q.extractLsb' 0 1).toFin, r.i == 1, r.w == 1, c)

/-- A follow-on word: a mill command with IDLE 0 and SYNC 0 (R36). -/
def decFollow (w : Word) (p : Params) : Option FollowOn := do
  need (bits w 53 11 == 0)
  let (q, i, wb, c) ← decMillWord w
  return { word := { q, i, w := wb, p }, cmd := c }

/-- The carter command of a major and X21 (R329). -/
def decCarter (maj : Nat) (x : BitVec 21) (e : CarterWord) : Option Instr :=
  match maj with
  | 0x60 => (need (x == 0)).map fun _ => .cCopy e
  | 0x61 => if x = 0 then some (.cGath e) else if x = 1 then some (.cGathZ e) else none
  | 0x62 => (need (x == 0)).map fun _ => .cScat e
  | 0x63 => (need (x.extractLsb' 1 20 == 0)).map fun _ => .cFill e (x.extractLsb' 0 1 == 1)
  | 0x64 => (need (x == 0)).map fun _ => .cPut e
  | 0x65 => (need (x == 0)).map fun _ => .cGet e
  | 0x66 => do
    need (x.extractLsb' 7 14 == 0)
    let sz ← decSz (x.extractLsb' 4 3)
    match (x.extractLsb' 0 4).toNat with
    | 1 => keep (.cRedAdd e sz)
    | 2 => keep (.cRedAnd e sz)
    | 3 => keep (.cRedOr e sz)
    | 4 => keep (.cRedXor e sz)
    | 5 => keep (.cRedMin e sz)
    | 6 => keep (.cRedMax e sz)
    | 7 => keep (.cRedMinu e sz)
    | 8 => keep (.cRedMaxu e sz)
    | 9 => keep (.cRedFadd e sz)
    | 10 => keep (.cRedFmin e sz)
    | 11 => keep (.cRedFmax e sz)
    | 12 => keep (.cRedBfadd e sz)
    | 13 => keep (.cRedBfmin e sz)
    | 14 => keep (.cRedBfmax e sz)
    | _ => none
  | 0x67 => if x = 0 then some (.cPin e) else if x = 1 then some (.cPinOff e) else none
  | _ => none

/-- A carter unit's head, majors 0x60 to 0x67: a carter queue, A and B zero, P one, the words that follow (R328). -/
def decCarterHead (maj : Nat) (w : Word) : Option Head := do
  let r := EC.of w
  need (r.a == 0 && r.b == 0 && r.p == 1)
  let q ← decFin 4 r.q
  let z : Params := { p0 := 0, p1 := 0, p2 := 0, p3 := 0 }
  let e : CarterWord := { q, h := r.h.toFin, i := r.i == 1, w := r.w == 1, p := z, follow := none }
  let _ ← decCarter maj r.x e
  need (r.f == 0 || (maj != 0x64 && maj != 0x67))
  need (r.h == 0 || maj != 0x67)
  return .more (if r.f = 1 then 9 else 4) fun ws => do
    let p ← paramsOf (ws.take 4)
    if r.f = 1 then
      match ws.drop 4 with
      | fw :: rest =>
        let f ← decFollow fw (← paramsOf rest)
        decCarter maj r.x { e with p, follow := some f }
      | [] => none
    else decCarter maj r.x { e with p }

/-- A mill unit's head, majors 0x68 to 0x6F (R329). -/
def decMillHead (w : Word) : Option Head := do
  let (q, i, wb, c) ← decMillWord w
  return .more 4 fun ws => (paramsOf ws).map fun p => c.instr { q, i, w := wb, p }

/-- The queue commands, majors 0x70 to 0x73 (R348 to R351). -/
def decQueueHead (maj : Nat) (w : Word) : Option Head := do
  let r := EC.of w
  need (r.b == 0 && r.h == 0 && r.f == 0)
  let q ← decFin 6 r.q
  let e : QWord := { q, i := r.i == 1, w := r.w == 1 }
  match maj with
  | 0x70 =>
    need (r.a == 0 && r.p == 1 && r.x.extractLsb' 3 18 == 0)
    let m ← decFin 6 (r.x.extractLsb' 0 3)
    return .more 4 fun ws => (paramsOf ws).map fun p => .qWait e m p
  | 0x71 =>
    need (r.a == 0 && r.p == 0 && r.x.extractLsb' 6 15 == 0)
    return .done (.qFence e (r.x.extractLsb' 0 6))
  | 0x72 =>
    need (r.a == 0 && r.p == 0 && r.x == 0)
    return .done (.qSig e)
  | 0x73 =>
    need (r.p == 0 && r.i == 0 && r.w == 0 && r.x.extractLsb' 1 20 == 0)
    if r.x = 0 then
      need (r.a == 0)
      return .done (.qResume q none)
    return .done (.qResume q (some (← decSrc r.a)))
  | _ => none

/-- Any control-stream word, by its major (R37). -/
def decControl (w : Word) : Option Head :=
  let maj := (bits w 45 8).toNat
  let rr := RR.of w
  let one (o : Option Instr) : Option Head := o.map .done
  match maj with
  | 0x01 => one (decZero w .nop)
  | 0x02 => one (decAlu rr)
  | 0x03 | 0x04 | 0x05 | 0x06 | 0x07 | 0x08 | 0x09 | 0x0A | 0x0B => one (decImm maj (RI.of w))
  | 0x0C => one (decMulDiv false rr)
  | 0x0D => one (decMulDiv true rr)
  | 0x0E => one (decBit rr)
  | 0x0F => one (decBf false rr)
  | 0x10 => one (decBf true rr)
  | 0x11 => one (decLi false (LI.of w))
  | 0x12 => one (decLi true (LI.of w))
  | 0x13 => one (decLea false rr)
  | 0x14 => one (decLea true rr)
  | 0x18 => one (decB (BR.of w))
  | 0x19 => one (decJr rr)
  | 0x1A => one (decCall false (BR.of w))
  | 0x1C => one (decCall true (BR.of w))
  | 0x1D => one (decZero w .vjoin)
  | 0x1E => one (decZero w .halt)
  | 0x1F => one (decTrap true (RI.of w))
  | 0x20 => one (decTrap false (RI.of w))
  | 0x21 => one (decCsr rr)
  | 0x22 => one (decRet rr)
  | 0x24 => one (decUie false rr)
  | 0x25 => one (decUie true rr)
  | 0x27 => one (decTlbi rr)
  | 0x40 | 0x41 | 0x42 => one (decMem maj (MEM.of w))
  | 0x43 => one (decAmo rr)
  | 0x44 => one (decRed rr)
  | 0x45 => one (decCas rr)
  | 0x46 => one (decFence rr)
  | 0x26 | 0x48 | 0x49 | 0x4A | 0x4B | 0x4C | 0x4D | 0x4E | 0x4F | 0x50 | 0x51 | 0x52 | 0x53 | 0x54 | 0x58 | 0x59
  | 0x5A => one (decTask maj rr)
  | 0x5B => one (decBt rr)
  | 0x60 | 0x61 | 0x62 | 0x63 | 0x64 | 0x65 | 0x66 | 0x67 => decCarterHead maj w
  | 0x68 | 0x6A | 0x6B | 0x6C | 0x6D | 0x6E | 0x6F => decMillHead w
  | 0x70 | 0x71 | 0x72 | 0x73 => decQueueHead maj w
  | _ => none

/-! ## Decoding the vector stream -/

/-- A vector register field. -/
def vreg (c : BitVec 5) : Fin 32 := c.toFin
/-- A mask field of a register position: bits [4:3] zero (R130). -/
def decK (c : BitVec 5) : Option (Fin 8) := decFin 8 c

/-- The arithmetic family, major 0x81 (R131). -/
def decArith (r : VV) : Option Instr := do
  let ty ← decTy r.ty
  need (r.vc == 0 && r.i8 == 0)
  let o : Vvv := { ty, d := vreg r.vd, a := vreg r.va, b := vreg r.vb, k := r.k.toFin }
  let u : Vv := { ty, d := vreg r.vd, a := vreg r.va, k := r.k.toFin }
  let one (i : Instr) : Option Instr := do
    need (r.vb == 0)
    keep i
  match r.fn.toNat with
  | 0 => keep (.vadd o) | 1 => keep (.vsub o) | 2 => keep (.vmul o) | 3 => keep (.vmin o) | 4 => keep (.vmax o)
  | 5 => one (.vabs u) | 6 => one (.vneg u) | 7 => keep (.vdiv o) | 8 => one (.vsqrt u) | 9 => keep (.vcsgn o)
  | _ => none

/-- The fused family, major 0x82, and vclamp and vpwl, majors 0x87 and 0x88 (R134, R139, R140). -/
def decFused (maj : Nat) (r : VV) : Option Instr := do
  let ty ← decTy r.ty
  need (r.i8 == 0)
  let o : Vvvv := { ty, d := vreg r.vd, a := vreg r.va, b := vreg r.vb, c := vreg r.vc, k := r.k.toFin }
  match maj, r.fn.toNat with
  | 0x82, 0 => keep (.vfma o) | 0x82, 1 => keep (.vfms o) | 0x82, 2 => keep (.vfnma o) | 0x82, 3 => keep (.vfnms o)
  | 0x87, 0 => keep (.vclamp o) | 0x88, 0 => keep (.vpwl o) | _, _ => none

/-- The logic family, major 0x83 (R135): FN10[3] selects the immediate amount. -/
def decLogic (r : VV) : Option Instr := do
  let ty ← decTy r.ty
  need (r.vc == 0)
  let o : Vvv := { ty, d := vreg r.vd, a := vreg r.va, b := vreg r.vb, k := r.k.toFin }
  let n : Vvi := { ty, d := vreg r.vd, a := vreg r.va, n := r.i8, k := r.k.toFin }
  if r.fn.toNat < 8 then
    need (r.i8 == 0)
    match r.fn.toNat with
    | 0 => keep (.vand o) | 1 => keep (.vor o) | 2 => keep (.vxor o) | 3 => keep (.vandn o) | 4 => keep (.vshl o)
    | 5 => keep (.vshr o) | 6 => keep (.vsra o) | 7 => keep (.vrol o) | _ => none
  else
    need (r.vb == 0)
    match r.fn.toNat with
    | 12 => keep (.vshlImmediate n) | 13 => keep (.vshrImmediate n) | 14 => keep (.vsraImmediate n)
    | 15 => keep (.vrolImmediate n) | _ => none

/-- vcmp, major 0x84 (R136). -/
def decVcmp (r : VV) : Option Instr := do
  let ty ← decTy r.ty
  need (r.vc == 0 && r.i8 == 0)
  let o : Vcmp := { ty, d := ← decK r.vd, a := vreg r.va, b := vreg r.vb, k := r.k.toFin }
  match r.fn.toNat with
  | 0 => keep (.vcmpEq o) | 1 => keep (.vcmpNe o) | 2 => keep (.vcmpLt o) | 3 => keep (.vcmpLe o)
  | 4 => keep (.vcmpGt o) | 5 => keep (.vcmpGe o) | 6 => keep (.vcmpUn o) | 7 => keep (.vcmpOrd o) | _ => none

/-- vcvt, major 0x85, and vclass, major 0x90 (R137, R138). -/
def decVcvt (cls : Bool) (r : VV) : Option Instr := do
  let ty ← decTy r.ty
  need (r.vb == 0 && r.vc == 0 && r.i8 == 0)
  let o : Vv := { ty, d := vreg r.vd, a := vreg r.va, k := r.k.toFin }
  if cls then
    need (r.fn == 0)
    keep (.vclass o)
  else
    need (r.fn.extractLsb' 5 5 == 0)
    return .vcvt o (← decTy (r.fn.extractLsb' 0 4)) (r.fn.extractLsb' 4 1 == 1)

/-- The lane-movement words and vsel, majors 0x86, 0x89 to 0x8C and 0x91 (R139, R141). -/
def decMove (maj : Nat) (r : VV) : Option Instr := do
  let d := vreg r.vd
  let a := vreg r.va
  let k : Fin 8 := r.k.toFin
  let n : Fin 64 := (r.i8.extractLsb' 0 6).toFin
  match maj, r.fn.toNat with
  | 0x86, 0 =>
    need (r.ty == 0 && r.i8 == 0)
    return .vsel d a (vreg r.vb) (← decK r.vc) k
  | 0x89, 0 =>
    need (r.ty == 0 && r.vc == 0 && r.i8 == 0)
    return .vperm d a (vreg r.vb) k
  | 0x8A, 0 =>
    need (r.ty == 0 && r.vb == 0 && r.vc == 0 && r.i8.extractLsb' 6 2 == 0)
    return .vrot d a n k
  | 0x8B, 0 =>
    need (r.ty == 0 && r.vb == 0 && r.vc == 0 && r.i8.extractLsb' 6 2 == 0)
    return .vbcast d a n k
  | 0x8B, 1 =>
    need (r.ty == 0 && r.vb == 0 && r.vc == 0 && r.i8 == 0 && r.va.extractLsb' 4 1 == 0)
    return .vbcastScalar d (decAb (r.va.extractLsb' 0 4)) k
  | 0x8C, 0 =>
    need (r.va == 0 && r.vb == 0 && r.vc == 0 && r.i8 == 0)
    keep (.viota (← decTy r.ty) d k)
  | 0x91, 0 =>
    need (r.ty == 0 && r.vb == 0 && r.vc == 0 && r.i8 == 0)
    return .vmov d a k
  | _, _ => none

/-- vfold and vscan, majors 0x8D and 0x8E (R142, R143). -/
def decFold (scan : Bool) (r : VV) : Option Instr := do
  let ty ← decTy r.ty
  need (r.vb == 0 && r.vc == 0 && r.i8 == 0)
  let o : Vv := { ty, d := vreg r.vd, a := vreg r.va, k := r.k.toFin }
  match scan, r.fn.toNat with
  | false, 0 => keep (.vfoldAdd o) | false, 1 => keep (.vfoldMin o) | false, 2 => keep (.vfoldMax o)
  | false, 3 => keep (.vfoldAnd o) | false, 4 => keep (.vfoldOr o) | false, 5 => keep (.vfoldXor o)
  | true, 0 => keep (.vscanAdd o) | true, 1 => keep (.vscanMin o) | true, 2 => keep (.vscanMax o)
  | true, 3 => keep (.vscanAnd o) | true, 4 => keep (.vscanOr o) | true, 5 => keep (.vscanXor o)
  | _, _ => none

/-- vpart, major 0x8F (R144). -/
def decVpart (r : VV) : Option Instr := do
  need (r.ty == 0 && r.k == 0 && r.vb == 0 && r.vc == 0 && r.fn == 0 && r.i8.extractLsb' 4 4 == 0)
  keep (.vpart (vreg r.vd) (← decK r.va) (← decA (r.i8.extractLsb' 0 4)))

/-- The mask family, major 0x98 (R145). -/
def decMask (r : VV) : Option Instr := do
  need (r.ty == 0 && r.k == 0 && r.vc == 0)
  let d ← decK r.vd
  let z := r.i8 == 0
  match r.fn.toNat with
  | 0 => (need z).bind fun _ => do return .kand d (← decK r.va) (← decK r.vb)
  | 1 => (need z).bind fun _ => do return .kor d (← decK r.va) (← decK r.vb)
  | 2 => (need z).bind fun _ => do return .kxor d (← decK r.va) (← decK r.vb)
  | 3 => (need (z && r.vb == 0)).bind fun _ => do return .knot d (← decK r.va)
  | 4 => (need (z && r.vb == 0)).bind fun _ => do return .kmov d (← decK r.va)
  | 5 => (need (r.va == 0 && r.vb == 0)).bind fun _ => do return .kset d (← decFin 65 r.i8)
  | 6 => (need (z && r.vb == 0 && r.va.extractLsb' 4 1 == 0)).map fun _ =>
      .ksetRegister d (decAb (r.va.extractLsb' 0 4))
  | _ => none

/-- vflag, major 0x99 (R146). -/
def decVflag (r : VV) : Option Instr := do
  need (r.ty == 0 && r.vd == 0 && r.vb == 0 && r.vc == 0 && r.fn == 0 && r.i8 == 0)
  return .vflag (← decK r.va) r.k.toFin

/-- A local vector address: AM 1 to 3; an increment needs an address register (R147). -/
def decVAddr (n : Nat) (am ab : BitVec 4) (off : BitVec n) : Option (VAddr n) :=
  match am.toNat with
  | 1 => some (.loc (decAb ab) off)
  | 2 => (decA ab).map (.postInc · off)
  | 3 => (decA ab).map (.preInc · off)
  | _ => none
/-- The AM and AB codes and the offset of a local vector address. -/
def VAddr.fields {n : Nat} : VAddr n → BitVec 4 × BitVec 4 × BitVec n
  | .loc b o => (1, b.code, o) | .postInc a o => (2, encFin 4 a, o) | .preInc a o => (3, encFin 4 a, o)

/-- The memory words, majors 0xA0 to 0xA7 (R147). -/
noncomputable def decVm (maj : Nat) (r : VM) : Option Instr := do
  let v := vreg r.vd
  let k : Fin 8 := r.k.toFin
  match maj with
  | 0xA0 => return .vld (← decTy r.ty) v (← decVAddr 25 r.am r.ab r.off) k
  | 0xA1 => return .vst (← decTy r.ty) v (← decVAddr 25 r.am r.ab r.off) k
  | 0xA2 =>
    return .vldx (← decTy r.ty) v (← decVAddr 20 r.am r.ab (r.off.extractLsb' 0 20)) (vreg (r.off.extractLsb' 20 5)) k
  | 0xA3 =>
    return .vstx (← decTy r.ty) v (← decVAddr 20 r.am r.ab (r.off.extractLsb' 0 20)) (vreg (r.off.extractLsb' 20 5)) k
  | 0xA4 =>
    let q ← decFin 2 r.vd
    let ty ← decTy r.ty
    match r.am.toNat with
    | 0 => some (.vldq ty q (.plain (decAb r.ab) r.off) k)
    | 5 => some (.vldq ty q (.group (decAb r.ab) r.off) k)
    | 6 => some (.vldq ty q (.zue (decAb r.ab) r.off) k)
    | _ => none
  | 0xA5 =>
    need (r.am == 0 && r.ty == 0 && r.ab == 0 && r.off.extractLsb' 1 24 == 0)
    return .vpop v (r.off.extractLsb' 0 1).toFin k
  | 0xA6 =>
    let off := r.off.extractLsb' 0 20
    let addr ← match r.am.toNat with
      | 0 => some (.plain (decAb r.ab) off)
      | 1 => some (.loc (decAb r.ab) off)
      | _ => none
    let o : Vamo := { ty := ← decTy r.ty, q := (r.off.extractLsb' 20 1).toFin, s := v, addr, k }
    match (r.off.extractLsb' 21 4).toNat with
    | 0 => keep (.vamoSwap o) | 1 => keep (.vamoAdd o) | 2 => keep (.vamoMin o) | 3 => keep (.vamoMax o)
    | 4 => keep (.vamoAnd o) | 5 => keep (.vamoOr o) | 6 => keep (.vamoXor o) | _ => none
  | 0xA7 =>
    let o : Vredm := { ty := ← decTy r.ty, s := v, addr := ← decVAddr 21 r.am r.ab (r.off.extractLsb' 0 21), k }
    match (r.off.extractLsb' 21 4).toNat with
    | 1 => keep (.vredmAdd o) | 2 => keep (.vredmMin o) | 3 => keep (.vredmMax o) | 4 => keep (.vredmAnd o)
    | 5 => keep (.vredmOr o) | 6 => keep (.vredmXor o) | _ => none
  | _ => none

/-- The address-register, loop, branch and bank words, majors 0xB0 to 0xB7 (R156 to R160). -/
noncomputable def decVs (maj : Nat) (r : VS) : Option Instr := do
  match maj with
  | 0xB0 =>
    let d ← decA r.ad
    let a := decAb r.as_
    match r.lc.toNat with
    | 0 => some (.aadd d a r.imm)
    | 1 => some (.asub d a r.imm)
    | 2 => (need (r.imm.extractLsb' 6 26 == 0)).map fun _ => .ashl d a (r.imm.extractLsb' 0 6).toFin
    | 3 => (need (r.imm == 0)).map fun _ => .amov d a
    | 4 => (decFin 12 r.imm).map (.aaddRegister d a ·)
    | 5 => (decFin 12 r.imm).map (.asubRegister d a ·)
    | _ => none
  | 0xB1 =>
    need (r.lc == 0 && r.as_ == 0)
    return .ali (← decA r.ad) r.imm
  | 0xB2 =>
    need (r.lc == 0 && r.imm == 0 && decide (12 ≤ r.as_.toNat))
    return .apop (← decA r.ad) (r.as_.extractLsb' 0 2).toFin
  | 0xB3 =>
    need (r.ad == 0 && r.lc.extractLsb' 3 2 == 0)
    let l : Fin 4 := (r.lc.extractLsb' 0 2).toFin
    if r.lc.extractLsb' 2 1 = 1 then
      need (r.as_ == 0 && r.imm == 0)
      return .loopOff l
    keep (.loop l (decAb r.as_) r.imm)
  | 0xB4 =>
    match r.lc.toNat with
    | 0 => (need (r.ad == 0 && r.as_ == 0)).map fun _ => .vbr r.imm
    | 1 => (need (r.as_ == 0)).bind fun _ => (decA r.ad).map (.vbrZ · r.imm)
    | 2 => (need (r.as_ == 0)).bind fun _ => (decA r.ad).map (.vbrNz · r.imm)
    | 3 => (need (r.as_ == 0)).bind fun _ => (decA r.ad).map (.vbrNeg · r.imm)
    | 4 => (need (r.as_ == 0)).bind fun _ => (decA r.ad).map (.vbrNneg · r.imm)
    | 5 => (need (r.ad == 0)).bind fun _ => (decFin 8 r.as_).map (.vbrKany · r.imm)
    | 6 => (need (r.ad == 0)).bind fun _ => (decFin 8 r.as_).map (.vbrKnone · r.imm)
    | _ => none
  | 0xB6 => (need (r.ad == 0 && r.as_ == 0 && r.lc == 0 && r.imm == 0)).map fun _ => .vend
  | 0xB7 =>
    need (r.ad == 0 && r.as_ == 0 && r.imm == 0 && r.lc.extractLsb' 2 3 == 0)
    let b : LendBank := if r.lc.extractLsb' 0 1 = 1 then .vb3 else .vb2
    if r.lc.extractLsb' 1 1 = 1 then return .vreclaim b else return .vlend b
  | _ => none

/-- Any vector-stream word, by its major (R37). -/
noncomputable def decVector (w : Word) : Option Instr :=
  let maj := (bits w 45 8).toNat
  let vv := VV.of w
  match maj with
  | 0x80 => decZero w .vnop
  | 0x81 => decArith vv
  | 0x82 | 0x87 | 0x88 => decFused maj vv
  | 0x83 => decLogic vv
  | 0x84 => decVcmp vv
  | 0x85 => decVcvt false vv
  | 0x90 => decVcvt true vv
  | 0x86 | 0x89 | 0x8A | 0x8B | 0x8C | 0x91 => decMove maj vv
  | 0x8D => decFold false vv
  | 0x8E => decFold true vv
  | 0x8F => decVpart vv
  | 0x98 => decMask vv
  | 0x99 => decVflag vv
  | 0xA0 | 0xA1 | 0xA2 | 0xA3 | 0xA4 | 0xA5 | 0xA6 | 0xA7 => decVm maj (VM.of w)
  | 0xB0 | 0xB1 | 0xB2 | 0xB3 | 0xB4 | 0xB6 | 0xB7 => decVs maj (VS.of w)
  | _ => none

/-- The head of a word that a stream offers, after the checks of R38 in their order: MAJ 0, the other stream's range, an
unassigned major, and then the fields. -/
noncomputable def decodeHead (st : Stream) (w : Word) : Except Reject Head :=
  let maj := (bits w 45 8).toNat
  if maj = 0 then .error .illegal
  else match st with
    | .control =>
      if 0x80 ≤ maj ∧ maj ≤ 0xDF then .error .wrongStream
      else match decControl w with
        | some h => .ok h
        | none => .error .illegal
    | .vector =>
      if maj ≤ 0x7F then .error .wrongStream
      else match decVector w with
        | some i => .ok (.done i)
        | none => .error .illegal

/-- The instruction of a unit: its head word and the words that follow it, of which it takes the first ones. -/
noncomputable def decodeUnit (st : Stream) (w : Word) (rest : List Word) : Except Reject Slot :=
  match decodeHead st w with
  | .error r => .error r
  | .ok (.done i) => .ok { idle := bits w 54 10, sync := bits w 53 1 == 1, instr := i }
  | .ok (.more n fin) =>
    match fin (rest.take n) with
    | some i => .ok { idle := bits w 54 10, sync := bits w 53 1 == 1, instr := i }
    | none => .error .illegal

/-- The words that follow the head word of an instruction (R23). -/
def Instr.tail : Instr → Nat
  | .cCopy e | .cGath e | .cGathZ e | .cScat e | .cPut e | .cGet e | .cPin e | .cPinOff e | .cFill e _
  | .cRedAdd e _ | .cRedAnd e _ | .cRedOr e _ | .cRedXor e _ | .cRedMin e _ | .cRedMax e _ | .cRedMinu e _
  | .cRedMaxu e _ | .cRedFadd e _ | .cRedFmin e _ | .cRedFmax e _ | .cRedBfadd e _ | .cRedBfmin e _
  | .cRedBfmax e _ => if e.follow.isSome then 9 else 4
  | .mLds _ _ _ | .mMm _ _ | .mMmr _ _ _ _ _ | .mRelax _ _ _ _ | .mRelaxb _ _ | .mPwl _ _ | .mChain _ _ _
  | .qWait _ _ _ => 4
  | _ => 0

/-- The stream that a major belongs to. -/
def streamOf (w : Word) : Stream := if 0x80 ≤ (bits w 45 8).toNat then .vector else .control

/-- The words of an instruction whose first `nbits` bits are those of `w`, numbered as the opcode table numbers bits: the first 64
are the instruction word, the following ones the words after it; every bit from `nbits` on is 0. -/
def tableWords : Nat → Nat → Nat → List Word
  | 0, _, _ => []
  | k + 1, nbits, w =>
    BitVec.ofNat 64 (if 64 ≤ nbits then w else w % 2 ^ nbits) :: tableWords k (nbits - 64) (w / 2 ^ 64)
/-- The instruction in a word numbered as the opcode table numbers its bits; the longest unit is ten words (R34). -/
noncomputable def decodeTableWord (nbits w : Nat) : Option Instr :=
  match tableWords 10 nbits w with
  | h :: t => match decodeUnit (streamOf h) h t with
    | .ok s => some s.instr
    | .error _ => none
  | [] => none

/-! ## Encoding, from the same tables -/

/-- An RR word's major and body. -/
def rr (maj : BitVec 8) (d a b : BitVec 6) (fn : BitVec 9) (x : BitVec 18) : BitVec 8 × BitVec 45 :=
  (maj, RR.body { d, a, b, fn, x })
/-- An alu word's major and body. -/
def rrr (maj : BitVec 8) (fn : BitVec 9) (o : Rrr) (x : BitVec 18 := 0) : BitVec 8 × BitVec 45 :=
  rr maj (encDst o.d) (encSrc o.a) (encSrc o.b) fn x
/-- An immediate form's major and body. -/
def rri (maj : BitVec 8) (o : Rri) : BitVec 8 × BitVec 45 :=
  (maj, RI.body { d := encDst o.d, a := encSrc o.a, imm := o.imm })
/-- A BR word's major and body. -/
def br (maj : BitVec 8) (cc : BitVec 4) (a b : BitVec 6) (disp : BitVec 29) : BitVec 8 × BitVec 45 :=
  (maj, BR.body { cc, a, b, disp })
/-- A comparing branch. -/
def bcc (cc : BitVec 4) (o : Bcc) : BitVec 8 × BitVec 45 := br 0x18 cc (encSrc o.a) (encSrc o.b) o.disp
/-- A MEM word's major and body. -/
def mem (maj : BitVec 8) (d : BitVec 6) (f : BitVec 4 × BitVec 6 × BitVec 24) (sz : BitVec 3) (ord : BitVec 2) :
    BitVec 8 × BitVec 45 :=
  (maj, MEM.body { d, base := f.2.1, sz, am := f.1, ord, off := f.2.2 })
/-- An amo word. -/
def amo (fn : BitVec 9) (o : Amo) : BitVec 8 × BitVec 45 :=
  rr 0x43 (encFin 6 o.q) (encSrc o.a) (encSrc o.b) fn (0#13 ++ o.ord.code ++ o.sz.code : BitVec 18)
/-- A red word. -/
def red (fn : BitVec 9) (o : Red) : BitVec 8 × BitVec 45 :=
  rr 0x44 0 (encSrc o.a) (encSrc o.b) fn (0#13 ++ o.ord.code ++ o.sz.code : BitVec 18)
/-- A carter unit's major and body. -/
def carter (maj : BitVec 8) (e : CarterWord) (x : BitVec 21) : BitVec 8 × BitVec 45 :=
  (maj, EC.body { q := encFin 4 e.q, a := 0, b := 0, h := encFin 4 e.h, p := 1, f := bit e.follow.isSome
                  i := bit e.i, w := bit e.w, x })
/-- A c.red unit's X21: the operation and SZ (R329). -/
def credX (fn : BitVec 4) (sz : Sz) : BitVec 21 := (0#14 ++ sz.code ++ fn : BitVec 21)
/-- A mill unit's major and body. -/
def mill (e : MillWord) (c : MillCmd) : BitVec 8 × BitVec 45 :=
  (c.fields.1, EC.body { q := (0b010#3 ++ encFin 1 e.q : BitVec 4), a := 0, b := 0, h := 0, p := 1, f := 0
                         i := bit e.i, w := bit e.w, x := c.fields.2 })
/-- A queue word's major and body. -/
def queue (maj : BitVec 8) (q : Fin 6) (i w : Bool) (p : BitVec 1) (a : BitVec 6) (x : BitVec 21) :
    BitVec 8 × BitVec 45 :=
  (maj, EC.body { q := encFin 4 q, a, b := 0, h := 0, p, f := 0, i := bit i, w := bit w, x })
/-- A VV word's major and body. -/
def vv (maj : BitVec 8) (vd va vb vc : BitVec 5) (k : Fin 8) (ty : BitVec 4) (fn : BitVec 10) (i8 : BitVec 8 := 0) :
    BitVec 8 × BitVec 45 :=
  (maj, VV.body { vd, va, vb, vc, k := encFin 3 k, ty, fn, i8 })
/-- A vector register's field. -/
def vf {n : Nat} (r : Fin n) : BitVec 5 := encFin 5 r
/-- A two-source vector word. -/
def v3 (maj : BitVec 8) (fn : BitVec 10) (o : Vvv) : BitVec 8 × BitVec 45 :=
  vv maj (vf o.d) (vf o.a) (vf o.b) 0 o.k o.ty.code fn
/-- A one-source vector word. -/
def v2 (maj : BitVec 8) (fn : BitVec 10) (o : Vv) : BitVec 8 × BitVec 45 :=
  vv maj (vf o.d) (vf o.a) 0 0 o.k o.ty.code fn
/-- A three-source vector word. -/
def v4 (maj : BitVec 8) (fn : BitVec 10) (o : Vvvv) : BitVec 8 × BitVec 45 :=
  vv maj (vf o.d) (vf o.a) (vf o.b) (vf o.c) o.k o.ty.code fn
/-- A shift by an immediate amount. -/
def vi (fn : BitVec 10) (o : Vvi) : BitVec 8 × BitVec 45 :=
  vv 0x83 (vf o.d) (vf o.a) 0 0 o.k o.ty.code fn o.n
/-- A comparison. -/
def vc (fn : BitVec 10) (o : Vcmp) : BitVec 8 × BitVec 45 :=
  vv 0x84 (vf o.d) (vf o.a) (vf o.b) 0 o.k o.ty.code fn
/-- A VM word's major and body. -/
def vm (maj : BitVec 8) (vd : BitVec 5) (am ab : BitVec 4) (k : Fin 8) (ty : BitVec 4) (off : BitVec 25) :
    BitVec 8 × BitVec 45 :=
  (maj, VM.body { vd, ab, k := encFin 3 k, ty, am, off })
/-- The AM and AB codes of a vldq address. -/
def VqAddr.fields : VqAddr → BitVec 4 × BitVec 4 × BitVec 25
  | .plain b o => (0, b.code, o) | .group b o => (5, b.code, o) | .zue b o => (6, b.code, o)
/-- The AM and AB codes of a vamo address. -/
def VaAddr.fields : VaAddr → BitVec 4 × BitVec 4 × BitVec 20
  | .plain b o => (0, b.code, o) | .loc b o => (1, b.code, o)
/-- A vamo word. -/
def va (op : BitVec 4) (o : Vamo) : BitVec 8 × BitVec 45 :=
  vm 0xA6 (vf o.s) o.addr.fields.1 o.addr.fields.2.1 o.k o.ty.code (op ++ encFin 1 o.q ++ o.addr.fields.2.2 : BitVec 25)
/-- A vredm word. -/
def vr (op : BitVec 4) (o : Vredm) : BitVec 8 × BitVec 45 :=
  vm 0xA7 (vf o.s) o.addr.fields.1 o.addr.fields.2.1 o.k o.ty.code (op ++ o.addr.fields.2.2 : BitVec 25)
/-- A VS word's major and body. -/
def vs (maj : BitVec 8) (ad as_ : BitVec 4) (lc : BitVec 5) (imm : BitVec 32) : BitVec 8 × BitVec 45 :=
  (maj, VS.body { ad, as_, lc, imm })
/-- The LC of a lend word (R160). -/
def lendLc (reclaim : Bool) (b : LendBank) : BitVec 5 :=
  (0#3 ++ bit reclaim ++ bit (match b with | .vb2 => false | .vb3 => true) : BitVec 5)

/-- The major and body of an instruction; none for an event of the machine. -/
def Instr.majBody : Instr → Option (BitVec 8 × BitVec 45)
  | .nop => some (0x01, 0)
  | .add o => some (rrr 0x02 0 o)
  | .sub o => some (rrr 0x02 1 o)
  | .and o => some (rrr 0x02 2 o)
  | .or o => some (rrr 0x02 3 o)
  | .xor o => some (rrr 0x02 4 o)
  | .andn o => some (rrr 0x02 5 o)
  | .shl o => some (rrr 0x02 6 o)
  | .shr o => some (rrr 0x02 7 o)
  | .sra o => some (rrr 0x02 8 o)
  | .rot o => some (rrr 0x02 9 o)
  | .min o => some (rrr 0x02 10 o)
  | .max o => some (rrr 0x02 11 o)
  | .minu o => some (rrr 0x02 12 o)
  | .maxu o => some (rrr 0x02 13 o)
  | .slt o => some (rrr 0x02 14 o)
  | .sltu o => some (rrr 0x02 15 o)
  | .seq o => some (rrr 0x02 16 o)
  | .sel o c => some (rrr 0x02 17 o (encFin 18 c))
  | .addImmediate o => some (rri 3 o)
  | .andImmediate o => some (rri 4 o)
  | .orImmediate o => some (rri 5 o)
  | .xorImmediate o => some (rri 6 o)
  | .shlImmediate o => some (rri 7 o)
  | .shrImmediate o => some (rri 8 o)
  | .sraImmediate o => some (rri 9 o)
  | .sltImmediate o => some (rri 10 o)
  | .sltuImmediate o => some (rri 11 o)
  | .mul o => some (rrr 0x0C 0 o)
  | .mulh o => some (rrr 0x0C 1 o)
  | .mulhu o => some (rrr 0x0C 2 o)
  | .div o => some (rrr 0x0D 0 o)
  | .divu o => some (rrr 0x0D 1 o)
  | .rem o => some (rrr 0x0D 2 o)
  | .remu o => some (rrr 0x0D 3 o)
  | .clz d a => some (rr 0x0E (encDst d) (encSrc a) 0 0 0)
  | .ctz d a => some (rr 0x0E (encDst d) (encSrc a) 0 1 0)
  | .popc d a => some (rr 0x0E (encDst d) (encSrc a) 0 2 0)
  | .bswap d a => some (rr 0x0E (encDst d) (encSrc a) 0 3 0)
  | .sext d a n => some (rr 0x0E (encDst d) (encSrc a) 0 4 (encFin 18 n))
  | .zext d a n => some (rr 0x0E (encDst d) (encSrc a) 0 5 (encFin 18 n))
  | .bfx d a lo w => some (rr 0x0F (encDst d) (encSrc a) 0 0 (0#6 ++ encFin 6 w ++ encFin 6 lo : BitVec 18))
  | .bfi d a lo w => some (rr 0x10 (encReg d) (encSrc a) 0 0 (0#6 ++ encFin 6 w ++ encFin 6 lo : BitVec 18))
  | .li d imm => some (0x11, LI.body { d := encDst d, imm })
  | .lih d imm => some (0x12, LI.body { d := encReg d, imm := (0#14 ++ imm : BitVec 39) })
  | .lea o sh disp => some (rrr 0x13 0 o (encFin 3 sh ++ disp : BitVec 18))
  | .gaddr o => some (rrr 0x14 0 o)
  | .bEq o => some (bcc 0 o)
  | .bNe o => some (bcc 1 o)
  | .bLt o => some (bcc 2 o)
  | .bGe o => some (bcc 3 o)
  | .bLtu o => some (bcc 4 o)
  | .bGeu o => some (bcc 5 o)
  | .bAl disp => some (br 0x18 6 0 0 disp)
  | .bFany disp => some (br 0x18 7 0 0 disp)
  | .bFall disp => some (br 0x18 8 0 0 disp)
  | .bFnone disp => some (br 0x18 9 0 0 disp)
  | .call disp => some (br 0x1A 0 0 0 disp)
  | .jr d a => some (rr 0x19 (encReg d) (encSrc a) 0 0 0)
  | .vgo disp => some (br 0x1C 0 0 0 disp)
  | .vjoin => some (0x1D, 0)
  | .halt => some (0x1E, 0)
  | .trap imm => some (0x20, RI.body { d := 0, a := 0, imm })
  | .sys imm => some (0x1F, RI.body { d := 0, a := 0, imm })
  | .csrr d n => some (rr 0x21 (encReg d) 0 0 0 (0#6 ++ n : BitVec 18))
  | .csrw n a => some (rr 0x21 0 (encSrc a) 0 1 (0#6 ++ n : BitVec 18))
  | .csrs d n a => some (rr 0x21 (encReg d) (encSrc a) 0 2 (0#6 ++ n : BitVec 18))
  | .csrc d n a => some (rr 0x21 (encReg d) (encSrc a) 0 3 (0#6 ++ n : BitVec 18))
  | .uret => some (rr 0x22 0 0 0 0 0)
  | .kret => some (rr 0x22 0 0 0 1 0)
  | .uie d => some (rr 0x24 (encReg d) 0 0 0 0)
  | .uid d => some (rr 0x24 (encReg d) 0 0 1 0)
  | .fget d => some (rr 0x25 (encDst d) 0 0 0 0)
  | .tlbiPage a b => some (rr 0x27 0 (encReg a) (encReg b) 0 0)
  | .tlbiContext a => some (rr 0x27 0 (encReg a) 0 1 0)
  | .tlbiAll => some (rr 0x27 0 0 0 2 0)
  | .ld d addr sz ord => some (mem 0x40 (encReg d) addr.fields sz.code ord.code)
  | .st d addr sz ord => some (mem 0x41 (encReg d) addr.fields sz.code ord.code)
  | .ldq q addr sz ord => some (mem 0x42 (encFin 6 q) addr.fields sz.code ord.code)
  | .amoSwap o => some (amo 0 o)
  | .amoAdd o => some (amo 1 o)
  | .amoAnd o => some (amo 2 o)
  | .amoOr o => some (amo 3 o)
  | .amoXor o => some (amo 4 o)
  | .amoMin o => some (amo 5 o)
  | .amoMax o => some (amo 6 o)
  | .amoMinu o => some (amo 7 o)
  | .amoMaxu o => some (amo 8 o)
  | .amoFadd o => some (amo 9 o)
  | .amoFmin o => some (amo 10 o)
  | .amoFmax o => some (amo 11 o)
  | .amoBfadd o => some (amo 12 o)
  | .amoBfmin o => some (amo 13 o)
  | .amoBfmax o => some (amo 14 o)
  | .redAdd o => some (red 1 o)
  | .redAnd o => some (red 2 o)
  | .redOr o => some (red 3 o)
  | .redXor o => some (red 4 o)
  | .redMin o => some (red 5 o)
  | .redMax o => some (red 6 o)
  | .redMinu o => some (red 7 o)
  | .redMaxu o => some (red 8 o)
  | .redFadd o => some (red 9 o)
  | .redFmin o => some (red 10 o)
  | .redFmax o => some (red 11 o)
  | .redBfadd o => some (red 12 o)
  | .redBfmin o => some (red 13 o)
  | .redBfmax o => some (red 14 o)
  | .cas o c => some (rr 0x45 (encFin 6 o.q) (encSrc o.a) (encSrc o.b) 0 (0#7 ++ o.ord.code ++ o.sz.code ++ encReg c : BitVec 18))
  | .fenceAcq s => some (rr 0x46 0 0 0 0 (0#15 ++ s.code : BitVec 18))
  | .fenceRel s => some (rr 0x46 0 0 0 1 (0#15 ++ s.code : BitVec 18))
  | .fenceFull s => some (rr 0x46 0 0 0 2 (0#15 ++ s.code : BitVec 18))
  | .wait q a => some (rr 0x26 0 (encSrc a) 0 0 (encFin 18 q))
  | .tnew hf hs a b => some (rr 0x48 (encH hf) (encSrc a) (encSrc b) 0 (match hs with | none => 0 | some h => (0#12 ++ encH h : BitVec 18)))
  | .hdup hd ha => some (rr 0x49 (encH hd) (encH ha) 0 0 0)
  | .hdrop h => some (rr 0x4A 0 (encH h) 0 0 0)
  | .hsend h b m n => some (rr 0x4B 0 (encH h) (encSrc b) 0 (0#15 ++ bit n ++ encFin 2 m : BitVec 18))
  | .hrecv h m => some (rr 0x4C (encH h) 0 0 0 (encFin 18 m))
  | .hinfo d h => some (rr 0x4D (encReg d) (encH h) 0 0 0)
  | .tring a b s c r => some (rr 0x4E 0 (encSrc a) (encSrc b) 0 (0#2 ++ encFin 4 r ++ encFin 6 c ++ encFin 6 s : BitVec 18))
  | .tclaim h a r sd => some (rr 0x4F (encH h) (encSrc a) 0 0 (0#2 ++ encReg sd ++ 0#6 ++ encFin 4 r : BitVec 18))
  | .tnext h a r j sd => some (rr 0x50 (encH h) (encSrc a) 0 0 (0#2 ++ encReg sd ++ encFin 6 j ++ encFin 4 r : BitVec 18))
  | .tclose a r => some (rr 0x51 0 (encSrc a) 0 0 (encFin 18 r))
  | .gdef a b => some (rr 0x52 0 (encSrc a) (encSrc b) 0 0)
  | .gdel a => some (rr 0x53 0 (encSrc a) 0 0 0)
  | .gsee h a b r j sd => some (rr 0x54 (encH h) (encSrc a) (encSrc b) 0 (0#2 ++ encReg sd ++ encFin 6 j ++ encFin 4 r : BitVec 18))
  | .spawn a b => some (rr 0x58 0 (encSrc a) (encReg b) 0 0)
  | .join d a => some (rr 0x59 (encReg d) (encSrc a) 0 0 0)
  | .enq a b q => some (rr 0x5A 0 (encSrc a) (encSrc b) 0 (encFin 18 q))
  | .btAlloc d a => some (rr 0x5B (encReg d) (encSrc a) 0 0 0)
  | .btFree d a => some (rr 0x5B (encReg d) (encSrc a) 0 1 0)
  | .btShare d a b => some (rr 0x5B (encReg d) (encSrc a) (encSrc b) 2 0)
  | .btXl d a => some (rr 0x5B (encReg d) (encSrc a) 0 3 0)
  | .cCopy e => some (carter 0x60 e 0)
  | .cGath e => some (carter 0x61 e 0)
  | .cGathZ e => some (carter 0x61 e 1)
  | .cScat e => some (carter 0x62 e 0)
  | .cPut e => some (carter 0x64 e 0)
  | .cGet e => some (carter 0x65 e 0)
  | .cPin e => some (carter 0x67 e 0)
  | .cPinOff e => some (carter 0x67 e 1)
  | .cFill e b => some (carter 0x63 e (0#20 ++ bit b : BitVec 21))
  | .cRedAdd e sz => some (carter 0x66 e (credX 1 sz))
  | .cRedAnd e sz => some (carter 0x66 e (credX 2 sz))
  | .cRedOr e sz => some (carter 0x66 e (credX 3 sz))
  | .cRedXor e sz => some (carter 0x66 e (credX 4 sz))
  | .cRedMin e sz => some (carter 0x66 e (credX 5 sz))
  | .cRedMax e sz => some (carter 0x66 e (credX 6 sz))
  | .cRedMinu e sz => some (carter 0x66 e (credX 7 sz))
  | .cRedMaxu e sz => some (carter 0x66 e (credX 8 sz))
  | .cRedFadd e sz => some (carter 0x66 e (credX 9 sz))
  | .cRedFmin e sz => some (carter 0x66 e (credX 10 sz))
  | .cRedFmax e sz => some (carter 0x66 e (credX 11 sz))
  | .cRedBfadd e sz => some (carter 0x66 e (credX 12 sz))
  | .cRedBfmin e sz => some (carter 0x66 e (credX 13 sz))
  | .cRedBfmax e sz => some (carter 0x66 e (credX 14 sz))
  | .mLds e p f => some (mill e (.lds p f))
  | .mMm e p => some (mill e (.mm p))
  | .mMmr e p r j t => some (mill e (.mmr p r j t))
  | .mRelax e p b n => some (mill e (.relax p b n))
  | .mRelaxb e p => some (mill e (.relaxb p))
  | .mPwl e t => some (mill e (.pwl t))
  | .mChain e p l => some (mill e (.chain p l))
  | .qWait e m _ => some (queue 0x70 e.q e.i e.w 1 0 (encFin 21 m))
  | .qFence e mask => some (queue 0x71 e.q e.i e.w 0 0 (0#15 ++ mask : BitVec 21))
  | .qSig e => some (queue 0x72 e.q e.i e.w 0 0 0)
  | .qResume q none => some (queue 0x73 q false false 0 0 0)
  | .qResume q (some a) => some (queue 0x73 q false false 0 (encSrc a) 1)
  | .vadd o => some (v3 0x81 0 o)
  | .vsub o => some (v3 0x81 1 o)
  | .vmul o => some (v3 0x81 2 o)
  | .vmin o => some (v3 0x81 3 o)
  | .vmax o => some (v3 0x81 4 o)
  | .vdiv o => some (v3 0x81 7 o)
  | .vcsgn o => some (v3 0x81 9 o)
  | .vabs o => some (v2 0x81 5 o)
  | .vneg o => some (v2 0x81 6 o)
  | .vsqrt o => some (v2 0x81 8 o)
  | .vfma o => some (v4 0x82 0 o)
  | .vfms o => some (v4 0x82 1 o)
  | .vfnma o => some (v4 0x82 2 o)
  | .vfnms o => some (v4 0x82 3 o)
  | .vand o => some (v3 0x83 0 o)
  | .vor o => some (v3 0x83 1 o)
  | .vxor o => some (v3 0x83 2 o)
  | .vandn o => some (v3 0x83 3 o)
  | .vshl o => some (v3 0x83 4 o)
  | .vshr o => some (v3 0x83 5 o)
  | .vsra o => some (v3 0x83 6 o)
  | .vrol o => some (v3 0x83 7 o)
  | .vshlImmediate o => some (vi 12 o)
  | .vshrImmediate o => some (vi 13 o)
  | .vsraImmediate o => some (vi 14 o)
  | .vrolImmediate o => some (vi 15 o)
  | .vcmpEq o => some (vc 0 o)
  | .vcmpNe o => some (vc 1 o)
  | .vcmpLt o => some (vc 2 o)
  | .vcmpLe o => some (vc 3 o)
  | .vcmpGt o => some (vc 4 o)
  | .vcmpGe o => some (vc 5 o)
  | .vcmpUn o => some (vc 6 o)
  | .vcmpOrd o => some (vc 7 o)
  | .vclass o => some (v2 0x90 0 o)
  | .vcvt o t s => some (v2 0x85 (0#5 ++ bit s ++ t.code : BitVec 10) o)
  | .vsel d a b c k => some (vv 0x86 (vf d) (vf a) (vf b) (vf c) k 0 0)
  | .vclamp o => some (v4 0x87 0 o)
  | .vpwl o => some (v4 0x88 0 o)
  | .vperm d a b k => some (vv 0x89 (vf d) (vf a) (vf b) 0 k 0 0)
  | .vrot d a n k => some (vv 0x8A (vf d) (vf a) 0 0 k 0 0 (encFin 8 n))
  | .vbcast d a n k => some (vv 0x8B (vf d) (vf a) 0 0 k 0 0 (encFin 8 n))
  | .vbcastScalar d a k => some (vv 0x8B (vf d) (0#1 ++ a.code : BitVec 5) 0 0 k 0 1)
  | .viota ty d k => some (vv 0x8C (vf d) 0 0 0 k ty.code 0)
  | .vmov d a k => some (vv 0x91 (vf d) (vf a) 0 0 k 0 0)
  | .vfoldAdd o => some (v2 0x8D 0 o)
  | .vfoldMin o => some (v2 0x8D 1 o)
  | .vfoldMax o => some (v2 0x8D 2 o)
  | .vfoldAnd o => some (v2 0x8D 3 o)
  | .vfoldOr o => some (v2 0x8D 4 o)
  | .vfoldXor o => some (v2 0x8D 5 o)
  | .vscanAdd o => some (v2 0x8E 0 o)
  | .vscanMin o => some (v2 0x8E 1 o)
  | .vscanMax o => some (v2 0x8E 2 o)
  | .vscanAnd o => some (v2 0x8E 3 o)
  | .vscanOr o => some (v2 0x8E 4 o)
  | .vscanXor o => some (v2 0x8E 5 o)
  | .vpart d c n => some (vv 0x8F (vf d) (vf c) 0 0 0 0 0 (encFin 8 n))
  | .kand d a b => some (vv 0x98 (vf d) (vf a) (vf b) 0 0 0 0)
  | .kor d a b => some (vv 0x98 (vf d) (vf a) (vf b) 0 0 0 1)
  | .kxor d a b => some (vv 0x98 (vf d) (vf a) (vf b) 0 0 0 2)
  | .knot d a => some (vv 0x98 (vf d) (vf a) 0 0 0 0 3)
  | .kmov d a => some (vv 0x98 (vf d) (vf a) 0 0 0 0 4)
  | .kset d n => some (vv 0x98 (vf d) 0 0 0 0 0 5 (encFin 8 n))
  | .ksetRegister d a => some (vv 0x98 (vf d) (0#1 ++ a.code : BitVec 5) 0 0 0 0 6)
  | .vflag a k => some (vv 0x99 0 (vf a) 0 0 k 0 0)
  | .vld ty d a k => some (vm 0xA0 (vf d) a.fields.1 a.fields.2.1 k ty.code a.fields.2.2)
  | .vst ty d a k => some (vm 0xA1 (vf d) a.fields.1 a.fields.2.1 k ty.code a.fields.2.2)
  | .vldx ty d a x k => some (vm 0xA2 (vf d) a.fields.1 a.fields.2.1 k ty.code (vf x ++ a.fields.2.2 : BitVec 25))
  | .vstx ty d a x k => some (vm 0xA3 (vf d) a.fields.1 a.fields.2.1 k ty.code (vf x ++ a.fields.2.2 : BitVec 25))
  | .vldq ty q a k => some (vm 0xA4 (vf q) a.fields.1 a.fields.2.1 k ty.code a.fields.2.2)
  | .vpop d q k => some (vm 0xA5 (vf d) 0 0 k 0 (encFin 25 q))
  | .vamoSwap o => some (va 0 o)
  | .vamoAdd o => some (va 1 o)
  | .vamoMin o => some (va 2 o)
  | .vamoMax o => some (va 3 o)
  | .vamoAnd o => some (va 4 o)
  | .vamoOr o => some (va 5 o)
  | .vamoXor o => some (va 6 o)
  | .vredmAdd o => some (vr 1 o)
  | .vredmMin o => some (vr 2 o)
  | .vredmMax o => some (vr 3 o)
  | .vredmAnd o => some (vr 4 o)
  | .vredmOr o => some (vr 5 o)
  | .vredmXor o => some (vr 6 o)
  | .aadd d a imm => some (vs 0xB0 (encFin 4 d) a.code 0 imm)
  | .asub d a imm => some (vs 0xB0 (encFin 4 d) a.code 1 imm)
  | .ashl d a n => some (vs 0xB0 (encFin 4 d) a.code 2 (encFin 32 n))
  | .amov d a => some (vs 0xB0 (encFin 4 d) a.code 3 0)
  | .aaddRegister d a b => some (vs 0xB0 (encFin 4 d) a.code 4 (encFin 32 b))
  | .asubRegister d a b => some (vs 0xB0 (encFin 4 d) a.code 5 (encFin 32 b))
  | .ali d imm => some (vs 0xB1 (encFin 4 d) 0 0 imm)
  | .apop d q => some (vs 0xB2 (encFin 4 d) (Ab.aq q).code 0 0)
  | .loop l a imm => some (vs 0xB3 0 a.code (0#3 ++ encFin 2 l : BitVec 5) imm)
  | .loopOff l => some (vs 0xB3 0 0 (0b001#3 ++ encFin 2 l : BitVec 5) 0)
  | .vbr disp => some (vs 0xB4 0 0 0 disp)
  | .vbrZ a disp => some (vs 0xB4 (encFin 4 a) 0 1 disp)
  | .vbrNz a disp => some (vs 0xB4 (encFin 4 a) 0 2 disp)
  | .vbrNeg a disp => some (vs 0xB4 (encFin 4 a) 0 3 disp)
  | .vbrNneg a disp => some (vs 0xB4 (encFin 4 a) 0 4 disp)
  | .vbrKany a disp => some (vs 0xB4 0 (encFin 4 a) 5 disp)
  | .vbrKnone a disp => some (vs 0xB4 0 (encFin 4 a) 6 disp)
  | .vend => some (vs 0xB6 0 0 0 0)
  | .vlend b => some (vs 0xB7 0 0 (lendLc false b) 0)
  | .vreclaim b => some (vs 0xB7 0 0 (lendLc true b) 0)
  | .vnop => some (0x80, 0)
  | .blockingLoadReturn _ | .lqEntryArrival _ | .scalarResultReady _ | .localStorePerformed _ | .aqEntryPoppable _
  | .reductionApplied _ | .fillDropAtHome _ | .seeDropAtHome _ | .handleMailboxArrival _ | .parkedLoadRetry _
  | .tclaimGrant _ _ | .groupLeafRead _ _ | .groupLoadReturn _ | .engineEntryStart _ _ | .chainElementRead _ _
  | .chainNextWordChange _ _ | .carterChunk _ _ | .millRowGroup _ _ | .millPlaneLoad _ _ | .millRelaxIteration _ _
  | .mmrSlotProcess _ _ | .chainMemberReserve _ _ | .qWaitComplete _ _ | .qFenceComplete _ _ | .commandComplete _ _
  | .swapFramePinSettle _ _ | .vlqEntryArrival _ | .vectorResultLanding _ | .queueStall _ | .correctableErrorFreeze _
  | .freezeEnd _ | .uncorrectableError _ _ | .kernelTrap _ | .userLevelInterrupt _ | .frameEntryReinjection _
  | .debugHalt _ | .preemptWatchdog _ | .contextSave _ | .contextRestore _ | .launchSubmit _ _ | .gangStart _ _
  | .resumedSliceStart _ _ | .idleCorePop _ | .launchComplete _ _ | .sliceEnd _ _ | .fpreemptWrite _ _ _
  | .preqWrite _ _ _ | .partitionEntryValid _ _ | .partitionEntryInvalidate _ _ | .swapEpoch _ _ | .frameSwap _ _
  | .ringFlitHop _ | .fenceTokenForward _ | .linkFlitReplay _ _ _ | .linkDown _ _ | .inboundChunk _
  | .chunkResendTimeout _ | .fsub _ _ _ | .msixIntervalEnd _ _ _ | .functionLevelReset _ _ | .hostBar2Access _ _ _ _ _
  | .spdmRequest _ _ | .lockInterfaceRequest _ _ | .startInterfaceRequest _ _ | .getDeviceInterfaceReport _ _
  | .stopInterfaceRequest _ _ | .ideStreamFailure _ _ | .dctlHalt _ | .dctlResume _ | .ddataWrite _ _
  | .dqctlClearfault _ | .powerEpoch _ | .trimWindow _ _ | .trimUe _ _ | .hamletGate _ _ | .hamletWake _ _
  | .thermalSample _ _ _ | .thermalTrip4 _ | .coldStart _ | .powerDown _ | .registerWrite _ _ _ _
  | .storePerformedAtHome _ | .zeroLengthReadCompletion _ | .routeTableUpdate _ _ _ | .nodeidWrite _ _
  | .powerCapWrite _ _ _ | .vfBarWrite _ _ _ _ => none

/-- The parameter words of a unit. -/
def Params.words (p : Params) : List Word := [p.p0, p.p1, p.p2, p.p3]
/-- The words of a follow-on. -/
def FollowOn.words (f : FollowOn) : List Word :=
  joinWord 0 false (mill f.word f.cmd).1 (mill f.word f.cmd).2 :: f.word.p.words
/-- The words that follow a carter unit's head. -/
def CarterWord.tailWords (e : CarterWord) : List Word :=
  e.p.words ++ (match e.follow with | none => [] | some f => f.words)

/-- The words after the head word of an instruction. -/
def Instr.tailWords : Instr → List Word
  | .cCopy e | .cGath e | .cGathZ e | .cScat e | .cPut e | .cGet e | .cPin e | .cPinOff e | .cFill e _
  | .cRedAdd e _
  | .cRedAnd e _
  | .cRedOr e _
  | .cRedXor e _
  | .cRedMin e _
  | .cRedMax e _
  | .cRedMinu e _
  | .cRedMaxu e _
  | .cRedFadd e _
  | .cRedFmin e _
  | .cRedFmax e _
  | .cRedBfadd e _
  | .cRedBfmin e _
  | .cRedBfmax e _ => e.tailWords
  | .mLds e _ _ | .mMm e _ | .mMmr e _ _ _ _ | .mRelax e _ _ _ | .mRelaxb e _ | .mPwl e _ | .mChain e _ _ => e.p.words
  | .qWait _ _ p => p.words
  | _ => []

/-- The words of an instruction with its IDLE count and SYNC bit; none for an event of the machine. -/
def encode (s : Slot) : Option (List Word) :=
  s.instr.majBody.map fun mb => joinWord s.idle s.sync mb.1 mb.2 :: s.instr.tailWords

end Sys2Proof
end

