-- ==== Sys2Proof/Machine/MillNum.lean ====
section
/-! DEFINITION. The arithmetic of the mill: weights of a plane (R311, R342), the accumulation of R126 to R128, the product of
one row (R313) and one iteration of a row of a relaxation (R320, R321, R324, R325). -/
namespace Sys2Proof.Machine

/-! ## Weights -/

/-- An operand element: its bits, its exact value, and its poison. -/
structure Elem where
  v : Word
  x : FV
  bad : Bool
  deriving DecidableEq, Repr
/-- Element `e` of the payload of a plane, decoded (R311, R342). -/
def Plane.value (p : Plane) (e : Nat) : FV :=
  match p.fmt.block with
  | some b => blockValue p.fmt ((p.payload.drop (e / b.b * b.p)).take b.p) ((p.headers.drop (e / b.b * b.h)).take b.h) (e % b.b)
  | none =>
    let t := p.fmt.elemTy
    t.value (t.extend (leNat ((p.payload.drop (e * t.size)).take t.size)))
/-- W[k][j] is payload element j × K + k (R342). -/
def Plane.weight (p : Plane) (k j : Nat) : FV := p.value (j * p.fmt.kn.1 + k)
/-- Is W[k][j] poisoned? -/
def Plane.badAt (p : Plane) (k j : Nat) : Bool := p.bad.contains (j * p.fmt.kn.1 + k)

/-- Is a plane accumulated by groups: the block formats, E4M3, E5M2 and I8 (R127)? -/
def grouped (f : Fmt) : Bool := f.block.isSome || f == .e4m3 || f == .e5m2 || f == .i8
/-- Terms of a group (R127). -/
def groupSize (f : Fmt) : Nat := match f with | .wb3 | .wb5 | .wb8 => 16 | _ => 32

/-! ## Accumulation -/

/-- An accumulator: its value, its flags, and the first k-step that produced a NaN (R118, R326). -/
structure Acc where
  x : FV
  fl : Fl
  nan : Option Nat
  deriving DecidableEq, Repr
/-- An accumulator moved to a rounded value at a k-step; `wasNan` says that an operand was a NaN. -/
def Acc.to (a : Acc) (f : FF) (r : Rd) (fl : Fl) (wasNan : Bool) (k : Nat) : Acc :=
  let x := f.decode r.bits
  { x := x, fl := a.fl ||| fl ||| r.fl
    nan := match a.nan with | some n => some n | none => if x.isNan && !wasNan && !a.x.isNan then some k else none }

/-- One fused rounding per term, in ascending k (R126). -/
def accTerms (f : FF) (k : Nat) (a : Acc) : List (FV × FV) → Acc
  | [] => a
  | t :: r =>
    let e := FV.fma false t.1 t.2 a.x
    accTerms f (k + 1) (a.to f (f.rne e.v) e.fl (t.1.isNan || t.2.isNan) k) r

/-- The exact sum of a group's products (R127), in ascending k: an infinity less an infinity sets NV where no NaN came before it
(DESIGN CHOICE, entry 101). -/
def groupSum (l : List (FV × FV)) : Ex :=
  match l with
  | [] => { v := .fin { neg := false, m := 0, e := 0 }, fl := 0 }
  | t :: r => r.foldl (fun s u => let p := FV.mul u.1 u.2
      let q := FV.add false s.v p.v
      { v := q.v, fl := s.fl ||| p.fl ||| q.fl }) (FV.mul t.1 t.2)
/-- A list cut into pieces of `n`; `fuel` pieces at most. -/
def piecesOf {α : Type} (n : Nat) : Nat → List α → List (List α)
  | 0, _ => []
  | fuel + 1, l => if l.isEmpty then [] else l.take n :: piecesOf n fuel (l.drop n)
/-- One rounding per group (R127), with the overflow of R128 under SATFIN. -/
def accGroups (sat : Bool) (n : Nat) (k : Nat) (a : Acc) : List (List (FV × FV)) → Acc
  | [] => a
  | g :: r =>
    let s := groupSum g
    let e := FV.add false a.x s.v
    let b := match e.v with
      | .fin d => FF.f32.roundFin .rne sat 0 d
      | v => FF.f32.rne v
    accGroups sat n (k + n) (a.to .f32 b (s.fl ||| e.fl) (g.any fun t => t.1.isNan || t.2.isNan) k) r

/-- An integer below and above clamped into i32, with OF where the clamp acts (R127). -/
def satI32 (i : Int) : Int × Fl :=
  if i < -(2 ^ 31) then (-(2 ^ 31), Fl.of) else if 2 ^ 31 - 1 < i then (2 ^ 31 - 1, Fl.of) else (i, 0)
/-- The integer that an exact value is; integers have no fraction. -/
def FV.int (x : FV) : Int := match x with | .fin d => d.at 0 | _ => 0
/-- The accumulation of an I8 plane (R127). -/
def accInts (a : Int) (fl : Fl) : List (List (FV × FV)) → Int × Fl
  | [] => (a, fl)
  | g :: r =>
    let s := satI32 (a + (g.map fun t => FV.int t.1 * FV.int t.2).foldl (· + ·) 0)
    accInts s.1 (fl ||| s.2) r

/-- An output element: its bits in the accumulator type, its flags, the k-step of a NaN, its poison. -/
structure Out1 where
  v : Word
  fl : Fl
  nan : Option Nat
  bad : Bool
  deriving DecidableEq, Repr
/-- Output element j of a row: the accumulation over k of the row and column j from an initial value (R313). -/
def Plane.output (p : Plane) (sat : Bool) (row : List Elem) (init : Elem) (j : Nat) : Out1 :=
  let ks := row.zipIdx
  let terms := ks.map fun a => (a.1.x, p.weight a.2 j)
  let bad := init.bad || ks.any fun a => a.1.bad || p.badAt a.2 j
  let groups := piecesOf (groupSize p.fmt) terms.length terms
  if p.fmt == .i8 then
    let r := accInts (FV.int init.x) 0 groups
    { v := Ty.i32.extend (r.1 % 2 ^ 32).toNat, fl := r.2, nan := none, bad := bad }
  else
    let a : Acc := { x := init.x, fl := 0, nan := none }
    let r := if grouped p.fmt then accGroups sat (groupSize p.fmt) 0 a groups
      else accTerms (if p.fmt == .f64 then .f64 else .f32) 0 a terms
    let f : FF := if p.fmt == .f64 then .f64 else .f32
    { v := BitVec.ofNat 64 (f.rne r.x).bits, fl := r.fl, nan := r.nan, bad := bad }
/-- The N outputs of a row. -/
def Plane.row (p : Plane) (sat : Bool) (row inits : List Elem) : List Out1 :=
  (upto p.fmt.kn.2).map fun j => p.output sat row (inits.getD j { v := 0, x := .fin { neg := false, m := 0, e := 0 }, bad := false }) j

/-! ## Relaxation -/

/-- Flags and the lowest element that produced a NaN. -/
structure Note where
  fl : Fl
  nan : Option Nat
  deriving DecidableEq, Repr
/-- Two notes together. -/
def Note.join (a b : Note) : Note :=
  { fl := a.fl ||| b.fl
    nan := match a.nan, b.nan with | some x, some y => some (minN x y) | some x, none => some x | none, y => y }
/-- Nothing noted. -/
def Note.none : Note := { fl := 0, nan := .none }
/-- Lanes 0 to n − 1 as words with what is noted of them. -/
def lanesNoted (n : Nat) (f : Nat → Lane) : List Word × Note :=
  let l := (upto n).map f
  (l.map (·.v), { fl := l.foldl (fun a x => a ||| x.fl) 0, nan := (upto n).find? fun i => (l.getD i { v := 0, fl := 0, nan := false }).nan })
/-- What is noted of one lane, as element 0. -/
def laneNote (x : Lane) : Note := { fl := x.fl, nan := if x.nan then some 0 else .none }
/-- A 32-bit element as a word. -/
def w32 (v : BitVec 32) : Word := v.setWidth 64
/-- A word's 32-bit element. -/
def v32 (v : Word) : BitVec 32 := v.setWidth 32
/-- Element j of a list of words. -/
def el (l : List Word) (j : Nat) : Word := l.getD j 0

/-- The registers and the table that a relaxation uses (R318). -/
structure RelaxCfg where
  cap : Cap
  plane : Plane
  table : List (BitVec 32)
  n : Nat
  deriving DecidableEq, Repr

/-- x padded with +0 to K and encoded into the plane's format with RNE, sat 1 and coordinates (0, index) (R320). -/
def encodeRow (f : Fmt) (x : List Word) : List FV × Fl :=
  let vals := (upto f.kn.1).map fun i => Ty.f32.value (el x i)
  match f.block with
  | some b =>
    let q := (upto (f.kn.1 / b.b)).map fun i => quantBlock f .rne (i * b.b) ((vals.drop (i * b.b)).take b.b)
    (q.flatMap fun r => (upto b.b).map fun i => blockValue f r.payload r.header i, q.foldl (fun a r => a ||| r.flags) 0)
  | none =>
    let t := f.elemTy
    let l := vals.zipIdx.map fun v => convert .f32 t .rne true v.2 v.1
    (l.map fun r => t.value r.v, l.foldl (fun a r => a ||| r.fl) 0)
/-- mat of R320: one element of x · W + u; `enc` is the encoded row where the format asks for one. -/
def RelaxCfg.mat (g : RelaxCfg) (x : List Word) (enc : List FV) (u : Word) (j : Nat) : Lane :=
  let p := g.plane
  let a : Acc := { x := Ty.f32.value u, fl := 0, nan := none }
  let r :=
    if grouped p.fmt then
      let terms := enc.zipIdx.map fun v => (v.1, p.weight v.2 j)
      accGroups (g.cap.mctl.getLsbD 1) (groupSize p.fmt) 0 a (piecesOf (groupSize p.fmt) terms.length terms)
    else accTerms (if p.fmt == .f64 then .f64 else .f32) 0 a
      ((upto g.n).map fun k => (Ty.f32.value (el x k), p.weight k j))
  let b := FF.f32.rne r.x
  { v := BitVec.ofNat 64 b.bits, fl := r.fl ||| b.fl, nan := r.nan.isSome }
/-- A breakpoint, slope or intercept of the table: third 0, 1 or 2 (R312). -/
def RelaxCfg.entry (g : RelaxCfg) (third j : Nat) : Word := w32 (g.table.getD (64 * third + j) 0)
/-- phi of R320. -/
def RelaxCfg.phi (g : RelaxCfg) (a : Word) : Lane :=
  match g.cap.mctl.toNat / 16 % 4 with
  | 0 => { v := a, fl := 0, nan := false }
  | 1 => laneMin false .f32 (laneMin true .f32 a (g.cap.mclamp &&& 0xFFFFFFFF)).v (g.cap.mclamp >>> 32)
  | 2 => laneMin true .f32 a 0
  | _ => pwlLane .f32 .rne (g.entry 0) (g.entry 1) (g.entry 2) a
/-- dphi of R324. -/
def RelaxCfg.dphi (g : RelaxCfg) (a : Word) : BitVec 32 :=
  let one : BitVec 32 := 0x3F800000
  let x := Ty.f32.value a
  let above (b : Word) : Bool := !(Ty.f32.value b).isNan && FV.cmp x (Ty.f32.value b) == .gt
  let under (b : Word) : Bool := !(Ty.f32.value b).isNan && FV.cmp x (Ty.f32.value b) == .lt
  if x.isNan then 0x7FC00000
  else match g.cap.mctl.toNat / 16 % 4 with
    | 0 => one
    | 1 => if above (g.cap.mclamp &&& 0xFFFFFFFF) && under (g.cap.mclamp >>> 32) then one else 0
    | 2 => if above 0 then one else 0
    | _ => v32 (g.entry 1 (segment .f32 (g.entry 0) a))

/-- dot of R320. -/
def dotF32 (x y : List Word) : Lane :=
  (x.zip y).foldl (fun s p => let r := laneFma .f32 .rne false false p.1 p.2 s.v
    { v := r.v, fl := s.fl ||| r.fl, nan := s.nan || r.nan }) { v := 0, fl := 0, nan := false }
/-- norm of R320. -/
def RelaxCfg.norm (g : RelaxCfg) (f : List Word) : Lane :=
  if g.cap.mnorm then dotF32 f f
  else match f with
    | [] => { v := 0, fl := 0, nan := false }
    | a :: r => r.foldl (fun s v => laneMin true .f32 s.v (laneAbs .f32 v).v) (laneAbs .f32 a)
/-- Is an FP32 element finite? -/
def finite32 (v : Word) : Bool := (Ty.f32.value v).isFin

/-- The end of an iteration of a row: the count, the residual, and whether it retires (R321). -/
def RelaxCfg.retire (g : RelaxCfg) (k : Nat) (r : Word) (zn : List Word) (x : RelaxRow) : RelaxRow :=
  let tol := Ty.f32.value (w32 g.cap.mtol)
  let y : RelaxRow := { x with z := zn.map v32, it := k + 1, res := v32 r }
  if !finite32 r || !(zn.all finite32) then { y with act := false, st := 2 }
  else if !tol.isNan && FV.cmp (Ty.f32.value r) tol != .gt then { y with act := false, st := 0 } else y

/-- What an iteration of a row gives: the row, what is noted, and whether an Anderson step fell back. -/
structure RowOut where
  row : RelaxRow
  note : Note
  fallback : Bool
  deriving DecidableEq, Repr
/-- The Anderson step of R321: the new state and γ if every value is finite; none where it falls back. -/
def andersonStep (n : Nat) (f gv fp gp : List Word) : Option (List Word × Word) × Note :=
  let df := lanesNoted n fun j => laneBin .sub .f32 .rne (el f j) (el fp j)
  let den := dotF32 df.1 df.1
  let n1 := df.2.join (laneNote den)
  if (match Ty.f32.value den.v with | .fin d => d.m == 0 | _ => false) then (none, n1)
  else
    let num := dotF32 f df.1
    let gm := laneBin .div .f32 .rne num.v den.v
    let dg := lanesNoted n fun j => laneBin .sub .f32 .rne (el gv j) (el gp j)
    let za := lanesNoted n fun j => laneFma .f32 .rne true false gm.v (el dg.1 j) (el gv j)
    let n2 := (((n1.join (laneNote num)).join (laneNote gm)).join dg.2).join za.2
    (if finite32 gm.v && za.1.all finite32 then some (za.1, gm.v) else none, n2)

/-- Iteration k of an active row of `m.relax` (R321). -/
def RelaxCfg.forward (g : RelaxCfg) (k : Nat) (x : RelaxRow) : RowOut :=
  let n := g.n
  let z := x.z.map w32
  let enc := if grouped g.plane.fmt then encodeRow g.plane.fmt z else ([], 0)
  let a := lanesNoted n fun j => g.mat z enc.1 (el (x.inj.map w32) j) j
  let gv := lanesNoted n fun j => g.phi (el a.1 j)
  let f := lanesNoted n fun j => laneBin .sub .f32 .rne (el gv.1 j) (el z j)
  let r := g.norm f.1
  let damped := lanesNoted n fun j => laneFma .f32 .rne false false (w32 g.cap.momega) (el f.1 j) (el z j)
  let note := (((({ fl := enc.2, nan := none } : Note).join a.2).join gv.2).join f.2).join ((laneNote r).join damped.2)
  let y : RelaxRow := { x with fp := f.1.map v32, gp := gv.1.map v32, hist := true, al := a.1.map v32 }
  if g.cap.macc && x.hist then
    let s := andersonStep n f.1 gv.1 (x.fp.map w32) (x.gp.map w32)
    match s.1 with
    | some (za, gm) => { row := g.retire k r.v za { y with gam := v32 gm }, note := note.join s.2, fallback := false }
    | none => { row := g.retire k r.v damped.1 y, note := note.join s.2, fallback := true }
  else { row := g.retire k r.v damped.1 y, note := note, fallback := false }

/-- Iteration k of an active row of `m.relaxb`, with its row of the derivative plane (R325). -/
def RelaxCfg.backward (g : RelaxCfg) (k : Nat) (d : List (BitVec 32)) (x : RelaxRow) : RowOut :=
  let n := g.n
  let y := x.z.map w32
  let p := lanesNoted n fun j => laneBin .mul .f32 .rne (el y j) (w32 (d.getD j 0))
  let yn := lanesNoted n fun j =>
    let a : Acc := { x := Ty.f32.value (el (x.inj.map w32) j), fl := 0, nan := none }
    let r := accTerms .f32 0 a ((upto n).map fun i => (Ty.f32.value (el p.1 i), g.plane.weight j i))
    { v := BitVec.ofNat 64 (FF.f32.rne r.x).bits, fl := r.fl, nan := r.nan.isSome }
  let f := lanesNoted n fun j => laneBin .sub .f32 .rne (el yn.1 j) (el y j)
  let r := g.norm f.1
  { row := g.retire k r.v yn.1 { x with pr := p.1.map v32 }
    note := ((p.2.join yn.2).join f.2).join (laneNote r), fallback := false }

end Sys2Proof.Machine
end

