-- ==== Sys2Proof/Machine/Mill.lean ====
section
/-! DEFINITION. The mill: which command it runs (R312, R315, R316), operands and results (R313, R344), plane and table loads
(R312, R342, R343), row groups, chains, ragged products and relaxations as they go (R314 to R326, R345 to R347, R419). -/
namespace Sys2Proof.Machine

/-! ## Choice -/

/-- The tier of a core, if it lies in a valid entry (R409). -/
def State.tierOf (s : State) (c : Nat) : Option (Fin 4) := (s.funcOf c).map fun f => (s.entry (pkgOf c) f).tier
/-- The interval imposed on the engine queues of a core: its tier's, and at least 4096 on a die in trip 2 (R409, R410, R415). -/
def State.imposed (s : State) (c : Nat) : Nat :=
  maxN (if (s.die c).trip2 then 4096 else 0) (match s.tierOf c with
    | some t => (s.pkg (pkgOf c)).interval[t]
    | none => 0)
/-- Has a queue's pacing interval passed (R294)? -/
def State.paced (s : State) (c q : Nat) : Bool :=
  match ((s.core c).equeue q).since with
  | none => true
  | some n => decide (maxN ((s.core c).csr.pace.toList.getD q 0).toNat (s.imposed c) ≤ n)
/-- Has everything that a command must observe been performed (R255)? -/
def State.observed (s : State) (x : Cmd) : Bool := s.fenceClear x.issuer x.before x.era true .dom && s.tokensThrough x.issuer x.before
/-- The mill state changed. -/
def State.modMill (s : State) (c : Nat) (f : Mill → Mill) : State := s.modCore c fun x => { x with mill := f x.mill }
/-- The plane that a command reads. -/
def Cmd.reads? (x : Cmd) : Option (Fin 2) :=
  match x.op with
  | .mill (.mm p) | .mill (.mmr p _ _ _) | .mill (.relax p _ _) | .mill (.relaxb p) | .mill (.chain p _) => some p
  | _ => none
/-- Has a command started: one that OVERLAP halted before its first row group has not (R302)? -/
def Run.begun (r : Run) : Bool := !(r.pos == 0 && (match r.halted with | some t => t.cause == .overlap | none => false))
/-- The commands of a core's mill queues that have started and not completed, halted ones among them. -/
def Core.millStarted (x : Core) : List Cmd :=
  [4, 5].filterMap fun q => match (x.equeue q).run with
    | some r => if r.begun then (x.equeue q).headCmd else none
    | none => none
/-- Is a core a member of the chain that a command of core `i` works (R315)? -/
def Cmd.chains (x : Cmd) (i c : Nat) : Bool :=
  match x.op with
  | .mill (.chain _ l) => decide (i ≤ c ∧ c ≤ i + l.val)
  | _ => false
/-- Does a started command that has not completed read plane `p` of a core: its own, or a chain of which it is a member
(R312, R315)? -/
def State.planeRead (s : State) (c : Nat) (p : Fin 2) : Bool :=
  ((s.core c).millStarted.any fun k => k.reads? == some p)
    || (upto 8).any fun j => j ≤ c && (s.core (c - j)).millStarted.any fun k => k.chains (c - j) c && k.reads? == some p
/-- Does a started command that has not completed use table `t` of a core (R312, R318)? -/
def State.tableRead (s : State) (c : Nat) (t : Fin 4) : Bool := (s.core c).millStarted.any fun k => k.table? == some t
/-- The load that a core's mill runs now: it runs to completion (R316). -/
def Core.millLoad (x : Core) : Option MillCmd :=
  match x.mill.active with
  | some q => match (x.equeue (4 + q.val)).headCmd with
    | some k => match k.op with
      | .mill (.lds p f) => some (.lds p f)
      | .mill (.pwl t) => some (.pwl t)
      | _ => none
    | none => none
  | none => none
/-- Is a load into plane `p` of a core running (R312)? -/
def Core.planeLoading (x : Core) (p : Fin 2) : Bool := match x.millLoad with | some (.lds r _) => r == p | _ => false
/-- Does nothing that a mill command reads or loads stand in the way of its start, at a chain's members too (R312, R315)? -/
def State.millClear (s : State) (c : Nat) (x : Cmd) : Bool :=
  match x.op with
  | .mill (.lds p _) => !s.planeRead c p
  | .mill (.pwl t) => !s.tableRead c t
  | .mill (.chain p l) => (upto (l.val + 1)).all fun i => !(s.core (c + i)).planeLoading p
  | _ => match x.reads? with
    | some p => !(s.core c).planeLoading p
    | none => true

/-- The slot of claim `n` of a ring, as it stands. -/
def State.slotOf (s : State) (c : Nat) (g : Ring) (n : Word) : TileRef := s.refOf c (g.slots.getD (n.toNat % g.slots.length) 0)
/-- Can an `m.mmr` go on: there is a slot to process, or the ring has ended; one that has not started also waits for its threshold
(R317)? -/
def State.mmrReady (s : State) (c : Nat) (ring : Fin 16) (j t : Nat) (r : Run) : Bool :=
  let ready (u : TileRef) : Bool := !(s.live u) || (s.tileOf u).st != .filling
  match r.share with
  | some u => ready u
  | none => match if r.ended then none else (s.core c).rings.find ring.val with
    | none => true
    | some g =>
      (decide (t ≤ g.arrived.toNat) || g.closed) &&
        (match g.next[j]? with
          | some n => if n.toNat < g.claimed.toNat then ready (s.slotOf c g n) else g.closed
          | none => true)
/-- Is a command a relaxation? -/
def Cmd.relaxing (x : Cmd) : Bool := match x.op with | .mill (.relax _ _ _) | .mill (.relaxb _) => true | _ => false
/-- Is a command one row group, which runs to completion and starts again as a whole (R314, R316)? -/
def Cmd.whole (x : Cmd) : Bool :=
  x.relaxing || (match x.op with | .mill (.lds _ _) | .mill (.pwl _) => true | _ => false)
/-- Is the head of a mill queue runnable (R316)? A relaxation or a load that was halted and resumed runs again from its start, once
nothing stands in the way of that. -/
def State.millRunnable (s : State) (c q : Nat) : Bool :=
  let e := (s.core c).equeue q
  match e.headCmd, e.run with
  | some x, none => s.paced c q && s.observed x && (match x.op with
    | .mill (.mmr p r j t) => !(s.core c).planeLoading p && s.mmrReady c r j.val t.val .fresh
    | .mill _ => s.millClear c x
    | _ => false)
  | some x, some r => r.halted.isNone && !r.done && (match x.op with
    | .mill (.mmr _ g j _) => s.mmrReady c g j.val 0 r
    | .mill (.chain _ l) => r.members.length == l.val + 1
    | .mill _ => !x.whole || (s.core c).mill.active.isSome || s.millClear c x
    | _ => false)
  | none, _ => false
/-- The members that the chain at the head of a mill queue has reserved. -/
def Core.reservedFor (x : Core) (q : Nat) : List Nat := match (x.equeue q).run with | some r => r.members | none => []
/-- May the mill of a core work for queue `q` (0 mq0, 1 mq1): what runs to completion goes on, no other core's chain and no chain of
its own mq0 holds the mill against it, and mq0 goes first (R315, R316)? -/
def State.millFree (s : State) (c : Nat) (q : Fin 2) : Bool :=
  let x := s.core c
  x.engineRuns && (match x.mill.active with
    | some a => a == q
    | none => (match x.mill.reservedBy with
        | some i => i == c && (q == 0 || (x.reservedFor 4).isEmpty)
        | none => true) && (q == 0 || !s.millRunnable c 4))
/-- The queue number of a mill queue. -/
def millNum (q : Fin 2) : Nat := 4 + q.val
/-- The mill command of a queue that is at work. -/
def State.milling (s : State) (c : Nat) (q : Fin 2) : Option (Cmd × MillCmd × Run) :=
  match ((s.core c).equeue (millNum q)).working with
  | some (x, r) => match x.op with
    | .mill m => some (x, m, r)
    | _ => none
  | none => none

/-- The members that a chain has reserved set free (R315). -/
def State.freeMembers (s : State) (c : Nat) (l : List Nat) : State :=
  l.foldl (fun s m => s.modMill m fun y => if y.reservedBy = some c then { y with reservedBy := none } else y) s
/-- A mill command halts: a relaxation is given up, and reservations are let go (R310, R314). -/
def State.haltMill (s : State) (c : Nat) (q : Fin 2) (x : Cmd) (r : Run) (pos : Nat) (t : Trap) : State :=
  let s1 := (s.freeMembers c r.members).modMill c fun y =>
    if y.active = some q then { y with active := none, relax := none } else y
  let r1 := if t.cause = .param then r.unstarted else r
  s1.haltCmd c (millNum q) x { r1 with members := [] } pos t

/-! ## Operands and results -/

/-- A computation that may fault. -/
abbrev Res (α : Type) := State × Except Trap α
/-- One computation after another. -/
def Res.then {α β : Type} (r : Res α) (f : State → α → Res β) : Res β :=
  match r with
  | (s, .ok a) => f s a
  | (s, .error t) => (s, .error t)
/-- PARAM that names an address word, at start (R334). -/
def paramAt (a : EAddr) : Trap := { cause := .param, info := a.info }

/-- The layout of the bank at a key for elements of type `t`, if the bank is formatted, with the bank's key and the first
element (R148). -/
def State.bankAt (s : State) (r : Run) (k : Nat) (t : Ty) : Option (Layout × Nat × Nat) :=
  match bankOfKey k with
  | none => none
  | some (h, b) =>
    let f := BankFmt.of (r.fmtAt s k)
    if f.fmt = .raw then none
    else let l := f.layout t; some (l, bankKey h b, l.first (spadOff k % bankSize))
/-- Bytes that hold `n` elements of a layout. -/
def unitBytes (l : Layout) (n : Nat) : Nat := (n + l.per - 1) / l.per * l.size
/-- Elements `lo` to `lo + cnt - 1` of an operand of type `t` at an address: from a formatted bank by its format, elsewhere
raw (R342 to R344). -/
def State.readElems (s : State) (c : Nat) (kernel : Bool) (r : Run) (a : EAddr) (t : Ty) (lo cnt : Nat) : Res (List Elem) :=
  Res.then (s.pieceKey c kernel .load a 1) fun s k =>
    match s.bankAt r k t with
    | none =>
      Res.then (s.resolveRuns c kernel .load [(a.add (lo * t.size : Nat), cnt * t.size)]) fun s keys =>
        let d := s.gatherBytes c false keys
        (d.1, .ok ((piecesOf t.size cnt d.2).map fun b =>
          let v := t.extend (leNat (b.map (·.1)))
          { v := v, x := t.value v, bad := b.any (·.2) }))
    | some (l, kb, n0) =>
      if (l.outside (n0 + lo + cnt - 1)).isSome then (s, .error { cause := .perm, info := a.info })
      else
        Res.then (s.resolveRuns c kernel .load [(a.add (lo / l.per * l.size : Nat), unitBytes l cnt)]) fun s _ =>
          let s1 := s.onRead c (kb + (l.payload (n0 + lo)).1)
          (s1, .ok ((upto cnt).map fun i =>
            { v := l.ty.extend (s1.elemBits kb l (n0 + lo + i)), x := s1.elemValue kb l (n0 + lo + i)
              bad := s1.elemPoisoned kb l (n0 + lo + i) }))
/-- Results of type `t` written from element `lo` on: encoded in a formatted bank, elsewhere raw, poison with them (R201, R313).
Gives the flags and the lowest element whose encoding produced a NaN. -/
def State.writeElems (s : State) (c : Nat) (kernel : Bool) (r : Run) (a : EAddr) (t : Ty) (lo : Nat) (l : List (Word × Bool)) :
    Res Note :=
  Res.then (s.pieceKey c kernel .store a 1) fun s k =>
    match s.bankAt r k t with
    | none =>
      Res.then (s.resolveRuns c kernel .store [(a.add (lo * t.size : Nat), l.length * t.size)]) fun s keys =>
        (s.putBytes c keys (l.flatMap fun e => (leBytes t.size e.1.toNat).map fun b => (b, e.2)), .ok .none)
    | some (f, kb, n0) =>
      if (f.outside (n0 + lo + l.length - 1)).isSome
          || s.inFrames kb ((upto l.length).flatMap fun i => f.runs (n0 + lo + i)) then (s, .error { cause := .perm, info := a.info })
      else
        Res.then (s.resolveRuns c kernel .store [(a.add (lo / f.per * f.size : Nat), unitBytes f l.length)]) fun s _ =>
          let e := s.encodeBank false kb f (l.zipIdx.map fun x => { pos := x.2, n := n0 + lo + x.2, ty := t, v := x.1.1 })
          let bad := (l.zipIdx.filter (·.1.2)).flatMap fun x => (f.runs (n0 + lo + x.2)).map fun p => (kb + p.1, p.2)
          (bad.foldl (fun s p => s.poisonRun p.1 p.2) (s.writeEnc e), .ok { fl := e.flags, nan := e.nan })

/-- A start-time check of one operand: its bank format, and its alignment to the element size; banks of other cores are
checked when they are read if `own` (R183, R334, R344). -/
def State.operandOk (s : State) (c : Nat) (kernel own : Bool) (r : Run) (a : EAddr) (t : Ty) (flat : Bool)
    (allowed : Layout → Bool) : Except Trap Unit :=
  match (s.pieceKey c kernel .load a 1).2 with
  | .error _ => .ok ()
  | .ok k =>
    match s.bankAt r k t with
    | none => if flat && decide (a.info.toNat % t.size = 0) then .ok () else .error (paramAt a)
    | some (l, _, _) =>
      if own && spadOwner k != some c then .ok ()
      else if allowed l && decide (spadOff k % bankSize % l.size = 0) then .ok () else .error (paramAt a)
/-- Is a layout of an element format? -/
def holdsElem (l : Layout) (t : Ty) : Bool := !l.isBlock && l.fmt.elem == some t

/-! ## Loads -/

/-- The plane entries that poisoned bytes cover (R312). -/
def poisonedEntries (f : Fmt) (pay hdr : List Datum8) : List Nat :=
  let bad (l : List Datum8) (i n : Nat) : Bool := ((l.drop i).take n).any (·.2)
  if pay.any (·.2) || hdr.any (·.2) then
    (upto (f.kn.1 * f.kn.2)).filter fun e => match f.block with
      | none => bad pay (e * f.elemTy.size) f.elemTy.size
      | some b =>
        let w := b.p * 8 / b.b
        let lo := e % b.b * w / 8
        bad pay (e / b.b * b.p + lo) ((e % b.b * w + w - 1) / 8 - lo + 1) || bad hdr (e / b.b * b.h) b.h
  else []
/-- The payload and header sources of an `m.lds`, with its start-time conditions (R312, R342). -/
def State.planeBytes (s : State) (c : Nat) (x : Cmd) (r : Run) (f : Fmt) : Res (List Datum8 × List Datum8) :=
  let cnt := f.kn.1 * f.kn.2
  let kern := x.cap.kernel
  Res.then (s.pieceKey c kern .load x.at0 1) fun s k =>
    let pay : Nat := match f.block with | some b => cnt / b.b * b.p | none => cnt * f.elemTy.size
    let hdr : Nat := match f.block with | some b => cnt / b.b * b.h | none => 0
    match s.bankAt r k .u8 with
    | some (l, kb, n0) =>
      if l.fmt ≠ f ∨ x.p.p1 ≠ 0 ∨ spadOff k % bankSize % l.size ≠ 0 then (s, .error (paramAt x.at0))
      else if (l.outside (n0 + cnt - 1)).isSome then (s, .error { cause := .perm, info := x.at0.info })
      else
        Res.then (s.resolveRuns c kern .load [(x.at0, pay)]) fun s keys =>
          let d := s.gatherBytes c true keys
          let h := (upto hdr).map fun i => let a := kb + (l.header n0).1 + i; (d.1.readByte a, d.1.poisoned a 1)
          (d.1, .ok (d.2, h))
    | none =>
      if f.block.isSome && x.p.p1 == 0 then (s, .error (paramAt x.at1))
      else
        Res.then (s.resolveRuns c kern .load [(x.at0, pay)]) fun s keys =>
          let d := s.gatherBytes c true keys
          if hdr = 0 then (d.1, .ok (d.2, []))
          else Res.then (d.1.resolveRuns c kern .load [(x.at1, hdr)]) fun s hk =>
            let h := s.gatherBytes c true hk
            (h.1, .ok (d.2, h.2))
/-- Does a swap hold a write to one of `n` bytes at an address, or is there no ring slot for it (R198, R384)? -/
def State.heldAt (s : State) (c : Nat) (kernel : Bool) (a : EAddr) (n : Nat) : Bool :=
  (s.keysOf c kernel .store a n).any fun k => s.writeHeld k.1 || !s.mayGo c k.1
/-- Is there no ring slot for a read of `n` bytes at an address (R384)? -/
def State.cutOff (s : State) (c : Nat) (kernel : Bool) (a : EAddr) (n : Nat) : Bool :=
  (s.keysOf c kernel .load a n).any fun k => !s.mayGo c k.1
/-- `m.lds` performed: the whole plane is replaced (R312). -/
def State.loadPlane (s : State) (c : Nat) (x : Cmd) (r : Run) (p : Fin 2) (f : Fmt) : Work :=
  match s.planeBytes c x r f with
  | (s1, .error t) => .fault s1 t
  | (s1, .ok (pay, hdr)) =>
    let plane : Plane := { fmt := f, payload := pay.map (·.1), headers := hdr.map (·.1), bad := poisonedEntries f pay hdr }
    .done (s1.modMill c fun m => { m with planes := m.planes.set p plane }) { r with done := true }
/-- `m.pwl` performed (R312, R343). -/
def State.loadTable (s : State) (c : Nat) (x : Cmd) (r : Run) (t : Fin 4) : Work :=
  match s.operandOk c x.cap.kernel false r x.at0 .f32 true (fun l => holdsElem l .f32) with
  | .error e => .fault s e
  | .ok _ => match s.readElems c x.cap.kernel r x.at0 .f32 0 192 with
    | (s1, .error e) => .fault s1 e
    | (s1, .ok l) =>
      .done (s1.modMill c fun m => { m with tables := m.tables.set t { words := l.map fun e => v32 e.v } }) { r with done := true }

/-! ## Products -/

/-- A NaN report of R366: queue, row, column, k-step or iteration. -/
def nanReport (q : Fin 2) (row col k : Nat) : Word :=
  BitVec.ofNat 64 (2 ^ 63 + q.val * 2 ^ 62 + row % 2 ^ 20 * 2 ^ 42 + col % 2 ^ 7 * 2 ^ 35 + k % 2 ^ 35)
/-- The order of reports: k-step, row, column (R326). -/
def nanOrder (w : Word) : Nat := w.toNat % 2 ^ 35 * 2 ^ 27 + w.toNat / 2 ^ 42 % 2 ^ 20 * 2 ^ 7 + w.toNat / 2 ^ 35 % 2 ^ 7
/-- The earlier of two reports. -/
def firstNan (a b : Option Word) : Option Word :=
  match a, b with
  | some x, some y => some (if nanOrder y < nanOrder x then y else x)
  | some x, none => some x
  | none, y => y
/-- Captured MCTL.SATFIN (R318). -/
def Cap.satfin (x : Cap) : Bool := x.mctl.getLsbD 1

/-- The start-time conditions of a product at core `m`: A, C and the destination (R313, R344). -/
def State.checkProduct (s : State) (c m : Nat) (own : Bool) (x : Cmd) (r : Run) (p : Fin 2) (a cAddr : Option EAddr) (dst : EAddr) :
    Except Trap Unit := do
  let f := (s.core m).mill.planes[p].fmt
  match a with
  | some a => s.operandOk c x.cap.kernel own r a f.elemTy f.block.isNone (fun l => l.fmt == f)
  | none => .ok ()
  match cAddr with
  | some a => s.operandOk m x.cap.kernel own r a f.acc true (fun l => holdsElem l f.acc)
  | none => .ok ()
  s.operandOk m x.cap.kernel own r dst f.acc true (fun l => decide (f.kn.2 % l.per = 0))

/-- Rows of activations: K elements each from row `row0` on. -/
def State.readRows (s : State) (c : Nat) (x : Cmd) (r : Run) (a : EAddr) (t : Ty) (len row0 : Nat) : Nat → Res (List (List Elem))
  | 0 => (s, .ok [])
  | n + 1 => Res.then (s.readElems c x.cap.kernel r a t (row0 * len) len) fun s l =>
      Res.then (s.readRows c x r a t len (row0 + 1) n) fun s rest => (s, .ok (l :: rest))
/-- Rows of results written from row `row0` on; the flags and the first NaN. -/
def State.writeRows (s : State) (m : Nat) (q : Fin 2) (x : Cmd) (r : Run) (dst : EAddr) (t : Ty) (len last row0 : Nat) :
    List (List Out1) → Res (Fl × Option Word)
  | [] => (s, .ok (0, none))
  | o :: rest =>
    Res.then (s.writeElems m x.cap.kernel r dst t (row0 * len) (o.map fun e => (e.v, e.bad))) fun s n =>
      let own := o.zipIdx.foldl (fun b e => firstNan b (e.1.nan.map fun k => nanReport q row0 e.2 k)) none
      let enc := n.nan.map fun j => nanReport q row0 j last
      let fl := o.foldl (fun b e => b ||| e.fl) n.fl
      Res.then (s.writeRows m q x r dst t len last (row0 + 1) rest) fun s z =>
        (s, .ok (fl ||| z.1, firstNan (firstNan own enc) z.2))
/-- A group of rows multiplied by a plane of core `m`: every operand is read before a row is written (R313, R314). -/
def State.multiply (s : State) (m : Nat) (q : Fin 2) (x : Cmd) (r : Run) (p : Fin 2) (rows : List (List Elem)) (cAddr : Option EAddr)
    (dst : EAddr) (row0 : Nat) : Res (Fl × Option Word) :=
  let plane := (s.core m).mill.planes[p]
  let n := plane.fmt.kn.2
  let inits : Res (List (List Elem)) := match cAddr with
    | some a => s.readRows m x r a plane.fmt.acc n row0 rows.length
    | none => (s, .ok (rows.map fun _ => []))
  Res.then inits fun s cs =>
    let out := (rows.zip cs).map fun y => plane.row x.cap.satfin y.1 y.2
    s.writeRows m q x r dst plane.fmt.acc n (plane.fmt.kn.1 - 1) row0 out

/-- The C operand of a command. -/
def Cmd.cAddr (x : Cmd) : Option EAddr := if x.p.p3 = 0 then none else some x.at3
/-- M of a product (R329). -/
def Cmd.rowsM (x : Cmd) : Nat := x.p.p2.toNat % 2 ^ 21
/-- The members of a chain: each multiplies the same rows by its own plane, with its own C and destination (R315). -/
def State.multiplyAll (s : State) (q : Fin 2) (x : Cmd) (r : Run) (p : Fin 2) (rows : List (List Elem)) (row0 : Nat) :
    List Nat → Res (Fl × Option Word)
  | [] => (s, .ok (0, none))
  | m :: rest =>
    Res.then (s.multiply m q x r p rows x.cAddr x.at1 row0) fun s a =>
      Res.then (s.multiplyAll q x r p rows row0 rest) fun s b => (s, .ok (a.1 ||| b.1, firstNan a.2 b.2))
/-- The next row group of `m.mm` or `m.chain` (R313, R315). -/
def State.productGroup (s : State) (c : Nat) (q : Fin 2) (x : Cmd) (r0 : Run) (p : Fin 2) (members : List Nat) : Work :=
  let r := members.foldl (fun r m => s.sampleAt m x r ([x.at1] ++ x.cAddr.toList)) (s.sampleAt c x r0 [x.at0])
  let checks := members.foldl (fun e m => match e with
    | .error t => .error t
    | .ok _ => s.checkProduct c m false x r p (if m = c then some x.at0 else none) x.cAddr x.at1) (.ok () : Except Trap Unit)
  match checks with
  | .error t => .fault s t
  | .ok _ =>
    let f := (s.core c).mill.planes[p].fmt
    let row0 := 16 * r.pos
    let n := minN 16 (x.rowsM - row0)
    let held := members.any fun m => s.heldAt m x.cap.kernel (x.at1.add (row0 * f.kn.2 * f.acc.size : Nat)) (n * f.kn.2 * f.acc.size)
    if held || s.cutOff c x.cap.kernel (x.at0.add (row0 * f.kn.1 * f.elemTy.size : Nat)) (n * f.kn.1 * f.elemTy.size) then .wait else
    let res := Res.then (s.readRows c x r x.at0 f.elemTy f.kn.1 row0 n) fun s rows => s.multiplyAll q x r p rows row0 members
    match res with
    | (_, .error t) => .fault s t
    | (s1, .ok (fl, nan)) =>
      .done s1 { r with pos := r.pos + 1, flags := r.flags ||| fl, nan := firstNan r.nan nan
                        done := decide (x.rowsM ≤ row0 + n) }

/-- Row bytes of a plane's activations, and so the rows of a slot (R346). -/
def rowBytes (f : Fmt) : Nat := match f.block with | some b => f.kn.1 / b.b * b.p | none => f.kn.1 * f.elemTy.size
/-- The next row group of the slot that an `m.mmr` has taken (R317). -/
def State.slotGroup (s : State) (c : Nat) (q : Fin 2) (x : Cmd) (r0 : Run) (p : Fin 2) : Work :=
  match r0.share with
  | none => .wait
  | some t =>
    if !s.live t || (s.tileOf t).st != .published then .wait
    else
      let f := (s.core c).mill.planes[p].fmt
      let a := EAddr.loc (BitVec.ofNat 64 (s.tileOf t).base)
      let per := (s.tileOf t).size / rowBytes f
      let n := minN 16 (per - r0.sent)
      let r := s.sampleAt c x r0 [x.at0]
      let row0 := r.claims * per + r.sent
      match s.checkProduct c c false x r p (some a) none x.at0 with
      | .error e => .fault s e
      | .ok _ =>
        if s.heldAt c x.cap.kernel (x.at0.add (row0 * f.kn.2 * f.acc.size : Nat)) (n * f.kn.2 * f.acc.size) then .wait else
        let res := Res.then (s.readRows c x r a f.elemTy f.kn.1 r.sent n) fun s rows =>
          s.multiply c q x r p rows none x.at0 row0
        match res with
        | (_, .error e) => .fault s e
        | (s1, .ok (fl, nan)) =>
          let r1 := { r with pos := r.pos + 1, flags := r.flags ||| fl, nan := firstNan r.nan nan }
          if per ≤ r.sent + n then .done (s1.loseSee t) { r1 with sent := 0, claims := r.claims + 1, share := none }
          else .done s1 { r1 with sent := r.sent + n }

/-- MILL_ROW_GROUP: the next row group of a product, a chain or a ragged product (R313, R314, R315, R317). -/
def execMillRowGroup (c : Nat) (q : Fin 2) (s : State) : Out :=
  .next (match s.milling c q with
    | none => s
    | some (x, m, r) =>
      let work : Work := match m with
        | .mm p => s.productGroup c q x r p [c]
        | .chain p l => if r.members.length = l.val + 1 then s.productGroup c q x r p r.members else .wait
        | .mmr p _ _ _ => s.slotGroup c q x r p
        | _ => .wait
      if !s.millFree c q then s
      else match work with
        | .wait => s
        | .fault s1 t => s1.haltMill c q x r r.pos t
        | .done s1 r1 => s1.setRun c (millNum q) r1)

/-- Is a core's mill held by a chain of its own that mq1 works: it stands at a row boundary between two row groups (R315)? -/
def Core.ownChain (x : Core) (m : Nat) : Bool :=
  x.mill.reservedBy == some m && !(x.reservedFor 5).isEmpty && (x.reservedFor 4).isEmpty
/-- The chain that mq1 of a core works stands back: it lets go of every mill it has reserved, and reserves them again later, so that no
chain holds a mill while it waits for one further west (R315). -/
def State.standBack (s : State) (m : Nat) : State :=
  (s.freeMembers m ((s.core m).reservedFor 5)).modQueue m 5 fun e => { e with run := e.run.map fun r => { r with members := [] } }
/-- CHAIN_MEMBER_RESERVE: a chain reserves its next member's mill, which grants when it is idle or between row groups of its
own mq1, unless it loads the plane; a chain of mq0 takes its own core's mill from one of mq1 likewise (R312, R315, R316). -/
def execChainMemberReserve (c : Nat) (q : Fin 2) (s : State) : Out :=
  .next (match s.milling c q with
    | some (_, .chain p l, r) =>
      let m := c + r.members.length
      let y := s.core m
      let busy := m != c && (y.mill.active.isSome || ((y.equeue 4).working.isSome && s.millRunnable m 4))
      let yields := y.ownChain m && (m != c || q == 0)
      let taken := y.mill.reservedBy.isSome && !yields
      if l.val + 1 ≤ r.members.length || taken || busy || y.planeLoading p || !s.millFree c q || !y.engineRuns then s
      else ((if yields then s.standBack m else s).modMill m fun z => { z with reservedBy := some c }).setRun c (millNum q)
        { r with members := r.members ++ [m] }
    | _ => s)

/-- The count word of an `m.mmr` (R317, R346). -/
def State.endMmr (s : State) (c : Nat) (x : Cmd) (r : Run) (rows : Nat) : Work :=
  if x.p.p1 = 0 then .done s { r with done := true }
  else match s.resolveRuns c x.cap.kernel .store [(x.at1, 8)] with
    | (s1, .error t) => .fault s1 t
    | (s1, .ok keys) =>
      if keys.any fun k => s1.writeHeld k.1 then .wait
      else .done (s1.putBytes c keys ((leBytes 8 rows).map fun b => (b, false))) { r with done := true }
/-- A ragged product that has met the end of its ring writes its count (R317). -/
def State.finishMmr (s : State) (c : Nat) (q : Fin 2) (x : Cmd) (r : Run) (rows : Nat) : State :=
  match s.endMmr c x r rows with
  | .done s1 r1 => s1.setRun c (millNum q) r1
  | .fault s1 e => s1.haltMill c q x r r.pos e
  | .wait => s
/-- MMR_SLOT_PROCESS: a ragged product takes the share of its next claim as soon as that is made, meets a poisoned slot, or ends
(R317). -/
def execMmrSlotProcess (c : Nat) (q : Fin 2) (s : State) : Out :=
  .next (match s.milling c q with
    | some (x, .mmr p ring j _, r) =>
      let free := s.millFree c q && s.mmrReady c ring j.val 0 r
      match r.share, if r.ended then none else (s.core c).rings.find ring.val with
      | some u, _ =>
        if free && s.live u && (s.tileOf u).st == .poisoned then
          s.haltMill c q x r r.claim.toNat { cause := .poisonedTile, info := BitVec.ofNat 64 (s.tileOf u).base }
        else s
      | none, none => if free then s.finishMmr c q x r r.report.toNat else s
      | none, some g =>
        let n := g.next.getD j.val 0
        let per := g.size / rowBytes (s.core c).mill.planes[p].fmt
        if n.toNat < g.claimed.toNat then
          (s.modRing c ring.val fun h => { h with next := setNth h.next j.val (n + 1) }).setRun c (millNum q)
            { r with share := some (s.slotOf c g n), claim := n, report := BitVec.ofNat 64 ((r.claims + 1) * per) }
        else if g.closed && free then (s.endRing c ring.val).finishMmr c q x r (r.claims * per)
        else s
    | _ => s)

/-! ## Relaxations -/

/-- The report and trace address words of a tail record (R322, R323, R347). -/
def State.readTail (s : State) (c : Nat) (x : Cmd) : Res (Word × Word) :=
  if x.p.p3 = 0 then (s, .ok (0, 0))
  else Res.then (s.resolveRuns c x.cap.kernel .load [(x.at3, 16)]) fun s keys =>
    let d := s.gatherBytes c false keys
    let b := d.2.map (·.1)
    (d.1, .ok (wordAt b 0, wordAt b 8))
/-- Is a word of a tail record 0, or an aligned address without a handle (R347)? -/
def tailWordOk (w : Word) : Bool :=
  w == 0 || (decide (w.toNat % 8 = 0) && (match AddrWord.of w with | .virt _ | .loc _ => true | _ => false))
/-- An address word without a handle as an address. -/
def plainAddr (w : Word) : EAddr := EAddr.of w none false

/-- The shape of a relaxation: B and n (R319, R325). -/
def State.relaxShape (s : State) (c : Nat) (m : MillCmd) : Option (Fin 2 × Nat × Nat) :=
  match m with
  | .relax p b n => some (p, b.val + 1, n.val + 1)
  | .relaxb p => (s.core c).mill.deriv.map fun d => (p, d.b, d.n)
  | _ => none
/-- B rows of n FP32 elements. -/
def State.readFp (s : State) (c : Nat) (x : Cmd) (r : Run) (a : EAddr) (b n : Nat) : Res (List (List Elem)) :=
  Res.then (s.readElems c x.cap.kernel r a .f32 0 (b * n)) fun s l => (s, .ok (piecesOf n b l))
/-- Some entry of the n × n corner of a plane is poisoned (R419). -/
def Plane.cornerBad (p : Plane) (n : Nat) : Bool :=
  p.bad.any fun e => decide (e % p.fmt.kn.1 < n ∧ e / p.fmt.kn.1 < n)
/-- The initial rows of a relaxation (R321, R419). -/
def initialRows (z u : List (List Elem)) (bad : Nat → Bool) : List RelaxRow :=
  ((z.zip u).zipIdx).map fun y =>
    let b := bad y.2 || y.1.1.any (·.bad) || y.1.2.any (·.bad)
    { z := y.1.1.map fun e => v32 e.v, inj := y.1.2.map fun e => v32 e.v, fp := [], gp := [], al := [], pr := [], act := !b
      hist := false, st := if b then 4 else 0, it := 0, res := if b then 0x7FC00000 else 0, gam := 0 }

/-- The start of `m.relax` or `m.relaxb`: the tail record, the conditions of R319, R322, R325 and R347, the operands. The run
keeps the report and trace words as soon as they are read. -/
def State.startRelax (s : State) (c : Nat) (q : Fin 2) (x : Cmd) (m : MillCmd) (r0 : Run) : State × Run × Option Trap :=
  match s.readTail c x with
  | (s1, .error t) => (s1, r0, some t)
  | (s1, .ok (rep_, tr)) =>
    let r := s1.sampleAt c x { r0 with report := rep_, trace := tr } [x.at0, x.at1]
    let kern := x.cap.kernel
    let fail (t : Trap) : State × Run × Option Trap := (s1, r, some t)
    if !tailWordOk rep_ || !tailWordOk tr then fail (paramAt x.at3)
    else match s1.relaxShape c m with
      | none => fail (paramAt x.at0)
      | some (p, b, n) =>
        let plane := (s1.core c).mill.planes[p]
        let kn := plane.fmt.kn
        let back := match m with | .relaxb _ => true | _ => false
        let same := match (s1.core c).mill.deriv with | some d => d.fmt == plane.fmt | none => false
        let ok (own : Bool) (a : EAddr) : Except Trap Unit := s1.operandOk c kern own r a .f32 true (fun l => holdsElem l .f32)
        let bytes := 4 * b * n
        let outBytes := if back && x.cap.mctl.getLsbD 7 then 2 * bytes else bytes
        let out := s1.keysOf c kern .store x.at2 outBytes
        let ins := s1.keysOf c kern .load x.at0 bytes ++ s1.keysOf c kern .load x.at1 bytes
        let extra := if back then [] else
          (if rep_ = 0 then [] else s1.keysOf c kern .store (plainAddr rep_) 2048)
            ++ (if tr = 0 then [] else s1.keysOf c kern .store (plainAddr tr) (272 * x.cap.mitl.toNat))
        if (!back && plane.fmt == .i8) || decide (minN kn.1 kn.2 < n) || (back && !same) then fail (paramAt x.at0)
        else if rep_ == 0 && !(s1.core c).vec.lent3 then fail { cause := .report, info := 0 }
        else match (do ok false x.at0; ok false x.at1; ok true x.at2) with
          | .error t => fail t
          | .ok _ =>
            if setsMeet out (ins ++ extra) then fail (paramAt x.at2)
            else match s1.readFp c x r x.at0 b n with
              | (s2, .error t) => (s2, r, some t)
              | (s2, .ok first) => match s2.readFp c x r x.at1 b n with
                | (s3, .error t) => (s3, r, some t)
                | (s3, .ok second) =>
                  let corner := plane.cornerBad n
                  let bad (i : Nat) : Bool := corner ||
                    (back && (match (s3.core c).mill.deriv with | some d => d.bad.contains i | none => false))
                  let rows := if back then initialRows second first bad else initialRows first second bad
                  (s3.modMill c fun y =>
                    { y with active := some q, relax := some { rows := rows, n := n, k := 0, fallback := 0, res := 0 } }, r, none)

/-- One iteration over every active row, with what is noted of each row. -/
def RelaxCfg.iterate (g : RelaxCfg) (d : Option (List (List (BitVec 32)))) (k : Nat) (rows : List RelaxRow) : List RowOut :=
  rows.zipIdx.map fun y =>
    if !y.1.act then { row := y.1, note := .none, fallback := false }
    else match d with
      | none => g.forward k y.1
      | some l => g.backward k (l.getD y.2 []) y.1
/-- The trace record of iteration k (R323). -/
def traceRecord (k : Nat) (before after : List RelaxRow) : List Byte :=
  leBytes 8 k ++ leBytes 8 ((before.zipIdx.filter fun y => y.1.act).foldl (fun n y => n + 2 ^ y.2) 0)
    ++ ((upto 64).map fun i => leBytes 4 (match after[i]? with | some y => y.res.toNat | none => 0)).flatten
/-- The greatest residual of the rows active at the start, by the rules of vmax (R318, R321). -/
def maxResidual (before after : List RelaxRow) : BitVec 32 :=
  match (before.zip after).filter fun y => y.1.act with
  | [] => 0
  | y :: l => v32 (l.foldl (fun m z => (laneMin true .f32 m (w32 z.2.res)).v) (w32 y.2.res))

/-- The four lanes l of the report registers v24 to v27 (R322). -/
def reportLanes (rows : List RelaxRow) : List (List Word) :=
  let lane (f : RelaxRow → Word) (d : Word) : List Word := (upto 64).map fun i => match rows[i]? with | some y => f y | none => d
  [lane (fun y => BitVec.ofNat 64 y.it) 0, lane (fun y => w32 y.res) 0, lane (fun y => BitVec.ofNat 64 y.st) 3
  , lane (fun y => w32 y.gam) 0]
/-- The report written: into vb3, or to memory (R322). -/
def State.writeReport (s : State) (c : Nat) (x : Cmd) (r : Run) (rows : List RelaxRow) : Res Unit :=
  let l := reportLanes rows
  if r.report = 0 then
    (s.modCore c fun y => y.withVec fun v =>
      let put (v : Vec) (i : Fin 32) (w : List Word) : Vec := { v with v := v.v.set i (lanesOf w), poison := v.poison.set i 0 }
      put (put (put (put v 24 (l.getD 0 [])) 25 (l.getD 1 [])) 26 (l.getD 2 [])) 27 (l.getD 3 []), .ok ())
  else
    Res.then (s.resolveRuns c x.cap.kernel .store [(plainAddr r.report, 2048)]) fun s keys =>
      (s.putBytes c keys ((l.flatten.flatMap fun w => leBytes 8 w.toNat).map fun b => (b, false)), .ok ())
/-- The rows of an output as results with their poison. -/
def rowResults (rows : List RelaxRow) (n : Nat) (f : RelaxRow → List (BitVec 32)) : List (Word × Bool) :=
  rows.flatMap fun y => (upto n).map fun j => (w32 ((f y).getD j 0), y.st == 4)
/-- The end of a relaxation: the outputs, the report, the derivative plane (R321 to R325, R419). -/
def State.endRelax (s : State) (c : Nat) (x : Cmd) (m : MillCmd) (r0 : Run) (g : RelaxCfg) (y : Relax) : Work :=
  let r := s.sampleAt c x r0 [x.at2]
  let rows := y.rows.map fun w => if w.act then { w with act := false, st := 1 } else w
  let kern := x.cap.kernel
  let back := match m with | .relaxb _ => true | _ => false
  let nonconv := x.cap.mctl.getLsbD 0 && rows.any fun w => w.st == 1 || w.st == 2 || w.st == 4
  let bytes := 4 * rows.length * y.n
  let held := s.heldAt c kern x.at2 (if back && x.cap.mctl.getLsbD 7 then 2 * bytes else bytes)
    || (r.report != 0 && s.heldAt c kern (plainAddr r.report) 2048)
  if held then .wait else
  match s.operandOk c kern false r x.at2 .f32 true (fun l => holdsElem l .f32) with
  | .error t => .fault s t
  | .ok _ =>
  let res := Res.then (s.writeElems c kern r x.at2 .f32 0 (rowResults rows y.n (·.z))) fun s _ =>
    Res.then (if back && x.cap.mctl.getLsbD 7
        then s.writeElems c kern r x.at2 .f32 (rows.length * y.n) (rowResults rows y.n (·.pr)) else (s, .ok .none)) fun s _ =>
      s.writeReport c x r rows
  match res with
  | (_, .error t) => .fault s t
  | (s1, .ok _) =>
    let plane : Fin 2 := match m with | .relax p _ _ | .relaxb p => p | _ => 0
    let d : Deriv := { d := rows.map fun w => (upto y.n).map fun j => g.dphi (w32 (w.al.getD j 0)), b := rows.length, n := y.n
                       plane := plane, fmt := g.plane.fmt
                       bad := (rows.zipIdx.filter fun w => w.1.st == 4).map (·.2) }
    .done (s1.modMill c fun z => { z with relax := some { y with rows := rows }, deriv := if back then z.deriv else some d })
      { r with done := true, nonconv := nonconv }

/-- The next iteration of a relaxation, or its end (R321, R325). -/
def State.stepRelax (s : State) (c : Nat) (q : Fin 2) (x : Cmd) (m : MillCmd) (r : Run) (y : Relax) : Work :=
  let mill := (s.core c).mill
  let plane : Fin 2 := match m with | .relax p _ _ | .relaxb p => p | _ => 0
  let g : RelaxCfg := { cap := x.cap, plane := mill.planes[plane], table := mill.tables[x.cap.mpwl].words, n := y.n }
  let d := match m with | .relaxb _ => mill.deriv.map (·.d) | _ => none
  if decide (x.cap.mitl.toNat ≤ y.k) || !(y.rows.any (·.act)) then s.endRelax c x m r g y
  else
    let outs := g.iterate d y.k y.rows
    let rows := outs.map (·.row)
    let notes := outs.zipIdx.foldl (fun a o =>
      ((a.1 ||| o.1.note.fl : Fl), firstNan a.2 (o.1.note.nan.map fun j => nanReport q o.2 j y.k))) (r.flags, r.nan)
    let trace : Res Unit :=
      if r.trace = 0 then (s, .ok ())
      else Res.then (s.resolveRuns c x.cap.kernel .store [((plainAddr r.trace).add (272 * y.k : Nat), 272)]) fun s keys =>
        (s.putBytes c keys ((traceRecord y.k y.rows rows).map fun b => (b, false)), .ok ())
    if r.trace != 0 && s.heldAt c x.cap.kernel ((plainAddr r.trace).add (272 * y.k : Nat)) 272 then .wait else
    match trace with
    | (s1, .error t) => .fault s1 t
    | (s1, .ok _) =>
      let z : Relax := { y with rows := rows, k := y.k + 1, fallback := minN (2 ^ 32 - 1) (y.fallback + (outs.filter (·.fallback)).length)
                                res := maxResidual y.rows rows }
      .done (s1.modMill c fun w => { w with relax := some z }) { r with flags := notes.1, nan := notes.2 }

end Sys2Proof.Machine
end

