-- ==== Sys2Proof/Machine/Queue.lean ====
section
/-! DEFINITION. Queue entries from start to completion: the start with its checks (R301, R302, R334), completion (R307 to R309),
`q.wait` and `q.fence` (R298, R299), chains (R296, R297) and `q.resume` (R351). -/
namespace Sys2Proof.Machine

/-! ## Start -/

/-- The address that names a memory key: the PA; 0 for a plane, table or derivative plane. -/
def State.keyInfo (s : State) (k : Nat) : Word :=
  if 2 ^ 64 ≤ k then 0 else BitVec.ofNat 64 ((s.pkg (k / nodeSize)).member * nodeSize + k % nodeSize)
/-- Is command X of queue `q` and number `n` ordered before command Y of queue `qy` (R301)? -/
def Cmd.follows (y : Cmd) (qy q : Nat) (n : BitVec 32) : Bool := q == qy || y.after.covers q n
/-- The footprints that a command is compared with: DET commands among the 64 numbered before it that are concurrent with it
(R302). -/
def State.rivals (s : State) (c qy : Nat) (y : Cmd) : List Foot :=
  let x := s.core c
  let near (o : Nat) : Bool := decide (o < y.order ∧ y.order ≤ o + 64)
  let started := (x.past.filter fun p => near p.order && !y.follows qy p.q p.num).map fun p =>
    ({ reads := p.reads, writes := p.writes } : Foot)
  let waiting := (upto 6).flatMap fun q => ((x.queueCmds q).filter fun k =>
    k.cap.det && near k.order && !y.follows qy q k.num && !(x.past.any fun p => p.order == k.order)).map fun k => s.foot c k
  started ++ waiting
/-- The byte on which the write set of one of two footprints meets a set of the other. -/
def Foot.clash (a b : Foot) : Option Nat :=
  (firstMeet a.writes (b.writes ++ b.reads)).or (firstMeet a.reads b.writes)
/-- The OVERLAP check of a command that starts (R302). -/
def State.startOverlap (s : State) (c q : Nat) (y : Cmd) : Except Trap Unit :=
  if !y.cap.det then .ok ()
  else
    let f := s.foot c y
    match (s.rivals c q y).findSome? fun g => f.clash g with
    | some k => .error { cause := .overlap, info := s.keyInfo k }
    | none => .ok ()
/-- Can a started command still be among the 64 before one that has not started (R302)? -/
def Core.recalls (x : Core) (p : Past) : Bool :=
  decide (x.order ≤ p.order + 64)
    || (upto 6).any fun q => (x.queueCmds q).any fun k => decide (p.order < k.order ∧ k.order ≤ p.order + 64)
/-- A started DET command remembered with its footprint, for as long as one that starts may be compared with it (R302). -/
def State.remember (s : State) (c q : Nat) (y : Cmd) : State :=
  if !y.cap.det then s
  else
    let f := s.foot c y
    s.modCore c fun x =>
      { x with past := { q := q, num := y.num, order := y.order, reads := f.reads, writes := f.writes } :: x.past.filter x.recalls }

/-- BANKFMT of every bank of a core, by core and bank (R183). -/
def State.ownFormats (s : State) (c : Nat) : Tab Word := (upto 16).map fun b => (c * 16 + b, s.bankWord c b)
/-- The start-time conditions of a chain over cores, for the issuer and every member (R315). -/
def State.checkChain (s : State) (c : Nat) (x : Cmd) (r : Run) (p : Fin 2) (l : Nat) : Except Trap Unit :=
  let members := chainMembers c l
  let fmt (m : Nat) : Fmt := (s.core m).mill.planes[p].fmt
  if 128 < idxOf c % 128 + l ∨ !(members.all (s.gang c).contains) ∨ !(members.all fun m => fmt m == fmt c) then
    .error (paramTrap 0)
  else members.forM fun m => s.checkProduct c m true x r p (if m = c then some x.at0 else none) x.cAddr x.at1
/-- The start-time conditions of a ragged product: the ring, the slot size, the format of every slot, which lies in one bank as a
whole (R317, R346). -/
def State.checkMmr (s : State) (c : Nat) (x : Cmd) (r : Run) (p : Fin 2) (ring : Fin 16) (j : Nat) : Except Trap Unit :=
  let f := (s.core c).mill.planes[p].fmt
  match (s.core c).rings.find ring.val with
  | none => .error (paramTrap 0)
  | some g =>
    if g.c ≤ j ∨ g.size % rowBytes f ≠ 0 then .error (paramTrap 0)
    else do
      (upto g.slots.length).forM fun i => do
        let a : EAddr := .loc (BitVec.ofNat 64 (g.base + i * g.size))
        s.operandOk c x.cap.kernel true r a f.elemTy f.block.isNone fun l => l.fmt == f
        match s.bankAt r (spadKey c (g.base + i * g.size)) f.elemTy with
        | some (l, _, n0) => if (l.outside (n0 + g.size / l.size * l.per - 1)).isSome then .error (paramAt a) else .ok ()
        | none => .ok ()
      s.checkProduct c c true x r p none none x.at0
/-- What a command checks and reads at start, with its run (R334): none where it fails. -/
def State.startWork (s : State) (c : Nat) (q : Fin 6) (x : Cmd) (r : Run) : State × Run × Option Trap :=
  let checked (e : Except Trap Unit) : State × Run × Option Trap :=
    match e with
    | .ok _ => (s, r, none)
    | .error t => (s, r, some t)
  match x.op with
  | .carter .copy => checked (s.checkCopy c x r)
  | .carter (.gath _) | .carter .scat =>
    if x.cap.det then
      match s.indexWords c x { r with indices := [] } 0 (Shape.of x.p.p2 x.p.p3).c1 with
      | (s1, .ok l) => (s1, { r with indices := l }, none)
      | (s1, .error t) => (s1, r, some t)
    else (s, r, none)
  | .mill (.mm p) => checked (s.checkProduct c c true x r p (some x.at0) x.cAddr x.at1)
  | .mill (.chain p l) => checked (s.checkChain c x r p (l.val + 1))
  | .mill (.mmr p ring j _) => checked (s.checkMmr c x r p ring j.val)
  | .mill (.lds _ _) | .mill (.pwl _) => (s.modMill c fun y => { y with active := some (if q = 4 then 0 else 1) }, r, none)
  | .mill (.relax p b n) => s.startRelax c (if q = 4 then 0 else 1) x (.relax p b n) r
  | .mill (.relaxb p) => s.startRelax c (if q = 4 then 0 else 1) x (.relaxb p) r
  | _ => (s, r, none)
/-- A command started, or started again by `q.resume`: its checks, the OVERLAP check, its footprint remembered (R302, R334). -/
def State.startCmd (s : State) (c : Nat) (q : Fin 6) (x : Cmd) (r : Run) : State :=
  match s.startOverlap c q.val x with
  | .error t => s.haltCmd c q.val x r.unstarted r.pos t
  | .ok _ => match s.startWork c q x r with
    | (s1, r1, some t) => s1.haltCmd c q.val x r1.unstarted r1.pos t
    | (s1, r1, none) => (s1.remember c q.val x).setRun c q.val r1

/-! ## Completion -/

/-- The completion word (R307). -/
def completionWord (q : Nat) (num : BitVec 32) (status : Bool) : Word :=
  BitVec.ofNat 64 (num.toNat + q * 2 ^ 32 + bitAt status 40)
/-- The follow-on of a completed carter command pushed into its mill queue; none while that is full (R309). It is no push of the
control stream, so `halt` does not wait for it (DESIGN CHOICE, entry 52; R75). -/
def State.pushFollow (s : State) (c q : Nat) (x : Cmd) : Option State :=
  match x.follow with
  | none => some s
  | some f =>
    let u := millUnit f.word f.cmd
    let y := s.core c
    if queueDepth u.q ≤ y.queues[u.q].entries.length then none
    else
      let k := y.command u x.cap x.issuer x.before x.era none none
      let k1 := { k with after := (k.after.join x.after).join (.of q x.num) }
      some (s.modCore c fun z => (z.addEntry u.q (.cmd k1)).numbered u.q)
/-- The result registers of a relaxation, and the mill free again (R318, R321, R419). -/
def Core.relaxResults (y : Core) (x : Cmd) : Core :=
  match x.op, y.mill.relax with
  | .mill (.relax _ _ _), some z | .mill (.relaxb _), some z =>
    let nc := (z.rows.filter fun w => w.st == 1 || w.st == 2 || w.st == 4).length
    { y with mill := { y.mill with relax := none, active := none }
             csr := { y.csr with mres := z.res.setWidth 64, miter := BitVec.ofNat 64 z.k
                                 mhist := BitVec.ofNat 64 (nc * 2 ^ 32 + z.fallback) } }
  | _, _ => y
/-- The head of a queue gone: a command leaves, a chain goes on to its next word (R297). -/
def EQueue.retire (e : EQueue) : EQueue :=
  match e.entries with
  | .chain n i k b v _ (some _) link :: rest => { e with entries := .chain n i k b v (some link) none link :: rest, run := none }
  | _ :: rest => { e with entries := rest, run := none }
  | [] => e
/-- SEQ after the completion of a number: it does not go back (DESIGN CHOICE, entry 79; R293, R300). -/
def seqAfter (seq n : BitVec 32) : BitVec 32 := if seqReached seq n then seq else n
/-- A command has dropped its fill handle. -/
def QEntry.dropFill (e : QEntry) : QEntry :=
  match e with
  | .cmd x => .cmd { x with hfill := none }
  | .chain n i k b v o cur l => .chain n i k b v o (cur.map fun x => { x with hfill := none }) l
/-- The fill handle that a command holds dropped, once its writes are performed (R226, R354). -/
def State.dropCmdFill (s : State) (c q : Nat) (x : Cmd) : State :=
  match x.hfill with
  | some t => (s.publish t).modQueue c q fun e => { e with entries := match e.entries with | y :: r => y.dropFill :: r | [] => [] }
  | none => s
/-- A command completes, in the order of R307: its writes are performed; its fill handle is dropped; the follow-on; its see handle;
flags and results; SEQ; the completion word; the exceptions and ENGINE_DONE (R203, R226, R256, R305, R326, R354). While the
follow-on's queue is full the completion waits (R309). -/
def State.complete (s0 : State) (c q : Nat) (x : Cmd) (r : Run) : State :=
  let s := s0.dropCmdFill c q x
  match s.pushFollow c q x with
  | none => s
  | some s1 =>
    let nan := if x.cap.nantrap && (match x.op with | .mill _ => true | _ => false) then r.nan else none
    let word := completionWord q x.num (nan.isSome || r.nonconv)
    let s2 := match x.hsee with | some t => s1.loseSee t | none => s1
    let s3 := s2.modCore x.issuer fun y => let z := y.mergeFlags r.flags; if r.zue then z.countUez else z
    let s4 := (s3.freeMembers c r.members).modCore c fun y =>
      let z := y.relaxResults x
      { z with csr := { z.csr with seq := z.csr.seq.set! q (seqAfter (z.seq q) x.num) } }
    let s5 := if x.w then s4.writeNat (spadKey x.issuer (0x1F_FFC0 + 8 * q)) 8 word.toNat else s4
    let s6 := s5.modCore x.issuer fun y =>
      let a := match nan with | some v => y.pendV 2 v | none => y
      let b := if r.nonconv then a.pendV 1 word else a
      if x.i then b.pendV 0 word else b
    (s6.modQueue c q EQueue.retire).modCore c Core.drain

/-- COMMAND_COMPLETE: a command whose work is all done completes (R307). -/
def execCommandComplete (c : Nat) (q : Fin 6) (s : State) : Out :=
  .next (let e := (s.core c).equeue q.val
    match e.headCmd, e.run with
    | some x, some r => if r.done && r.halted.isNone && (s.core c).engineRuns then s.complete c q.val x r else s
    | _, _ => s)
/-- Q_WAIT_COMPLETE: a started `q.wait` completes once the queue it names has reached its number, at once for its own queue
(R298). -/
def execQWaitComplete (c : Nat) (q : Fin 6) (s : State) : Out :=
  .next (match ((s.core c).equeue q.val).working with
    | some (x, r) => match x.op with
      | .qwait m v => if m == q || seqReached ((s.core c).seq m.val) v then s.complete c q.val x r else s
      | _ => s
    | none => s)
/-- Q_FENCE_COMPLETE: a started `q.fence` completes once every captured number is reached (R299). -/
def execQFenceComplete (c : Nat) (q : Fin 6) (s : State) : Out :=
  .next (match ((s.core c).equeue q.val).working with
    | some (x, r) => match x.op with
      | .qfence l => if l.all fun e => seqReached ((s.core c).seq e.1) e.2 then s.complete c q.val x r else s
      | _ => s
    | none => s)

/-- May the head of a queue start: the engine runs, its interval has passed, what it must observe is performed; a mill command
also waits for the mill (R255, R294, R312, R316)? -/
def State.canStart (s : State) (c : Nat) (q : Fin 6) (x : Cmd) : Bool :=
  (s.core c).engineRuns && s.paced c q.val && s.observed x &&
    (match x.op with
      | .mill _ => (s.core c).mill.active.isNone && s.millRunnable c q.val && s.millFree c (if q = 4 then 0 else 1)
      | _ => true)
/-- ENGINE_ENTRY_START: the head of a queue starts; a `q.sig` completes as it starts (R308, R334). -/
def execEngineEntryStart (c : Nat) (q : Fin 6) (s : State) : Out :=
  .next (let e := (s.core c).equeue q.val
    match e.headCmd, e.run with
    | some x, none =>
      if !s.canStart c q x then s
      else
        let s1 := s.modQueue c q.val fun e => { e with since := some 0 }
        let r : Run := { Run.fresh with fmts := s.ownFormats c }
        match x.op with
        | .qsig => s1.complete c q.val x r
        | .qwait _ _ | .qfence _ => s1.setRun c q.val r
        | _ => s1.startCmd c q x r
    | _, _ => s)

/-! ## Mill commands that run to completion -/

/-- A load or relaxation that was halted and resumed, or saved with its core, runs again from its start, with its checks, once the
mill is free (R310, R314, R316). -/
def State.restart (s : State) (c : Nat) (q : Fin 2) (x : Cmd) (r : Run) : State :=
  if s.millFree c q && (s.core c).mill.active.isNone && s.millClear c x then s.startCmd c (millQ q) x r else s
/-- MILL_PLANE_LOAD: a started `m.lds` or `m.pwl` is performed (R312, R342, R343). -/
def execMillPlaneLoad (c : Nat) (q : Fin 2) (s : State) : Out :=
  .next (match s.milling c q with
    | none => s
    | some (x, m, r) =>
      let perform (w : Work) : State :=
        if !s.millFree c q then s
        else if (s.core c).mill.active.isNone then s.restart c q x r
        else match w with
          | .wait => s
          | .fault s1 t => s1.haltMill c q x r 0 t
          | .done s1 r1 => (s1.modMill c fun y => { y with active := none }).setRun c (millNum q) r1
      match m with
      | .lds p f => perform (s.loadPlane c x r p f)
      | .pwl t => perform (s.loadTable c x r t)
      | _ => s)
/-- MILL_RELAX_ITERATION: the next iteration of the relaxation of a queue, or its end (R321, R325). -/
def execMillRelaxIteration (c : Nat) (q : Fin 2) (s : State) : Out :=
  .next (match s.milling c q with
    | none => s
    | some (x, m, r) => match x.relaxing, (s.core c).mill.relax with
      | true, some y =>
        if (s.core c).mill.active != some q || !s.millFree c q then s
        else match s.stepRelax c q x m r y with
          | .wait => s
          | .fault s1 t => s1.haltMill c q x r 0 t
          | .done s1 r1 => s1.setRun c (millNum q) r1
      | true, none => s.restart c q x r
      | false, _ => s)

/-! ## Chains -/

/-- The unit of an instruction that can stand in a queue. -/
def unitOf (i : Instr) : Option EUnit :=
  match i with
  | .cCopy e => some (carterUnit e .copy)
  | .cGath e => some (carterUnit e (.gath false))
  | .cGathZ e => some (carterUnit e (.gath true))
  | .cScat e => some (carterUnit e .scat)
  | .cFill e b => some (carterUnit e (.fill b))
  | .cPut e => some (carterUnit e .put)
  | .cGet e => some (carterUnit e .get)
  | .cPin e => some (carterUnit e (.pin false))
  | .cPinOff e => some (carterUnit e (.pin true))
  | .cRedAdd e sz => some (carterUnit e (.red .add (szTy sz)))
  | .cRedAnd e sz => some (carterUnit e (.red .and (szTy sz)))
  | .cRedOr e sz => some (carterUnit e (.red .or (szTy sz)))
  | .cRedXor e sz => some (carterUnit e (.red .xor (szTy sz)))
  | .cRedMin e sz => some (carterUnit e (.red .min (szTy sz)))
  | .cRedMax e sz => some (carterUnit e (.red .max (szTy sz)))
  | .cRedMinu e sz => some (carterUnit e (.red .minu (szTy sz)))
  | .cRedMaxu e sz => some (carterUnit e (.red .maxu (szTy sz)))
  | .cRedFadd e sz => some (carterUnit e (.red .fadd (fpTy sz)))
  | .cRedFmin e sz => some (carterUnit e (.red .fmin (fpTy sz)))
  | .cRedFmax e sz => some (carterUnit e (.red .fmax (fpTy sz)))
  | .cRedBfadd e _ => some (carterUnit e (.red .fadd .bf16))
  | .cRedBfmin e _ => some (carterUnit e (.red .fmin .bf16))
  | .cRedBfmax e _ => some (carterUnit e (.red .fmax .bf16))
  | .mLds e p f => some (millUnit e (.lds p f))
  | .mMm e p => some (millUnit e (.mm p))
  | .mMmr e p r j t => some (millUnit e (.mmr p r j t))
  | .mRelax e p b n => some (millUnit e (.relax p b n))
  | .mRelaxb e p => some (millUnit e (.relaxb p))
  | .mPwl e t => some (millUnit e (.pwl t))
  | .mChain e p l => some (millUnit e (.chain p l))
  | .qWait e m p => some (queueUnit e (.qwait m) p)
  | .qFence e mask => some (queueUnit e (.qfence mask) noParams)
  | .qSig e => some (queueUnit e .qsig noParams)
  | _ => none

/-- A word of a chain, read as an engine reads (R296); a poisoned one gives no command (R337 for index words). -/
def State.chainWord (s : State) (c : Nat) (kernel : Bool) (a : EAddr) : Res Word :=
  Res.then (s.pieceKey c kernel .load a 8) fun s k =>
    let s1 := (s.countFrame k 8).onRead c k
    if s1.poisoned k 8 then (s1, .error { cause := .ue, info := a.granule k }) else (s1, .ok (s1.readWord k))
/-- `n` words of a chain. -/
def State.chainWords (s : State) (c : Nat) (kernel : Bool) (a : EAddr) : Nat → Res (List Word)
  | 0 => (s, .ok [])
  | n + 1 => Res.then (s.chainWord c kernel a) fun s w =>
      Res.then (s.chainWords c kernel (a.add 8) n) fun s l => (s, .ok (w :: l))
/-- A chain address as its word gives it: virtual or local and 8-byte aligned (R295, R297). -/
def chainAddr (w : Word) : Option EAddr :=
  match AddrWord.of w with
  | .virt va => if va.toNat % 8 = 0 then some (.virt va) else none
  | .loc off => if off % 8 = 0 then some (.loc (BitVec.ofNat 64 off)) else none
  | _ => none
/-- The word of an address. -/
def EAddr.word : EAddr → Word
  | .virt va => va
  | .loc off => off + BitVec.ofNat 64 (2 ^ 61)
  | .tile _ _ _ => 0
/-- PARAM in a chain element, at word `i` of the element. -/
def chainParam (a : EAddr) (i : Nat) : Trap := { cause := .param, info := (a.add (8 * i : Nat)).info }
/-- The checks on a unit read from a chain (R296): the queue, no markers, no references, and those of a push. -/
def Core.checkChained (x : Core) (a : EAddr) (q : Fin 6) (u : EUnit) : Except Trap Unit := do
  let refs := firstBad ((u.op.roles.zip (paramList u.p)).map fun r => (refOf? r.1 r.2).isNone)
  if u.q ≠ q ∨ u.h ≠ 0 then .error (chainParam a 0) else .ok ()
  match u.words.find? fun w => isMarker w.2 with
  | some w => .error (chainParam a w.1)
  | none => .ok ()
  match refs with
  | some i => .error (chainParam a (i + 1))
  | none => .ok ()
  match u.check (x.csr.mitl.setWidth 16) with
  | .error t => .error (if t.cause = .param then chainParam a t.info.toNat else t)
  | .ok _ => .ok ()
  x.checkForward u
/-- An element of a chain: its unit and the address of its next word. -/
def State.chainUnit (s : State) (c : Nat) (q : Fin 6) (kernel : Bool) (a : EAddr) : Res (EUnit × EAddr) :=
  Res.then (s.chainWord c kernel a) fun s w =>
    let finish (s : State) (i : Option Instr) (n : Nat) : Res (EUnit × EAddr) :=
      match i.bind unitOf with
      | none => (s, .error (chainParam a 0))
      | some u => match (s.core c).checkChained a q u with
        | .error t => (s, .error t)
        | .ok _ => (s, .ok (u, a.add (8 * (n + 1) : Nat)))
    match decControl w with
    | none => (s, .error (chainParam a 0))
    | some (.done i) => finish s (some i) 0
    | some (.more n fin) => Res.then (s.chainWords c kernel (a.add 8) n) fun s l => finish s (fin l) n

/-- CHAIN_ELEMENT_READ: the element that a chain at the head stands at is read, checked and numbered (R293, R296, R297). -/
def execChainElementRead (c : Nat) (q : Fin 6) (s : State) : Out :=
  .next (let e := (s.core c).equeue q.val
    match e.entries, e.run with
    | .chain next issuer kernel before era none none _ :: rest, none =>
      if !(s.core c).engineRuns then s
      else
        let halt (s : State) (t : Trap) : State := s.haltQueue c q.val issuer ((s.core c).pseq q.val + 1) .fresh 0 t
        match chainAddr next with
        | none => halt s { cause := .param, info := next }
        | some a => match s.chainUnit c q kernel a with
          | (s1, .error t) => halt s1 t
          | (s1, .ok (u, link)) =>
            let x := s1.core c
            let cmd := x.command u (x.capture kernel) issuer before era none none
            (s1.modCore c fun y => y.numbered q).modQueue c q.val fun e =>
              { e with entries := .chain next issuer kernel before era none (some cmd) link.word :: rest }
    | _, _ => s)
/-- CHAIN_NEXT_WORD_CHANGE: the next word is read: 1 ends the chain, 0 leaves it open, an address goes on (R297). -/
def execChainNextWordChange (c : Nat) (q : Fin 6) (s : State) : Out :=
  .next (let e := (s.core c).equeue q.val
    match e.entries, e.run with
    | .chain next issuer kernel before era (some link) none l :: rest, none =>
      if !(s.core c).engineRuns then s
      else
        let halt (s : State) (t : Trap) : State := s.haltQueue c q.val issuer ((s.core c).pseq q.val + 1) .fresh 0 t
        match chainAddr link with
        | none => halt s { cause := .param, info := next }
        | some a => match s.chainWord c kernel a with
          | (s1, .error t) => halt s1 t
          | (s1, .ok w) =>
            if w = 1 then (s1.modQueue c q.val fun e => { e with entries := rest }).modCore c Core.drain
            else if w = 0 then s1
            else match AddrWord.of w, chainAddr w with
              | .virt _, some _ => s1.modQueue c q.val fun e =>
                  { e with entries := .chain w issuer kernel before era none none l :: rest }
              | _, _ => halt s1 { cause := .param, info := w }
    | _, _ => s)

/-! ## Resumption -/

/-- A halted queue goes on: its command is checked again and restarts at its chunk or row group, one of a single group once the mill
is free for it; a chain reads again (R310, R314, R316, R351). -/
def State.resumeQueue (s : State) (c : Nat) (q : Fin 6) : State :=
  let e := (s.core c).equeue q.val
  match e.run with
  | none => s
  | some r =>
    if r.halted.isNone then s
    else match e.headCmd with
      | none => s.modQueue c q.val fun e => { e with run := none }
      | some x =>
        let fmts := if r.fmts.isEmpty then s.ownFormats c else r.fmts
        if x.whole then s.setRun c q.val { Run.fresh with fmts := fmts }
        else s.startCmd c q x { r with halted := none, fmts := fmts }
/-- `q.resume`: PRIV at U; of this core or of the core of a rank (R351). -/
def execQResume (q : Fin 6) (remote : Option Src) (s : State) : Out :=
  ctl s do
    let x := s.me
    x.needK
    match remote with
    | none => .ok (.go (s.resumeQueue s.cur q))
    | some a => do
      let r ← x.src1 a
      let d ← s.rankTarget r.1
      .ok (.go ((s.setCore s.cur r.2).resumeQueue d q))

end Sys2Proof.Machine
end

