-- ==== Sys2Proof/Machine/Remote.lean ====
section
/-! DEFINITION. Chunks of `c.put` and `c.get` at the package that a remote word names: the inbound window table, the doorbell,
the acknowledgement and the resend (R331, R340, R393 to R396). -/
namespace Sys2Proof.Machine

/-- The key of the counter of a window entry; none without a doorbell or where it does not translate. -/
def State.doorbellKey (s : State) (p e : Nat) : Option (Word × Nat) :=
  match (((s.pkg p).func (e / 32)).windows.find (e % 32)) with
  | none => none
  | some w => if w.doorbell = 0 then none else match s.translateDev p w.ptbase w.doorbell 8 .both with
    | .ok k _ => some (w.doorbell, k)
    | _ => none
/-- The counters of the entries that a `c.put` of core `c` wrote, each incremented by an atomic add (R395). -/
def State.ringDoorbells (s : State) (c p : Nat) (entries : List Nat) : State :=
  entries.foldl (fun s e => match s.doorbellKey p e with
    | none => s
    | some d => (s.performKey c { op := .red .add 1, addr := .virt d.1, ty := .u64, ord := .plain, zue := false, kernel := true } d.2).1) s
/-- Does a swap hold the write of one of the counters (R198)? -/
def State.doorbellHeld (s : State) (p : Nat) (entries : List Nat) : Bool :=
  entries.any fun e => match s.doorbellKey p e with | some d => s.writeHeld d.2 | none => false

/-- A chunk that has ended, gone from the list. -/
def State.dropChunk (s : State) (k : Nat) : State := { s with chunks := dropNth s.chunks k }
/-- Is the function that a core belongs to in ERROR (R406)? -/
def State.coreInError (s : State) (c : Nat) : Bool :=
  match s.funcOf c with
  | some f => ((s.pkg (pkgOf c)).func f).tdi == .error
  | none => false
/-- The source of a chunk: the command and its run, if they still wait for it and their function is not in ERROR (R406). -/
def State.chunkSource (s : State) (ch : Chunk) : Option (Cmd × Run) :=
  match if s.coreInError ch.src then none else ((s.core ch.src).equeue ch.q.val).working with
  | some (x, r) => if r.pos = ch.c ∧ r.sent = ch.c + 1 then some (x, r) else none
  | none => none
/-- Does a chunk go to a package of the issuer's own domain (R396)? -/
def State.sameDomain (s : State) (ch : Chunk) : Bool := ch.target / 4096 == (s.pkg (pkgOf ch.src)).domain
/-- The package that a chunk names, if it can be reached. -/
def State.chunkTarget (s : State) (ch : Chunk) : Option Nat :=
  s.remotePkg ch.src ch.target
/-- The fault of a chunk whose package does not answer (R391, R393). -/
def State.absentChunk (s : State) (ch : Chunk) : Trap :=
  { cause := .groupAbsent, info := BitVec.ofNat 64 (if s.sameDomain ch then ch.target % 4096 else ch.target) }
/-- The chunk ends in a fault at its source (R310). -/
def State.failChunk (s : State) (k : Nat) (ch : Chunk) (t : Trap) : State :=
  match s.chunkSource ch with
  | some (x, r) => (s.dropChunk k).haltCmd ch.src ch.q.val x { r with sent := r.pos } r.pos t
  | none => s.dropChunk k
/-- The chunk is acknowledged at its source (R340). -/
def State.ackChunk (s : State) (k : Nat) (ch : Chunk) (entries : List Nat) : State :=
  match s.chunkSource ch with
  | none => s.dropChunk k
  | some (_, r) =>
    let r1 := { r with pos := r.pos + 1, acked := r.acked + 1, touched := (r.touched ++ entries).eraseDups, done := ch.last }
    (s.dropChunk k).setRun ch.src ch.q.val r1

/-- The remote runs of a chunk, at window offsets (R340). -/
def Chunk.runs (ch : Chunk) (x : Cmd) : List (Int × Nat) :=
  if ch.put then [((ch.offset + ch.dst : Nat), ch.bytes.length)]
  else
    let h := Shape.of x.p.p2 x.p.p3
    (h.segs ch.dst (minN h.total (ch.dst + chunkSize))).map fun r => ((ch.offset : Int) + r.1, r.2)
/-- A refusal by the window table (R394). -/
def refusal (ch : Chunk) : Trap := { cause := .perm, info := BitVec.ofNat 64 ch.offset }

/-- May a chunk be performed at keys that entry `e` of package `p` maps: what it reads or writes can cross the ring in the slots of the
entry's partition (R384), and nothing goes upstream for a function in ERROR (R406)? -/
def State.windowWay (s : State) (p e : Nat) (keys : List (Nat × Nat)) : Bool :=
  keys.all fun k => s.ringWay p (some (e / 32)) 4 (s.ringStop p k.1)
    && !(regionOf (k.1 % nodeSize) == .host && ((s.pkg p).func (e / 32)).tdi == .error)
/-- INBOUND_CHUNK: a chunk is checked and performed at its receiver, with the doorbells after the last one, once for a command, and
acknowledged; over Ethernet the acknowledgement may be lost, and the chunk stays until it is resent (R340, R393 to R396). Within a
domain it comes after what its core has sent to the package before it (R390). -/
def execInboundChunk (k : Nat) (s : State) : Out :=
  .next (match s.chunks[k]? with
    | none => s
    | some ch => match s.chunkSource ch, s.chunkTarget ch with
      | none, _ => s.dropChunk k
      | some _, none => if s.sameDomain ch then s.failChunk k ch (s.absentChunk ch) else s
      | some (x, r), some p =>
        let runs := ch.runs x
        match (s.pkg p).windowFor ch.put runs with
        | none => s.failChunk k ch (refusal ch)
        | some (e, w) =>
          let entries := if w.doorbell = 0 then [] else [e]
          let bells := if ch.last && !r.rung then (r.touched ++ entries).eraseDups else []
          if ch.performed then s.ackChunk k ch entries
          else if s.sameDomain ch && s.behindSent ch.src p ch.seq s.msgs (s.chunks.take k) then s
          else match s.windowKeys p w (if ch.put then .store else .load) runs with
            | none => s.failChunk k ch (refusal ch)
            | some keys =>
              if !s.windowWay p e keys then s
              else if ch.put then
                if keys.any (fun y => s.writeHeld y.1) || s.doorbellHeld p bells then s
                else
                  let d := ch.bytes.zipIdx.map fun b => (b.1, ch.bad.contains b.2)
                  let s1 := ((s.setRun ch.src ch.q.val { r with rung := r.rung || ch.last }).putBytes ch.src keys d).ringDoorbells ch.src p bells
                  if !s.sameDomain ch && Config.freeChoice s.draws 2 == 1 then
                    { s1 with draws := s.draws + 1, chunks := setNth s1.chunks k { ch with performed := true } }
                  else { s1 with draws := s.draws + 1 }.ackChunk k ch entries
              else
                let n := (runs.map (·.2)).foldl (· + ·) 0
                match s.resolveRuns ch.src x.cap.kernel .store [(x.at1.add ch.dst, n)] with
                | (s1, .error t) => s1.failChunk k ch t
                | (s1, .ok dk) =>
                  if dk.any fun y => s1.writeHeld y.1 || !s1.mayGo ch.src y.1 then s
                  else
                    let d := s1.gatherBytes ch.src false keys
                    (d.1.putBytes ch.src dk d.2).ackChunk k ch [])

/-- CHUNK_RESEND_TIMEOUT: an unacknowledged chunk of another domain is sent again; after 16 resends it faults GROUP_ABSENT
(R393). -/
def execChunkResendTimeout (k : Nat) (s : State) : Out :=
  .next (match s.chunks[k]? with
    | none => s
    | some ch =>
      if s.sameDomain ch then s
      else if 16 ≤ ch.resends then s.failChunk k ch (s.absentChunk ch)
      else { s with chunks := setNth s.chunks k { ch with resends := ch.resends + 1 } })

end Sys2Proof.Machine
end

