-- ==== Sys2Proof/Machine/Trap.lean ====
section
/-! DEFINITION. What a core takes before its words are offered (R363, R366), the stalls of R48, freezes and errors (R47, R199,
R201), and the save and restore of a context (R376 to R378). -/
namespace Sys2Proof.Machine

/-! ## Events -/

/-- What a core can take in a cycle before any word is offered (R363). -/
inductive Pending where
  | debug
  | save
  | watchdog
  | trim (hamlet : Word)
  | engine (f : EFault)
  | event (i : Fin 4) (cause : Cause)
  deriving DecidableEq, Repr

/-- The pending engine fault of the lowest queue code, of one queue the oldest (R363). -/
def Core.engineFault (x : Core) : Option EFault :=
  x.events.engine.foldl (fun a f => match a with
    | none => some f
    | some g => if f.q < g.q then some f else some g) none
/-- The V causes from the highest priority down, with their PEND bits above 32 (R363, R366). -/
def vCauses : List (Fin 4 × Cause) := [(2, .nanTrap), (1, .nonConv), (0, .engineDone), (3, .mailNotify)]
/-- The V cause that is eligible: pending and enabled, with EN set and no handler running (R363). -/
def Core.vEvent (x : Core) : Option (Fin 4 × Cause) :=
  if bitOf x.csr.uie 0 && !x.uliActive then
    vCauses.find? fun v => bitOf x.csr.uie (32 + v.1.val) && bitOf x.csr.uie (4 + v.1.val)
  else none
/-- The event that a core takes first (R363): none while a word completes past its commit point (R260); at K only DEBUG and
THERMAL_SAVE. -/
def Core.pending (x : Core) : Option Pending :=
  if x.ctl.past then none
  else if x.events.debug then some .debug
  else if x.events.thermal then some .save
  else if x.ctl.kernel then none
  else if x.events.watchdog then some .watchdog
  else match x.events.trimUe, x.engineFault, x.vEvent with
    | some h, _, _ => some (.trim h)
    | none, some f, _ => some (.engine f)
    | none, none, some v => some (.event v.1 v.2)
    | none, none, none => none

/-- ELAPSED (R176). -/
def elapsedOf (w : Word) : Nat := w.toNat / 256 % 2 ^ 32
/-- The event of an engine fault, with INFO2 and INFO3 (R362, R370). -/
def EFault.event (f : EFault) : Event :=
  { trap := f.trap, vstream := false, engine := true, async := true
    info2 := BitVec.ofNat 64 (f.num.toNat * 2 ^ 32 + f.q), info3 := BitVec.ofNat 64 f.c }
/-- A core that a kernel entry left in place of running: halted or being saved, unless its frame did not fit. -/
def State.parkCore (s : State) (c : Nat) (m : Mode) : State :=
  s.modCore c fun x => if x.mode == .stopped then x else { x with mode := m }
/-- An event taken: a debug halt (R375), a thermal save (R377), a kernel trap or a user-level interrupt (R364, R368); PEND and
WDOG as R366 and R178 say. No word of either stream issues in that cycle (R367). -/
def State.deliverEvent (s : State) (c : Nat) (p : Pending) : State :=
  let entered : State := match p with
    | .debug =>
      ((s.modCore c fun x => { x with events := { x.events with debug := false } }).enterKernel c
        (.ofAsync { cause := .debug, info := 0 })).parkCore c .halted
    | .save =>
      ((s.modCore c fun x => { x with events := { x.events with thermal := false } }).enterKernel c
        (.ofAsync { cause := .thermalSave, info := 0 })).parkCore c (.saving .thermalSave)
    | .watchdog =>
      (s.modCore c fun x =>
        { x with events := { x.events with watchdog := false }, csr := { x.csr with preempt := setBit x.csr.preempt 2 } }).enterKernel
        c (.ofAsync { cause := .preemptWatchdog, info := BitVec.ofNat 64 (elapsedOf (s.core c).csr.preempt) })
    | .trim h =>
      (s.modCore c fun x => { x with events := { x.events with trimUe := none } }).enterKernel c
        (.ofAsync { cause := .trimUe, info := h })
    | .engine f =>
      (s.modCore c fun x => { x with events := { x.events with engine := x.events.engine.erase f } }).take c f.event
    | .event i cause =>
      (s.modCore c fun x => x.withCsr fun r => { r with uie := clearBit r.uie (32 + i.val) }).enterUli c
        (.ofAsync { cause := cause, info := (s.core c).events.vals[i] })
  entered.modCore c fun x => { x with phase := .tick }

/-- Do the streams of a core run? -/
def Core.running (x : Core) : Bool :=
  x.freeze == 0 && (match x.mode with | .normal | .haltPending => true | _ => false)
/-- Is an event delivered as a kernel trap (R364)? -/
def Core.toKernel (x : Core) : Pending → Bool
  | .watchdog | .trim _ => true
  | .engine f => !(f.trap.cause.delegable && bitOf x.csr.udeleg f.trap.cause.code && !x.uliActive)
  | _ => false
/-- The first event of a core taken, if it is of a kind and the words of the cycle have not been offered. -/
def State.takeEvent (s : State) (c : Nat) (p : Core → Pending → Bool) : State :=
  let x := s.core c
  match x.pending with
  | some e => if x.phase == .offer && x.running && p x e then s.deliverEvent c e else s
  | none => s

/-- KERNEL_TRAP: an asynchronous event is taken as a kernel trap (R363, R364, R368); a synchronous trap is taken by the word
that raises it. -/
def execKernelTrap (c : Nat) (s : State) : Out := .next (s.takeEvent c Core.toKernel)
/-- USER_LEVEL_INTERRUPT: an event is taken as a user-level interrupt (R363, R364, R368). -/
def execUserLevelInterrupt (c : Nat) (s : State) : Out :=
  .next (s.takeEvent c fun x p => match p with
    | .event _ _ => true
    | .engine _ => !x.toKernel p
    | _ => false)
/-- DEBUG_HALT (R375). -/
def execDebugHalt (c : Nat) (s : State) : Out :=
  .next (s.takeEvent c fun _ p => match p with | .debug => true | _ => false)
/-- PREEMPT_WATCHDOG (R178). -/
def execPreemptWatchdog (c : Nat) (s : State) : Out :=
  .next (s.takeEvent c fun _ p => match p with | .watchdog => true | _ => false)

/-! ## Queue stalls -/

/-- The queue operations on which a stream waits. -/
def waitOps (w : Option Wait) : List Nat :=
  match w with
  | some (.queue code more) => code :: more
  | _ => []
/-- The QUEUE_STALL that a stream takes after more than 2^20 cycles on one queue operation, with the code of the queue (R48,
R103, R362); of several for which that holds the first in the order of the operands counts (DESIGN CHOICE, entry 119). -/
def stallTrap (w : Option Wait) (n : Tab Nat) : Option Trap :=
  ((waitOps w).find? fun code => decide (Config.stallLimit < (n.find code).getD 0)).map fun code =>
    { cause := .queueStall, info := BitVec.ofNat 64 code }
/-- QUEUE_STALL: the control stream's trap before the vector stream's, and neither while a word completes past its commit point
(R48, R103, R260, R363). Where the control stream has a word of its own to offer, the cycle decides which trap is taken. -/
def execQueueStall (c : Nat) (s : State) : Out :=
  .next (let x := s.core c
    if x.phase != .offer || !x.running then s
    else
      let go (t : Trap) (v : Bool) : State := (s.take c (.sync t v)).modCore c fun x => { x with phase := .tick }
      if x.ctl.past || x.ctl.nan.isSome then s
      else match stallTrap x.ctl.wait x.ctl.qcnt, stallTrap x.vec.wait x.vec.qcnt with
      | some t, _ => go t false
      | none, some t => if x.ctl.running && x.ctl.blk.isNone then s else go t true
      | none, none => s)

/-! ## Freezes and errors -/

/-- A cycle of a freeze: CYCLE, ECCFREEZE and the energy estimate count on, nothing else does (R47, R199, R200, R411). -/
def Core.frozenCycle (x : Core) (c : Nat) : Core :=
  { x with
    freeze := x.freeze - 1, landed := 0, fresh := 0, landedMem := 0, corrected := false
    csr := { x.csr with cycle := x.csr.cycle + 1, eccfreeze := x.csr.eccfreeze + 1
                        euse := x.csr.euse + Config.freeEnergy c x.csr.cycle.toNat } }
/-- CORRECTABLE_ERROR_FREEZE: the corrections of one cycle on a core's ports or by its vault feed: one freeze, each of them counted,
one and a free number more (R199, R412, entry 90). -/
def execCorrectableErrorFreeze (c : Nat) (s : State) : Out :=
  .next (({ s with draws := s.draws + 1 }.modCore c Core.correct).modHamlet (pkgOf c) (hamletOf c)
    (Hamlet.countMany (1 + Config.freeCorrections s.draws)))
/-- FREEZE_END: the last cycle of a freeze passes, and every count goes on (R47). -/
def execFreezeEnd (c : Nat) (s : State) : Out :=
  .next (if (s.core c).freeze = 1 then s.modCore c fun x => x.frozenCycle c else s)
/-- UNCORRECTABLE_ERROR: the granule of a byte is poisoned (R201, R413). The corrections of the window that froze no core, a free
number, have had their effect on its hamlet's rail before it (R412, entry 90). -/
def execUncorrectableError (p : Nat) (pa : BitVec 44) (s : State) : Out :=
  .next (let t : State := match s.hamletAt (key p pa.toNat) with
      | some h => { s with draws := s.draws + 1 }.modHamlet h.1 h.2 (Hamlet.countMany (Config.freeCorrections s.draws))
      | none => s
    t.breakGranule (key p pa.toNat))

/-! ## Context slots -/

/-- The rank of a core among its partition's cores, and the partition (R165). -/
def State.rankOf (s : State) (c : Nat) : Option (Nat × Nat) :=
  (s.partOfCore c).map fun k => (k, (s.gang c).idxOf c)
/-- The memory key of the slot of a core's rank: in the region of its package's entry, which has room for the entry's cores, at the
place of its rank among theirs (R376, entry 94). -/
def State.slotKey (s : State) (c : Nat) : Nat :=
  let e := s.entry (pkgOf c) ((s.funcOf c).getD 0)
  key (pkgOf c) (e.ctxbase.toNat % nodeSize) + (entryCores (pkgOf c) e).idxOf c * 0x21_0000
/-- A slot that is EMPTY. -/
def CtxSlot.empty : CtxSlot :=
  { state := 0, rank := 0, cause := 0, slice := 0, tenant := 0, image := .none, rings := [], written := 0, home := 0
    gang := [], at_ := 0, bad := [] }
/-- The slot of a rank. -/
def Part.slot (x : Part) (r : Nat) : CtxSlot := (x.slots.find r).getD .empty
/-- Slot `r` of partition `k` changed. -/
def State.modSlot (s : State) (k r : Nat) (f : CtxSlot → CtxSlot) : State :=
  s.modPart k fun x => { x with slots := x.slots.put r (f (x.slot r)) }
/-- The slot of a core's rank. -/
def State.slotOfCore (s : State) (c : Nat) : CtxSlot :=
  match s.rankOf c with
  | some k => (s.part k.1).slot k.2
  | none => .empty

/-- STATE of every slot of partition `k` that is not EMPTY set to EMPTY (R377, R379). -/
def State.emptySlots (s : State) (k : Nat) : State :=
  ((s.part k).slots.foldl (fun t l => if l.2.state = 0 then t else t.writeNat l.2.at_ 8 0) s).modPart k fun y => { y with slots := [] }
/-- Slot `r` of partition `k` EMPTY, its STATE with it (R225, R378). -/
def State.clearSlot (s : State) (k r : Nat) (l : CtxSlot) : State := (s.writeNat l.at_ 8 0).modSlot k r fun _ => .empty
/-- `n` bytes of a slot that have no stated place. -/
def State.freeBytes (s : State) (n : Nat) : List Byte := (upto n).map fun i => Config.freeImage s.draws i
/-- Block `b` of an image below the scratchpad part: the header's words and the vector registers stand where R376 puts them; s1 to
s31 with the shadow registers, and k0 to k7 with a0 to a11, begin their sections as words in the order its table names them; the
rest of the sections is in an order that it leaves open (entry 3). -/
def State.headBlock (s : State) (c : Nat) (l : CtxSlot) (b : Nat) : List Byte :=
  let word (v : Word) : List Byte := leBytes 8 v.toNat
  let x := s.core c
  let named : List Byte :=
    if b = 1 then (x.ctl.s.toList.drop 1).flatMap word ++ (x.ctl.shadow.toList.take 1).flatMap word
    else if b = 2 then (x.ctl.shadow.toList.drop 1).flatMap word
    else if b = 11 then x.vec.k.toList.flatMap word ++ x.vec.a.toList.flatMap word
    else []
  if b = 0 then
    word (BitVec.ofNat 64 l.state) ++ word (BitVec.ofNat 64 l.rank) ++ word l.cause ++ word (l.slice.setWidth 64) ++ word l.tenant
      ++ s.freeBytes 216
  else if 16 ≤ b ∧ b < 80 then
    (upto 32).flatMap fun i => word (x.vec.lane (Fin.ofNat 32 ((b - 16) / 2)) ((b - 16) % 2 * 32 + i))
  else named ++ s.freeBytes (256 - named.length)
/-- Blocks of 256 bytes in a slot, and the first one of its scratchpad part (R376, R377). -/
def slotBlocks : Nat := 8448
/-- Blocks below the scratchpad part. -/
def slotHead : Nat := 256

/-- A save has quiesced: the core's chunks, decoupled accesses and handle messages have ended (R377). -/
def State.quiet (s : State) (c : Nat) : Bool :=
  (s.flight.all fun a => a.core != c) && (s.gloads.all fun g => g.core != c) && (s.chunks.all fun h => h.src != c)
    && (s.msgs.all fun m => match m with | .handle a b _ _ _ _ => a != c && b != c | _ => true)
    && ((s.core c).boxes.toList.length == 4 && (s.core c).coming.toList.all (· == 0))
/-- The mill queue that runs. -/
def Mill.queue? (m : Mill) : Option Nat := m.active.map fun q => if q = 0 then 4 else 5
/-- A queue whose command goes back to group 0. -/
def EQueue.rewind (e : EQueue) : EQueue := { e with run := e.run.map fun r => { r with pos := 0 } }
/-- A one-group command that a save stops restarts from group 0 (R314, R377). -/
def Core.stopMill (x : Core) : Core :=
  match x.mill.relax, x.mill.queue? with
  | some _, some q =>
    { x with mill := { x.mill with relax := none }, queues := x.queues.set! q (x.equeue q).rewind }
  | _, _ => x
/-- The poisoned granules of a scratchpad, by their local offsets. -/
def State.badOffsets (s : State) (c : Nat) : List Nat :=
  (s.poison.filter fun g => spadOwner g == some c).map spadOff

/-- The members that a saved core's chains have reserved are free again (R315, R377). -/
def State.releaseChains (s : State) (c : Nat) : State :=
  [4, 5].foldl (fun t q => match ((t.core c).equeue q).run with
    | some r => (t.freeMembers c r.members).modQueue c q fun e => { e with run := e.run.map fun r => { r with members := [] } }
    | none => t) s
/-- The image of a core that is being saved starts: STATE := SAVING, with the header (R376, R377). -/
def State.startSave (s0 : State) (c k r : Nat) (cause : Cause) : State :=
  let s := s0.releaseChains c
  let t := (s.modCore c Core.stopMill).writeNat (s.slotKey c) 8 1
  let x := t.core c
  t.modSlot k r fun _ =>
    { state := 1, rank := r, cause := BitVec.ofNat 64 cause.code, tenant := x.csr.tenant
      slice := match (s.part k).launch with | some l => l.slice | none => 0
      image := none, rings := x.rings, written := 0, home := c, gang := s.gang c, at_ := s.slotKey c, bad := [] }
/-- The next block of an image, and VALID after the last one; what the store below the scratchpad part stands for, the model keeps as
the core's state itself (entry 3). -/
def State.saveBlock (s : State) (c k r : Nat) (l : CtxSlot) : State :=
  let bytes := if l.written < slotHead then s.headBlock c l l.written
    else s.readBytes (spadKey c (256 * (l.written - slotHead))) 256
  let t : State := { s.write (l.at_ + 256 * l.written) bytes with draws := s.draws + 1 }
  if l.written + 1 = slotBlocks then
    (t.writeNat l.at_ 8 2).modSlot k r fun l =>
      { l with written := slotBlocks, state := 2, image := some (s.core c), bad := s.badOffsets c }
  else t.modSlot k r fun l => { l with written := l.written + 1 }

/-- CONTEXT_SAVE: THERMAL_SAVE is taken with no handler; a core that is being saved quiesces, writes SAVING, then its image in
blocks of 256 bytes in ascending order, then VALID, and counts as DRAINED (R177, R377). -/
def execContextSave (c : Nat) (s : State) : Out :=
  .next (let x := s.core c
    match x.mode, s.rankOf c with
    | .saving cause, some (k, r) =>
      let l := (s.part k).slot r
      if l.state ≠ 1 ∨ l.home ≠ c then (if s.quiet c then s.startSave c k r cause else s)
      else
        let t := s.saveBlock c k r l
        if ((t.part k).slot r).state = 2 then
          t.modCore c fun x => { x with mode := .saved, csr := { x.csr with preempt := setBit x.csr.preempt 1 } }
        else t
    | _, _ => s.takeEvent c fun _ p => match p with | .save => true | _ => false)

/-! ## Cores renumbered when a context moves to another core -/

/-- A tile reference whose home has moved. -/
def TileRef.move (f : Nat → Nat) (t : TileRef) : TileRef := { t with core := f t.core }
/-- A handle whose tiles' homes have moved. -/
def Handle.move (f : Nat → Nat) : Handle → Handle
  | .null => .null
  | .fill t => .fill (t.move f)
  | .see t => .see (t.move f)
  | .gsee g => .gsee { g with slots := g.slots.map fun t => t.map (TileRef.move f) }
/-- A request of an entry that a replay may issue again. -/
def Req.move (f : Nat → Nat) (r : Req) : Req :=
  match r.addr with
  | .tile h off => { r with addr := .tile (h.move f) off }
  | _ => r
/-- A command whose issuer and tiles have moved. -/
def Cmd.move (f : Nat → Nat) (x : Cmd) : Cmd :=
  { x with issuer := f x.issuer, hfill := x.hfill.map (TileRef.move f), hsee := x.hsee.map (TileRef.move f) }
/-- A queue entry whose issuer has moved. -/
def QEntry.move (f : Nat → Nat) : QEntry → QEntry
  | .cmd x => .cmd (x.move f)
  | .chain n i k b v o c l => .chain n (f i) k b v o (c.map (Cmd.move f)) l
/-- The formats that a command sampled, under the banks of the core that now runs it. -/
def moveFmts (f : Nat → Nat) (t : Tab Word) : Tab Word := t.foldl (fun a x => Tab.put a (f (x.1 / 16) * 16 + x.1 % 16) x.2) []
/-- A queue whose commands have moved. -/
def EQueue.move (f : Nat → Nat) (e : EQueue) : EQueue :=
  { e with entries := e.entries.map (QEntry.move f)
           run := e.run.map fun r => { r with fmts := moveFmts f r.fmts, share := r.share.map (TileRef.move f)
                                              members := r.members.map f } }

/-- A core whose context is restored: what the slot holds from the image, what the slice's start set kept (R173, R376, R378). -/
def Core.restored (x img : Core) (f : Nat → Nat) : Core :=
  { x with
    ctl := { img.ctl with h := Vector.ofFn fun i => (img.ctl.h[i]).move f
                          lq := Vector.ofFn fun q => (img.ctl.lq[q]).map fun e => { e with req := e.req.move f } }
    vec := { img.vec with vlq := Vector.ofFn fun q => (img.vec.vlq[q]).map fun e =>
              { e with reqs := e.reqs.map fun r => r.map (Req.move f) } }
    csr := { x.csr with
      fsr := img.csr.fsr, uvec := img.csr.uvec, uframe := img.csr.uframe, ucause := img.csr.ucause, uinfo := img.csr.uinfo
      uie := img.csr.uie, bankfmt := img.csr.bankfmt, pace := img.csr.pace, mtol := img.csr.mtol, mitl := img.csr.mitl
      momega := img.csr.momega, macc := img.csr.macc, mnorm := img.csr.mnorm, mclamp := img.csr.mclamp, mpwl := img.csr.mpwl
      mctl := img.csr.mctl, det := img.csr.det, seq := img.csr.seq, pseq := img.csr.pseq, mres := img.csr.mres
      miter := img.csr.miter, mhist := img.csr.mhist, uezcount := img.csr.uezcount, kframe := img.csr.kframe }
    queues := Vector.ofFn fun q => (img.queues[q]).move f
    order := img.order, past := img.past
    tiles := Tab.mapVal img.tiles fun t => { t with parked := [] }
    rings := Tab.mapVal img.rings fun g => { g with waiters := [], readers := [] }
    boxes := Vector.ofFn fun m => (img.boxes[m]).map (Handle.move f)
    events := { img.events with engine := img.events.engine.map fun e => { e with core := f e.core } }
    live := img.live, task := img.task, lost := img.lost, lastPush := img.lastPush }

/-- Where a core of the slice in which a slot was saved has gone: the core that holds its rank now (R165, R179, R180). -/
def CtxSlot.movedTo (l : CtxSlot) (gang : List Nat) (c : Nat) : Nat :=
  if l.gang.contains c then gang.getD (l.gang.idxOf c) c else c
/-- The ring of a slot's ring area defined again, its slots the lowest-numbered entries that are FREE (R225). -/
def Core.restoreRing (x : Core) (r : Nat) (g : Ring) : Core :=
  let slots := x.openTiles.take g.slots.length
  { x with
    rings := x.rings.put r { g with slots := slots, waiters := [], readers := [] }
    tiles := slots.zipIdx.foldl (fun ts t =>
      Tab.put ts t.1 { (Tab.find ts t.1).getD .reset with base := g.base + g.size * t.2, size := g.size, ring := some (Fin.ofNat 16 r) })
      x.tiles }

/-- The state that CONTEXT_RESTORE leaves on a core of partition `k` and rank `r`. The scratchpad that it writes counts as written
in the launch that runs, so that a code word in it may be fetched as it stood before (DESIGN CHOICE, entry 110; R44). -/
def State.restoreSlot (s : State) (c k r : Nat) (l : CtxSlot) : State :=
  match l.state, l.image with
  | 2, some img =>
    let f := l.movedTo (s.gang c)
    let t := s.write (spadKey c 0) (s.readBytes (l.at_ + 0x1_0000) Config.spadSize)
    let u := l.bad.foldl (fun s o => s.poisonGranule (spadKey c o)) t
    let v := (u.modCore c fun x => x.restored img f).clearSlot k r l
    match v.returnKernel c with
    | .ok w => w
    | .error t => v.take c (.sync t false)
  | 3, _ =>
    (s.modCore c fun x => l.rings.foldl (fun y g => y.restoreRing g.1 g.2) x).clearSlot k r l
  | _, _ => s
/-- CONTEXT_RESTORE: in a launch with RESUME, a VALID slot is restored into the core that holds its rank, which acts as the `kret` that
started the save; a slot in state RINGS gives its rings. A core that a request has found idle restores nothing in this slice (R177,
R225, R378). -/
def execContextRestore (c : Nat) (s : State) : Out :=
  .next (match s.rankOf c with
    | some (k, r) =>
      let x := s.core c
      let open_ := (s.part k).started && (match (s.part k).launch with | some l => l.resume | none => false)
        && x.mode == .normal && !x.task && !x.ctl.running && !x.drained
      if open_ then s.restoreSlot c k r ((s.part k).slot r) else s
    | none => s)

end Sys2Proof.Machine
end

