-- ==== Sys2Proof/Machine/Launch.lean ====
section
/-! DEFINITION. Launches: submission and its checks (R162 to R164, R172), the start of a launch and of a resumed slice (R171,
R173, R179), idle cores (R174), completion and slice ends (R175, R177, R225), pre-emption requests (R176, R398), partition
entries (R386), and the MSI-X messages they send (R399). -/
namespace Sys2Proof.Machine

/-! ## MSI-X -/

/-- An MSI-X table entry that nothing has written: masked (entry 1). -/
def Msix.reset : Msix := { addr := 0, data := 0, masked := true, pending := false, holding := false, held := 0 }
/-- Entry `v` of a function's table. -/
def Func.vector (x : Func) (v : Nat) : Msix := (x.msix.find v).getD .reset
/-- A message sent, or left pending under its mask; the holding interval begins (R399). -/
def State.emit (s : State) (p f v : Nat) : State :=
  let x := (s.pkg p).func f
  let m := x.vector v
  let sent : Msix := if m.masked then { m with pending := true, held := 0 }
    else { m with pending := false, held := 0, holding := x.coalInterval != 0 }
  let t := s.modFunc p f fun y => { y with msix := y.msix.put v sent }
  if m.masked then t else { t with hostOut := t.hostOut ++ [(p, m.addr, leBytes 4 m.data.toNat)] }
/-- An event on a vector: sent at once, or held and merged while the interval of an earlier message runs (R399). A function in
ERROR sends nothing (R406). -/
def State.signal (s : State) (p f v : Nat) : State :=
  let x := (s.pkg p).func f
  let m := x.vector v
  if x.tdi == .error then s
  else if x.coalInterval == 0 || !m.holding then s.emit p f v
  else if 2 ≤ x.coalCount.toNat ∧ x.coalCount.toNat ≤ m.held + 1 then s.emit p f v
  else s.modFunc p f fun y => { y with msix := y.msix.put v { m with held := m.held + 1 } }
/-- MSIX_INTERVAL_END: a held event is sent when the interval ends, but not by a function in ERROR (R399, R406). -/
def execMsixIntervalEnd (p : Nat) (f : Fin 64) (v : Fin 2048) (s : State) : Out :=
  .next (let m := ((s.pkg p).func f.val).vector v.val
    if !s.up p || !m.holding then s
    else
      let t := s.modFunc p f.val fun y => { y with msix := y.msix.put v.val { m with holding := false } }
      if m.held = 0 || ((s.pkg p).func f.val).tdi == .error then t else t.emit p f.val v.val)

/-! ## The device's own accesses -/

/-- Bytes read through a partition context (R164, R387). -/
def State.devRead (s : State) (p : Nat) (ptbase : Word) : List (EAddr × Nat) → Except Trap (List Byte)
  | [] => .ok []
  | (a, n) :: r =>
    match s.translateDev p ptbase a.info n .load with
    | .absent node => .error (nodeTrap node)
    | .trap cause => .error { cause := cause, info := a.info }
    | .ok k _ =>
      if s.poisoned k n then .error { cause := .ue, info := a.info }
      else match s.devRead p ptbase r with
        | .ok l => .ok (s.readBytes k n ++ l)
        | .error t => .error t
/-- `n` bytes at a virtual address of any alignment. -/
def State.devBytes (s : State) (p : Nat) (ptbase va : Word) (n : Nat) : Except Trap (List Byte) :=
  s.devRead p ptbase ((EAddr.virt va).pieces n)
/-- What a read of `n` bytes by the device counts: its walks and its accesses (R197). -/
def State.devCount (s : State) (p : Nat) (ptbase va : Word) (n : Nat) : State :=
  ((EAddr.virt va).pieces n).foldl (fun t x =>
    let u := t.countWalk p ptbase x.1.info.toNat
    match s.translateDev p ptbase x.1.info x.2 .load with
    | .ok k _ => u.countFrame k x.2
    | _ => u) s
/-- A word written through a partition context, counted with its walk (R197). -/
def State.devStore (s : State) (p : Nat) (ptbase va v : Word) : Except Trap State :=
  match s.translateDev p ptbase va 8 .store with
  | .ok k _ => .ok (((s.countWalk p ptbase va.toNat).countFrame k 8).writeNat k 8 v.toNat)
  | .absent node => .error (nodeTrap node)
  | .trap cause => .error { cause := cause, info := va }

/-! ## Submission -/

/-- Write FSUB: the record waits, or OVF is set when 16 wait; the hamlets of the partition are to wake (R398, R414). -/
def State.requestWake (s : State) (p f : Nat) : State :=
  let k := s.partOf p f
  (s.partPkgs (s.pkg p).domain k).foldl (fun s q =>
    (entryCores q (s.entry q f)).foldl (fun s c => s.modHamlet q (hamletOf c) fun h =>
      if h.gated then { h with request := true } else h) s) s
/-- Does a function take host accesses to its own BARs: not in CONFIG_LOCKED, not in ERROR (R404, R406)? -/
def Func.open_ (x : Func) : Bool := x.tdi == .unlocked || x.tdi == .run
/-- Does a working package take host accesses to a function's BARs (R404, R406, R418)? -/
def State.takes (s : State) (p f : Nat) : Bool := s.up p && ((s.pkg p).func f).open_
/-- FSUB (R398). -/
def execFsub (p : Nat) (f : Fin 64) (v : Word) (s : State) : Out :=
  .next (let x := (s.pkg p).func f.val
    if !s.takes p f.val then s
    else if 16 ≤ x.subs.length then s.modFunc p f.val fun y => { y with ovf := true }
    else (s.modFunc p f.val fun y => { y with subs := y.subs ++ [v] }).requestWake p f.val)

/-- The cores of a partition as NCORES of its entries counts them (R164, R386). -/
def State.totalCores (s : State) (p f : Nat) : Nat :=
  (s.partPkgs (s.pkg p).domain (s.partOf p f)).foldl (fun n q => n + (s.entry q f).ncores.toNat) 0
/-- A completion word (R175). -/
def launchWord (slice : BitVec 32) (reason status : Nat) : Word :=
  BitVec.ofNat 64 (slice.toNat * 2 ^ 32 + reason * 2 ^ 16 + status)

/-- The domain and the scope that a level descriptor names, as codes. -/
def levelCodes (w : Word) : Nat × Nat := (w.toNat % 8, w.toNat / 16 % 8)
/-- REASON 4 of a record: codes of descriptors in use, zero fields of all (R164). -/
def levelsBad (used unused : List Word) (flags : Nat) : Bool :=
  (used.any fun w => decide (4 < (levelCodes w).1 ∨ 4 < (levelCodes w).2 ∨ w.toNat / 2 ^ 13 ≠ 0 ∨ hasBit w.toNat 7 ∨ hasBit w.toNat 3))
    || unused.any (· != 0) || decide (flags / 16 ≠ 0)
/-- Strictly widening domains (R163). -/
def widening : List Nat → Bool
  | a :: b :: r => decide (a < b) && widening (b :: r)
  | _ => true
/-- The narrowest scope that covers a domain (R163). -/
def scopeFor (domain : Nat) : Nat := match domain with | 0 => 0 | 1 => 1 | 2 => 1 | 3 => 2 | _ => 3
/-- REASON 6 (R164). -/
def qlogBad (w : Word) : Bool := let q := w.toNat / 256 % 32; !(q == 0 || decide (6 ≤ q ∧ q ≤ 20))

/-- A launch record's fields (R162). -/
structure Record where
  entry : Word
  frame : Word
  n : Nat
  nlevels : Nat
  flags : Nat
  msivec : Nat
  caddr : Word
  qbase : Word
  state : Word
  prep : Word
  levels : List Word
  deriving DecidableEq, Repr
/-- A record from its 128 bytes (R162). -/
def Record.of (b : List Byte) : Record :=
  { entry := wordAt b 0, frame := wordAt b 8, n := at_ b 0x10 4, nlevels := at_ b 0x14 1, flags := at_ b 0x15 1
    msivec := at_ b 0x16 2, caddr := wordAt b 0x18, qbase := wordAt b 0x28, state := wordAt b 0x30, prep := wordAt b 0x38
    levels := (upto 8).map fun j => wordAt b (0x40 + 8 * j) }
/-- FLAGS.RESUME. -/
def Record.resume (r : Record) : Bool := hasBit r.flags 2
/-- The checks of R164 up to REASON 9, in their order; 0 if they pass. A PREP that is not aligned has REASON 1 under RESUME too,
though R172 lets such a submission ignore PREP (DESIGN CHOICE, entry 112). -/
def Record.reason (r : Record) (cores : Nat) (klaunch : Bool) : Nat :=
  let used := r.levels.take r.nlevels
  let codes := used.map levelCodes
  let off (w : Word) (n : Nat) : Bool := decide (w.toNat % n ≠ 0)
  if off r.entry 8 || off r.frame 8 || off r.caddr 8 || off r.prep 8 || off r.qbase 64 then 1
  else if r.n ≠ cores then 2
  else if r.nlevels = 0 ∨ 8 < r.nlevels then 3
  else if levelsBad used (r.levels.drop r.nlevels) r.flags then 4
  else if !widening (codes.map (·.1)) || codes.any (fun c => decide (c.2 < scopeFor c.1)) then 5
  else if used.any qlogBad then 6
  else if 2047 < r.msivec then 7
  else if r.resume ∧ r.state.toNat % 256 ≠ 3 then 8
  else if hasBit r.flags 3 ∧ !klaunch then 9
  else 0

/-- Has a BANKFMT value no reserved code and no reserved bit (R172, R182)? -/
def bankFmtOk (v : Word) : Bool := decide (v.toNat < 2 ^ 24 ∧ v.toNat % 16 < 13 ∧ v.toNat / 16 % 8 < 5)
/-- The rank field of a preparation entry, none for every rank. -/
def prepRank (v : Nat) : Option Nat := if v = 0xFFFFFFFF then none else some v
/-- A preparation table read and checked from an entry on, with the REASON of its rejection; `fuel` entries may follow (R172). -/
def State.readPrep (s : State) (p : Nat) (ptbase : Word) (n : Nat) : Nat → Word → Except Nat (List Prep)
  | 0, _ => .error 11
  | fuel + 1, va =>
    match s.devBytes p ptbase va 32 with
    | .error _ => .error 10
    | .ok b =>
      let rank := at_ b 4 4
      let src := wordAt b 8
      let dst := at_ b 16 8
      let len := at_ b 24 8
      let rankOk := decide (rank < n) || rank == 0xFFFFFFFF
      let more (e : Prep) : Except Nat (List Prep) :=
        match s.readPrep p ptbase n fuel (va + 32) with
        | .ok l => .ok (e :: l)
        | .error r => .error r
      match at_ b 0 4 with
      | 0 => .ok []
      | 1 =>
        if !rankOk || decide (len = 0 ∨ Config.spadSize < dst + len) then .error 11
        else match s.devBytes p ptbase src len with
          | .error _ => .error 10
          | .ok bytes => more (.image (prepRank rank) dst bytes)
      | 2 =>
        if !rankOk || decide (15 < dst ∨ len ≠ 0) || !bankFmtOk src then .error 11
        else more (.bankfmt (prepRank rank) (Fin.ofNat 16 dst) src)
      | _ => .error 11

/-- What the reading of a preparation table counts: its entries and the images that they name (R172, R197). -/
def State.countPrep (s : State) (p : Nat) (ptbase : Word) : Nat → Word → State
  | 0, _ => s
  | fuel + 1, va => match s.devBytes p ptbase va 32 with
    | .error _ => s
    | .ok b =>
      let t := s.devCount p ptbase va 32
      match at_ b 0 4 with
      | 1 => (t.devCount p ptbase (wordAt b 8) (at_ b 24 8)).countPrep p ptbase fuel (va + 32)
      | 2 => t.countPrep p ptbase fuel (va + 32)
      | _ => t

/-- A swap holds the write of a word of the device (R198). -/
def State.devHeld (s : State) (p : Nat) (ptbase va : Word) : Bool :=
  match s.translateDev p ptbase va 8 .store with
  | .ok k _ => s.writeHeld k
  | _ => false
/-- A rejected submission: its completion word at CADDR under CW, its message under MSI (R164, R175). With REASON 7 and an MSIVEC
that names no vector no message is sent (DESIGN CHOICE, entry 113). -/
def State.reject (s : State) (p f : Nat) (e : PEntryTab) (r : Record) (reason : Nat) : State :=
  let slice : BitVec 32 := if r.resume then BitVec.ofNat 32 (r.state.toNat / 2 ^ 32) else 0
  let t := if hasBit r.flags 0 then
      match s.devStore p e.ptbase r.caddr (launchWord slice reason 2) with
      | .ok t => t
      | .error _ => s
    else s
  if hasBit r.flags 1 && decide (r.msivec < 2048) then t.signal p f r.msivec else t
/-- The REASON of a record as package `q` of the partition reads it, through its own entry's context (R164, R386, R387). -/
def State.recordReason (s : State) (q f : Nat) (va : Word) (cores : Nat) : Nat :=
  match s.devBytes q (s.entry q f).ptbase va 128 with
  | .error _ => 10
  | .ok b => (Record.of b).reason cores (s.entry q f).klaunch
/-- What a record that cannot be read whole says for its rejection: none where FLAGS, MSIVEC and CADDR cannot be read; of the other
words those that cannot are free values (entry 56). -/
def State.recordRest (s : State) (p : Nat) (ptbase va : Word) : Option Record :=
  let word (i : Nat) : Except Trap (List Byte) := s.devBytes p ptbase (va + BitVec.ofNat 64 (8 * i)) 8
  match word 2, word 3 with
  | .ok _, .ok _ => some (Record.of ((upto 16).flatMap fun i => match word i with
    | .ok b => b
    | .error _ => leBytes 8 (Config.freeChoice s.draws (2 ^ 64))))
  | _, _ => none
/-- LAUNCH_SUBMIT: the record at the head of a function's submissions is checked once no launch runs; it is accepted or rejected
(R164, R172, R398); every package of the partition reads it, the submitting one first (R386). A partition in CONFIG_LOCKED or ERROR
starts none (R404, R406). -/
def execLaunchSubmit (p : Nat) (f : Fin 64) (s : State) : Out :=
  .next (let x := (s.pkg p).func f.val
    let e := x.part
    let k := s.partOf p f.val
    match x.subs with
    | [] => s
    | va :: rest =>
      if !s.takes p f.val || (s.part k).launch.isSome then s
      else
        let pkgs := p :: (s.partPkgs (s.pkg p).domain k).filter (· != p)
        let t0 := s.modFunc p f.val fun y => { y with subs := rest }
        let t := pkgs.foldl (fun t q => t.devCount q (s.entry q f.val).ptbase va 128) t0
        let bad := ((pkgs.map fun q => t.recordReason q f.val va (s.totalCores p f.val)).find? (· != 0)).getD 0
        let turn (t : State) (r : Record) (why : Nat) : State :=
          if hasBit r.flags 0 && s.devHeld p e.ptbase r.caddr then s else t.reject p f.val e r why
        if !e.valid then t0
        else match t.devBytes p e.ptbase va 128 with
        | .error _ => match t.recordRest p e.ptbase va with
          | some r => turn { t with draws := t.draws + 1 } r bad
          | none => t
        | .ok b =>
          let r := Record.of b
          if bad ≠ 0 then turn t r bad
          else
            let u := if r.prep = 0 ∨ r.resume then t else t.countPrep p e.ptbase 65536 r.prep
            let accept (prep : List Prep) : State :=
              u.modPart k fun y => { y with
                started := false
                launch := some
                  { addr := va, entry := r.entry, frame := r.frame, n := r.n, levels := r.levels.take r.nlevels
                    flags := BitVec.ofNat 8 r.flags, msivec := r.msivec, caddr := r.caddr, qbase := r.qbase
                    slice := if r.resume then BitVec.ofNat 32 (r.state.toNat / 2 ^ 32 + 1) else 1
                    prep := prep, pkg := p, func := f } }
            if r.prep = 0 ∨ r.resume then accept []
            else match t.readPrep p e.ptbase r.n 65536 r.prep with
              | .error why => turn u r why
              | .ok l => accept l)

/-! ## Start -/

/-- The CSRs of R173. -/
def Csrs.begin (x : Csrs) (e : PEntryTab) (f rank n : Nat) : Csrs :=
  { Csrs.reset with
    cycle := x.cycle, eccfreeze := x.eccfreeze, euse := x.euse, kvec := x.kvec, kframe := x.kframe, kcause := x.kcause
    kinfo := x.kinfo, udeleg := x.udeleg, errinj := x.errinj, ptbase := e.ptbase, ctxid := e.ctxid
    rank := BitVec.ofNat 64 rank, ncores := BitVec.ofNat 64 n
    tenant := BitVec.ofNat 64 (e.tag.toNat % 65536 * 65536 + f * 256 + e.tier.val) }
/-- A core at the start of a launch or of a resumed slice (R173): idle, with what R173 keeps. `start` numbers the launch's first
access. -/
def Core.begin (x : Core) (e : PEntryTab) (f rank n start : Nat) : Core :=
  { Core.reset with
    csr := x.csr.begin e f rank n
    tiles := Tab.mapVal x.tiles fun t => { Tile.reset with gen := t.gen }
    rr := x.rr, tlb := x.tlb, freeze := x.freeze, wakes := x.wakes, live := x.live, debugSel := x.debugSel, start := start
    events := { Events.reset with debug := x.events.debug, thermal := x.events.thermal, trimUe := x.events.trimUe }
    mode := if x.events.debug then .haltPending else .normal }
/-- The control stream at a gang entry or a task (R171): registers 1 up from a list, the others 0. -/
def Ctl.atEntry (t : Ctl) (pc : Word) (kernel : Bool) (args : List Word) : Ctl :=
  { t with
    running := true, pc := pc, kernel := kernel, s := Vector.ofFn fun i => if i.val = 0 then 0 else args.getD (i.val - 1) 0
    poison := rep 32 none, words := [], idle := none, busy := [], wait := none, qcnt := [], h := rep 16 .null }
/-- The gang entry of a core (R42, R171). -/
def Core.atGang (x : Core) (l : Launch) (rank : Nat) : Core :=
  { x with
    task := true
    ctl := x.ctl.atEntry l.entry (l.flags.getLsbD 3) [BitVec.ofNat 64 rank, l.frame, BitVec.ofNat 64 l.n] }
/-- A preparation entry applied to the cores of a launch, in rank order (R172). -/
def State.applyPrep (s : State) (gang : List Nat) (e : Prep) : State :=
  let ranks (r : Option Nat) : List Nat := match r with | none => gang | some i => gang[i]?.toList
  match e with
  | .image r dst bytes => (ranks r).foldl (fun s c => s.write (spadKey c dst) bytes) s
  | .bankfmt r b v => (ranks r).foldl (fun s c => s.modCore c fun x => x.withCsr fun y =>
      { y with bankfmt := y.bankfmt.set b v }) s

/-- The cores of partition `k` of function `f` in the domain of package `p`, each with its entry's package. -/
def State.members (s : State) (p k : Nat) : List Nat := s.partCores (s.pkg p).domain k
/-- May a partition start: every package working, every hamlet awake, no die held by trip 3, no core halted or stopped, no function
locked or in ERROR (R404, R406, R414, R415, R418)? -/
def State.canBegin (s : State) (f : Nat) (gang : List Nat) : Bool :=
  gang.all fun c =>
    let x := s.core c
    (match x.mode with | .normal | .haltPending | .saved => true | _ => false)
      && !(((s.pkg (pkgOf c)).hamlets.toList.getD (hamletOf c) .reset).gated) && !(s.die c).halted
      && s.takes (pkgOf c) f
/-- The state of R173 on every core of a launch; MEMFLAGS, and the pre-emption requests, are 0. What has been written so far is
fetched as written (R44). -/
def State.begin (s : State) (k f : Nat) (gang : List Nat) (l : Launch) : State :=
  let t := gang.zipIdx.foldl (fun s c => s.modCore c.1 fun x =>
    x.begin (s.entry (pkgOf c.1) f) f c.2 l.n (s.nextId + 1)) s
  t.modPart k fun y => { y with started := true, memflags := 0 }
/-- GANG_START: every core in its start state, then the preparation table, then the gang entries (R171 to R173). -/
def execGangStart (p : Nat) (f : Fin 64) (s : State) : Out :=
  .next (let k := s.partOf p f.val
    let gang := s.members p k
    match (s.part k).launch with
    | some l =>
      if (s.part k).started || l.resume || !s.canBegin f.val gang then s
      else
        let t := l.prep.foldl (fun s e => s.applyPrep gang e) (s.begin k f.val gang l)
        let u := gang.zipIdx.foldl (fun s c => s.modCore c.1 fun x => x.atGang l c.2) t
        { u with nextId := u.nextId + 1 }
    | none => s)
/-- RESUMED_SLICE_START: every core starts idle; contexts and rings are restored before it pops (R173, R179, R225, R378). -/
def execResumedSliceStart (p : Nat) (f : Fin 64) (s : State) : Out :=
  .next (let k := s.partOf p f.val
    let gang := s.members p k
    match (s.part k).launch with
    | some l =>
      if (s.part k).started || !l.resume || !s.canBegin f.val gang then s
      else { s.begin k f.val gang l with nextId := s.nextId + 1 }
    | none => s)

/-! ## Idle cores -/

/-- The partition stops as a core error: its cores stop, and FSTAT and FERR record it (R387). -/
def State.stopPartition (s : State) (gang : List Nat) : State :=
  gang.foldl (fun s c => s.modCore c fun x => { x with mode := .stopped }) s
/-- The queues of a level in the order in which an idle core looks: its own node's, then its siblings' from there on, wrapping
(R166, R174). -/
def Launch.order (l : Launch) (gang : List Nat) (c j : Nat) : List Nat :=
  let w := l.levels.getD j 0
  let nodes := levelNodes w gang
  let own := nodes.idxOf (levelNode w c)
  let parent (i : Nat) : Option Nat := match l.levels[j + 1]? with
    | none => none
    | some v => (gang.find? fun d => nodes[i]? == some (levelNode w d)).map (levelNode v)
  let sibs := (upto nodes.length).filter fun i => parent i == parent own
  own :: (sibs.filter fun i => decide (own < i)) ++ sibs.filter fun i => decide (i < own)
/-- Every queue in the order of an idle core (R174). -/
def Launch.search (l : Launch) (gang : List Nat) (c : Nat) : List NodeQueue :=
  (upto l.levels.length).flatMap fun j => (l.order gang c j).map fun i => l.queue gang j i
/-- Has a launch with RESUME a slot that is still to be restored? The contexts and rings of a slice are restored before any of its
cores pops a record (entry 93; R173, R178, R225, R378). -/
def State.toRestore (s : State) (k : Nat) (l : Launch) : Bool := l.resume && (s.part k).slots.any fun x => decide (2 ≤ x.2.state)
/-- A core of a launch between tasks that may look for a record: idle, with no request pending, nothing left to restore (R174, R177,
R178). -/
def State.mayPop (s : State) (c k : Nat) (l : Launch) : Bool :=
  let x := s.core c
  !x.task && !x.ctl.running && x.freeze == 0 && x.mode == .normal && !x.req && !s.toRestore k l
/-- A task on a core (R171); a CODE that is not aligned traps before any word issues. -/
def State.startTask (s : State) (c n : Nat) (b : List Byte) : State :=
  let code := wordAt b 0
  let t := s.modCore c fun x =>
    { x with
      task := true
      ctl := x.ctl.atEntry code false [x.csr.rank, wordAt b 8, BitVec.ofNat 64 n, wordAt b 16, wordAt b 24] }
  if code.toNat % 8 ≠ 0 then t.take c (.sync { cause := .misalign, info := code } false) else t
/-- The first queue of a list that holds a record; a fault of the device's own access on the way (R174, R387). -/
def State.firstLoaded (s : State) (c : Nat) : List NodeQueue → Except Trap (Option (NodeQueue × QueueKeys))
  | [] => .ok none
  | q :: r => match s.queueKeys c q with
    | .error t => .error t
    | .ok k => if s.queueLoad k = 0 then s.firstLoaded c r else .ok (some (q, k))
/-- The device's access for a core's partition has faulted (R387). -/
def State.deviceFault (s : State) (c : Nat) (t : Trap) : State :=
  (s.stopPartition (s.gang c)).coreError c t.cause.code
/-- IDLE_CORE_POP: an idle core pops the first record of its search order, as one step, and starts its task (R170, R171, R174). -/
def execIdleCorePop (c : Nat) (s : State) : Out :=
  .next (match s.partOfCore c with
    | none => s
    | some k => match (s.part k).launch with
      | none => s
      | some l =>
        if !(s.part k).started || !s.mayPop c k l then s
        else match s.firstLoaded c (l.search (s.gang c) c) with
          | .error t => s.deviceFault c t
          | .ok none => s
          | .ok (some (_, keys)) => match keys.record (s.readWord keys.head).toNat with
            | .error t => s.deviceFault c t
            | .ok r =>
              if s.writeHeld keys.head then s
              else if s.poisoned r 32 then s.deviceFault c { cause := .ue, info := 0 }
              else ((s.countQueue keys r).writeNat keys.head 8 (s.readWord keys.head + 1).toNat).startTask c l.n (s.readBytes r 32))

/-! ## Ends -/

/-- Is a core idle: no task, no handler (R174)? -/
def Core.idle (x : Core) : Bool := !x.task && !x.ctl.running && (match x.mode with | .normal | .haltPending => true | _ => false)
/-- Every store of a core is performed at sys scope (R175). -/
def State.storesDone (s : State) (c : Nat) : Bool :=
  (s.flight.all fun a => a.core != c || !a.isWrite) && (s.core c).ctl.stores.isEmpty && (s.core c).vec.pend.isEmpty
    && !s.hostBusy c
/-- Every node queue of a launch (R168). -/
def Launch.queues (l : Launch) (gang : List Nat) : List NodeQueue :=
  (upto l.levels.length).flatMap fun j =>
    (upto (levelNodes (l.levels.getD j 0) gang).length).map fun i => l.queue gang j i
/-- Is a launch complete (R175)? -/
def State.complete? (s : State) (k : Nat) (l : Launch) (gang : List Nat) : Bool :=
  (gang.all fun c =>
      (s.core c).idle && (s.core c).queuesEmpty && s.storesDone c)
    && !s.toRestore k l
    && (match s.firstLoaded (gang.headD 0) (l.queues gang) with | .ok none => true | _ => false)
    && (s.part k).started
/-- Is a function of partition `k` in ERROR, which writes no completion word (R406)? -/
def State.inError (s : State) (l : Launch) (k : Nat) : Bool :=
  (s.partPkgs (s.pkg l.pkg).domain k).any fun q => ((s.pkg q).func l.func.val).tdi == .error
/-- Is one of the words that end a slice held by a swap, or the end itself by ERROR? -/
def State.endHeld (s : State) (l : Launch) (k : Nat) : Bool :=
  let pt := (s.entry l.pkg l.func.val).ptbase
  s.inError l k || s.devHeld l.pkg pt (l.addr + 0x30) || (l.flags.getLsbD 0 && s.devHeld l.pkg pt l.caddr)
/-- The completion word written to STATE and, under CW, to CADDR; then the message under MSI; then the rest (R175). A fault stops
the partition (R387). -/
def State.finish (s : State) (l : Launch) (gang : List Nat) (status : Nat) (after : State → State) : State :=
  let pt := (s.entry l.pkg l.func.val).ptbase
  let w := launchWord l.slice 0 status
  let r : Except Trap State := do
    let t ← s.devStore l.pkg pt (l.addr + 0x30) w
    if l.flags.getLsbD 0 then t.devStore l.pkg pt l.caddr w else .ok t
  match r with
  | .error t => (s.stopPartition gang).coreError (gang.headD 0) t.cause.code
  | .ok t => after (if l.flags.getLsbD 1 then t.signal l.pkg l.func.val l.msivec else t)
/-- Fill handles of a list abandoned (R218). -/
def State.abandonAll (s : State) (l : List Handle) : State :=
  l.foldl (fun s h => match h with | .fill t => s.abandon t | _ => s) s
/-- The handles in a core's mailboxes. -/
def Core.mail (x : Core) : List Handle := x.boxes.toList.flatMap id
/-- Every tile entry FREE with its generation incremented, no ring, the mailboxes empty (R225). -/
def Core.clearTiles (x : Core) (all : Bool) : Core :=
  { x with
    rings := [], boxes := rep 4 []
    tiles := (upto 256).map fun t =>
      let y := x.tile t
      (t, if all || y.st != .free then { Tile.reset with gen := y.gen + 1 } else { Tile.reset with gen := y.gen }) }
/-- LAUNCH_COMPLETE (R175, R225, R227). -/
def execLaunchComplete (p : Nat) (f : Fin 64) (s : State) : Out :=
  .next (let k := s.partOf p f.val
    let gang := s.members p k
    match (s.part k).launch with
    | none => s
    | some l =>
      if !s.complete? k l gang || s.endHeld l k then s
      else s.finish l gang 1 fun t =>
        let u := gang.foldl (fun s c => (s.abandonAll (s.core c).mail).modCore c fun x => x.clearTiles true) t
        u.modPart k fun y => { y with launch := none, started := false, groups := [] })

/-- Is every tile of a core FREE and every mailbox empty (R177)? -/
def Core.clean (x : Core) : Bool := (x.tiles.all fun t => t.2.st == .free) && x.mail.isEmpty
/-- The rings of a core go to the ring area of its slot, whose STATE is RINGS, and are deleted in the core (R225); the area's own
layout is open (entry 3). -/
def State.saveRings (s : State) (k r c : Nat) : State :=
  let x := s.core c
  let area (t : State) : State :=
    { (t.write (t.slotKey c + 0x9C00) (t.freeBytes 16384)).writeNat (t.slotKey c) 8 3 with draws := t.draws + 1 }
  let t := if x.rings.isEmpty || x.mode == .saved then s
    else (area s).modSlot k r fun _ => { CtxSlot.empty with state := 3, rank := r, rings := x.rings, home := c, at_ := s.slotKey c }
  t.modCore c fun x => { x with rings := [], tiles := Tab.mapVal x.tiles fun y => { y with ring := none } }
/-- SLICE_END: once every core is DRAINED, those that were not saved with no task and no engine work, the tiles and mailboxes of
these decide STATUS 3 or 4 (R177, R218, R225, R377). -/
def execSliceEnd (p : Nat) (f : Fin 64) (s : State) : Out :=
  .next (let k := s.partOf p f.val
    let gang := s.members p k
    match (s.part k).launch with
    | none => s
    | some l =>
      let open_ := gang.filter fun c => (s.core c).mode != .saved
      if !(s.part k).started || !(gang.all fun c => (s.core c).drained) || !(gang.all s.storesDone) || s.endHeld l k
          || !(open_.all fun c => (s.core c).queuesEmpty && !(s.core c).task) then s
      else
        let clean := open_.all fun c => (s.core c).clean
        let t := if clean then gang.zipIdx.foldl (fun s c => s.saveRings k c.2 c.1) s
          else
            let u := gang.foldl (fun s c =>
              (s.abandonAll ((s.core c).mail ++ (s.core c).ctl.h.toList)).modCore c fun x => x.clearTiles false) s
            u.emptySlots k
        t.finish l gang (if clean then 3 else 4) fun u => u.modPart k fun y => { y with launch := none, started := false })

/-! ## Pre-emption requests -/

/-- A request to end the slice on every core of a partition in one step, or its withdrawal while no core has drained (R176,
R177). -/
def State.askPreempt (s : State) (gang : List Nat) (req : Bool) : State :=
  if req then gang.foldl (fun s c => s.modCore c fun x =>
      Core.drain (x.withCsr fun r => { r with preempt := setBit r.preempt 0 })) s
  else if gang.any fun c => (s.core c).drained then s
  else gang.foldl (fun s c => s.modCore c fun x => { x with
    csr := { x.csr with preempt := preemptValue x.csr.preempt (clearBit x.csr.preempt 0) }
    events := { x.events with watchdog := false }, elapsed := false }) s
/-- FPREEMPT_WRITE (R176, R398). -/
def execFpreemptWrite (p : Nat) (f : Fin 64) (v : Word) (s : State) : Out :=
  .next (if !s.takes p f.val then s else s.askPreempt (s.members p (s.partOf p f.val)) (bitOf v 0))
/-- PREQ_WRITE, through the physical function (R176, R386). -/
def execPreqWrite (p : Nat) (f : Fin 64) (v : Word) (s : State) : Out :=
  .next (if !s.takes p 0 then s else s.askPreempt (s.members p (s.partOf p f.val)) (bitOf v 0))

/-! ## Partition entries -/

/-- The bits set in a field. -/
def popcount {n : Nat} (x : BitVec n) : Nat := ((upto n).filter fun i => x.getLsbD i).length
/-- A region of a given size lies in the partition's range; one of size 0 lies anywhere (R386). -/
def PEntryTab.holds (e : PEntryTab) (base : Word) (size : Nat) : Bool :=
  size == 0 || decide (e.membase.toNat ≤ base.toNat ∧ base.toNat + size ≤ e.membase.toNat + e.memsize.toNat)
/-- The checks on an entry whose VALID is set (R386). -/
def Pkg.entryOk (x : Pkg) (f : Nat) : Bool :=
  let e := (x.func f).part
  decide (popcount e.coreset = e.ncores.toNat ∧ 1 ≤ e.ncores.toNat)
    && (x.funcs.all fun g => g.1 == f || !g.2.part.valid ||
        (g.2.part.coreset &&& e.coreset == 0 && g.2.part.slotsCw &&& e.slotsCw == 0 && g.2.part.slotsCcw &&& e.slotsCcw == 0))
    && e.holds e.ctxbase (e.ncores.toNat * 0x21_0000) && e.holds e.btbase (e.btblocks.toNat * 65536)
    && e.holds e.poolbase (e.poolframes.toNat * 65536)
    && e.kvec &&& 0xFE00_0000_0000_0007 == 0 && e.kframe &&& 0xFFFF_FFFF_FFE0_003F == 0
/-- The die whose swap engine a pool frame belongs to: that of its vault, for the second tier any (R196, entry 9). -/
def poolDie (addr : Nat) : Option Nat := (vaultOwner (addr % nodeSize)).map dieOf
/-- The `k`-th frame of a pool at set-up: it backs an automatic frame, or is free (R196, entry 9). -/
def State.placeFrame (s : State) (p f : Nat) (e : PEntryTab) (k : Nat) : State :=
  let addr := e.poolbase.toNat % nodeSize + 65536 * k
  let free : State := s.modDie p ((poolDie addr).getD (k % 4)) fun d => { d with pool := d.pool ++ [addr] }
  match Config.freeFrame p f k with
  | none => free
  | some n =>
    let d := (s.pkg p).dies.toList.getD (n % 4) .reset
    if n < 2 ^ 26 ∧ (d.place.find n).isNone ∧ (poolDie addr == none || poolDie addr == some (n % 4)) then
      s.modDie p (n % 4) fun d => { d with place := d.place.put n addr }
    else free
/-- MEMFLAGS of a partition that has no valid entry yet is 0 (R254). -/
def State.newPartition (s : State) (p f : Nat) : State :=
  let k := s.partOf p f
  if (s.partPkgs (s.pkg p).domain k).isEmpty then s.modPart k fun y => { y with memflags := 0 } else s
/-- PARTITION_ENTRY_VALID, through the physical function: the entry is checked; ERR is set if a check fails (R386); its block-table
store is zeroed (R285); its hamlets are to wake (R414). -/
def execPartitionEntryValid (p : Nat) (f : Fin 64) (s : State) : Out :=
  .next (let e := s.entry p f.val
    if e.valid || !s.takes p 0 then s
    else if !(s.pkg p).entryOk f.val then s.modFunc p f.val fun y => { y with part := { y.part with err := true } }
    else
      let t := (s.newPartition p f.val).modFunc p f.val fun y => { y with part := { y.part with valid := true } }
      let z := if e.btblocks = 0 then t
        else t.write (key p (e.btbase.toNat % nodeSize)) (zeros (65536 * e.btblocks.toNat))
      ((upto e.poolframes.toNat).foldl (fun s k => s.placeFrame p f.val e k) z).requestWake p f.val)

/-- A core reset in place: its counters run on, its tiles' generations go on (R386, R401). -/
def Core.cleared (x : Core) : Core :=
  { Core.reset with
    csr := { Csrs.reset with cycle := x.csr.cycle, eccfreeze := x.csr.eccfreeze, euse := x.csr.euse }
    tiles := (x.clearTiles false).tiles, rr := x.rr, wakes := x.wakes
    mode := match x.mode with | .gated => .gated | _ => .normal }
/-- The fill handles that a core or its engine commands hold (R401). -/
def Core.fills (x : Core) : List Handle :=
  x.ctl.h.toList ++ x.mail ++ x.commands.filterMap fun y => y.hfill.map Handle.fill
/-- A message to one of some cores' mailboxes. -/
def Msg.mailTo (l : List Nat) : Msg → Bool
  | .handle _ dst _ _ _ _ => l.contains dst
  | _ => false
/-- What cores that are reset had under way: their loads, atomics, fences, chunks and waits are gone, as are handles on the way to
them; stores and reductions that have issued go on to their homes (entry 61). -/
def State.dropTraffic (s : State) (l : List Nat) : State :=
  let stays (a : Access) : Bool := !l.contains a.core || (a.isWrite && a.back == .nowhere && a.fault.isNone)
  let gone := (s.flight.filter fun a => !stays a).map (·.id)
  { s with
    flight := s.flight.filter stays
    flits := s.flits.filter fun f => !gone.contains f.access
    gloads := s.gloads.filter fun g => !l.contains g.core
    tokens := s.tokens.filter fun t => !l.contains t.core
    chunks := s.chunks.filter fun c => !l.contains c.src
    msgs := s.msgs.filter fun m => !m.mailTo l
    cores := Tab.mapVal s.cores fun x =>
      { x with
        tiles := Tab.mapVal x.tiles fun t => { t with parked := t.parked.filter fun n => !gone.contains n }
        rings := Tab.mapVal x.rings fun r =>
          { r with waiters := r.waiters.filter fun c => !l.contains c, readers := r.readers.filter fun q => !l.contains q.core } } }
/-- The handles on the way to cores. -/
def State.mailOf (s : State) (l : List Nat) : List Handle :=
  s.msgs.filterMap fun m => match m with | .handle _ dst _ h _ _ => if l.contains dst then some h else none | _ => none
/-- Cores reset, what they had under way dropped, and the fill handles they hold abandoned (R218, R386, R401). -/
def State.resetCores (s : State) (l : List Nat) : State :=
  let t := (l.foldl (fun s c => s.abandonAll (s.core c).fills) s).abandonAll (s.mailOf l)
  l.foldl (fun s c => s.modCore c Core.cleared) (t.dropTraffic l)
/-- A pool taken away from the dies of a package. -/
def State.dropPool (s : State) (p : Nat) (e : PEntryTab) : State :=
  let mine (a : Nat) : Bool := decide (e.poolbase.toNat % nodeSize ≤ a ∧ a < e.poolbase.toNat % nodeSize + 65536 * e.poolframes.toNat)
  s.modPkg p fun x => { x with dies := Vector.ofFn fun d =>
    let y := x.dies[d]
    { y with place := y.place.filter fun z => !mine z.2, pool := y.pool.filter fun a => !mine a } }
/-- The launch of a partition gone (R386, R401). -/
def State.endLaunch (s : State) (k : Nat) : State := s.modPart k fun y => { y with launch := none, started := false }
/-- A save that a reset of its core cuts short leaves its slot EMPTY (R379). -/
def State.cutSaves (s : State) (k : Nat) (l : List Nat) : State :=
  ((s.part k).slots.filter fun x => x.2.state == 1 && l.contains x.2.home).foldl (fun t x => t.clearSlot k x.1 x.2) s
/-- A valid entry invalidated: every core of it is reset, and a launch of it ends; its saved contexts stay in their slots (R180,
R386, entry 60). -/
def State.invalidate (s : State) (p f : Nat) : State :=
  let e := s.entry p f
  if !e.valid then s
  else
    let k := s.partOf p f
    let t := (((s.resetCores (entryCores p e)).endLaunch k).cutSaves k (entryCores p e)).dropPool p e
    let u := t.modFunc p f fun y => { y with part := { y.part with valid := false } }
    u.modPkg p fun x => { x with bt := x.bt.del f }
/-- PARTITION_ENTRY_INVALIDATE, through the physical function (R386). -/
def execPartitionEntryInvalidate (p : Nat) (f : Fin 64) (s : State) : Out :=
  .next (if s.takes p 0 then s.invalidate p f.val else s)

end Sys2Proof.Machine
end

