-- ==== Sys2Proof/Machine/Host.lean ====
section
/-! DEFINITION. The host and the fabric manager: BAR0 and BAR2 (R4, R386, R388, R394, R398, R399, R404, R417), function-level
reset (R379, R401), SPDM and TDISP (R403 to R406), the debug window (R375, R407), links, routes and ring flits (R384 to R391). -/
namespace Sys2Proof.Machine

/-! ## Partition entries as bytes -/

/-- CTL of an entry (R386). -/
def PEntryTab.ctl (e : PEntryTab) : Nat :=
  bitAt e.valid 0 + bitAt e.err 1 + bitAt e.klaunch 2 + e.tier.val * 16 + e.tag.toNat * 2 ^ 32
/-- The 256 bytes of an entry, with what PREQ reads (R386). -/
def PEntryTab.bytes (e : PEntryTab) (preq : Bool) : List Byte :=
  let w (x : Word) : List Byte := leBytes 8 x.toNat
  leBytes 8 e.ctl ++ w e.ncores ++ w e.ptbase ++ w e.ctxid ++ w e.kvec ++ w e.kframe ++ zeros 16
    ++ leBytes 64 e.coreset.toNat ++ leBytes 32 e.slotsCw.toNat ++ leBytes 32 e.slotsCcw.toNat
    ++ w e.membase ++ w e.memsize ++ w e.ctxbase ++ w e.btbase ++ w e.btblocks ++ w e.poolbase ++ w e.poolframes
    ++ leBytes 8 (bitAt preq 0)
/-- The contents of the partition table, which a measurement block reports (R403). -/
def State.tableBytes (s : State) (p : Nat) : List Byte := (upto 64).flatMap fun f => (s.entry p f).bytes (s.preq p f)

/-- Word `i` of a wide field replaced. -/
def setWord {n : Nat} (x : BitVec n) (i : Nat) (v : Word) : BitVec n :=
  BitVec.ofNat n (x.toNat - x.toNat / 2 ^ (64 * i) % 2 ^ 64 * 2 ^ (64 * i) + v.toNat * 2 ^ (64 * i))
/-- A word of an entry written under its access codes, other than CTL.VALID and PREQ. ERR is cleared by writing 1 to it
(DESIGN CHOICE, entry 96: R386 says sticky and gives it no code of R4). Bits that the entry gives no meaning stay 0, but for those of KVEC and KFRAME, which its check reads. -/
def PEntryTab.write (e : PEntryTab) (off : Nat) (v : Word) : PEntryTab :=
  if off = 0x00 then
    { e with err := e.err && !bitOf v 1, klaunch := bitOf v 2, tier := Fin.ofNat 4 (v.toNat / 16), tag := BitVec.ofNat 32 (v.toNat / 2 ^ 32) }
  else if off = 0x08 then { e with ncores := v }
  else if off = 0x10 then { e with ptbase := v &&& 0x00FF_FFFF_FFFF_0000 }
  else if off = 0x18 then { e with ctxid := v &&& 0xFFFF }
  else if off = 0x20 then { e with kvec := v }
  else if off = 0x28 then { e with kframe := v }
  else if 0x40 ≤ off ∧ off < 0x80 then { e with coreset := setWord e.coreset ((off - 0x40) / 8) v }
  else if 0x80 ≤ off ∧ off < 0xA0 then { e with slotsCw := setWord e.slotsCw ((off - 0x80) / 8) v }
  else if 0xA0 ≤ off ∧ off < 0xC0 then { e with slotsCcw := setWord e.slotsCcw ((off - 0xA0) / 8) v }
  else if off = 0xC0 then { e with membase := v }
  else if off = 0xC8 then { e with memsize := v }
  else if off = 0xD0 then { e with ctxbase := v }
  else if off = 0xD8 then { e with btbase := v }
  else if off = 0xE0 then { e with btblocks := v }
  else if off = 0xE8 then { e with poolbase := v }
  else if off = 0xF0 then { e with poolframes := v }
  else e
/-- The fields of an entry that CONFIG_LOCKED and RUN freeze (R404). -/
def PEntryTab.frozen (a b : PEntryTab) : Bool :=
  a.coreset == b.coreset && a.ncores == b.ncores && a.slotsCw == b.slotsCw && a.slotsCcw == b.slotsCcw
    && a.membase == b.membase && a.memsize == b.memsize && a.tier == b.tier && a.klaunch == b.klaunch
    && a.ptbase == b.ptbase && a.ctxid == b.ctxid && a.kvec == b.kvec && a.kframe == b.kframe

/-! ## TDISP states -/

/-- Is a function's interface locked (R404)? -/
def Func.locked (x : Func) : Bool := x.tdi == .locked || x.tdi == .run
/-- A locked function enters ERROR: its partition's cores and engines stop (R406). -/
def State.tdiError (s : State) (p f : Nat) : State :=
  if ((s.pkg p).func f).locked then
    (s.stopPartition (s.members p (s.partOf p f))).modFunc p f fun y => { y with tdi := .error }
  else s
/-- An answer to the host: a status word and bytes. -/
def State.hostReply (s : State) (p : Nat) (code : Word) (b : List Byte) : State :=
  s.modPkg p fun x => { x with out := x.out ++ [(code, b)] }
/-- Status words of answers: done, Unsupported Request or request failed, poisoned data. -/
def ansOk : Word := 0
/-- Unsupported Request, or a request that fails. -/
def ansBad : Word := 1
/-- Data that is poisoned. -/
def ansPoison : Word := 2

/-! ## BAR0 -/

/-- A write to the MSI-X table: address, or data and the mask; a pending message goes out when its mask is cleared (R398, R399). -/
def State.writeMsix (s : State) (p f off : Nat) (v : Word) : State :=
  let i := off / 16
  let m := ((s.pkg p).func f).vector i
  if off % 16 = 0 then s.modFunc p f fun y => { y with msix := y.msix.put i { m with addr := v } }
  else if off % 16 = 8 then
    let t := s.modFunc p f fun y => { y with
      msix := y.msix.put i { m with data := BitVec.ofNat 32 v.toNat, masked := bitOf v 32 } }
    if m.pending && !bitOf v 32 then t.emit p f i else t
  else s
/-- A window entry with a word written: BASE keeps its reserved bits 0 (R394). -/
def Window.write (w : Window) (off : Nat) (v : Word) : Window :=
  match off with
  | 0x00 => { w with base := v &&& 0xE000_03FF_FFFF_0000 }
  | 0x08 => { w with size := v &&& ~~~0xFFFF }
  | 0x10 => { w with va := v }
  | 0x18 => { w with doorbell := v }
  | 0x20 => { w with ptbase := v &&& 0x00FF_FFFF_FFFF_0000 }
  | 0x28 => { w with ctxid := v &&& 0xFFFF }
  | _ => w
/-- An empty window entry (entry 1). -/
def Window.reset : Window := { base := 0, size := 0, va := 0, doorbell := 0, ptbase := 0, ctxid := 0 }
/-- A write to a partition entry: one that changes a frozen field of a locked function moves it to ERROR; while VALID is 1 the
others are discarded too (R386, R406). -/
def State.writeEntry (s : State) (p f off : Nat) (v : Word) : State :=
  let e := s.entry p f
  let e1 := e.write off v
  if ((s.pkg p).func f).locked && !e.frozen e1 then s.tdiError p f
  else if e.valid then s
  else s.modFunc p f fun y => { y with part := e1 }
/-- Does a core's debug window reach it (R407)? -/
def State.windowOpen (s : State) (c : Nat) : Bool :=
  s.up (pkgOf c) && match s.funcOf c with
  | none => true
  | some f => ((s.pkg (pkgOf c)).func f).tdi == .unlocked
/-- THERM written: WARN and TRIP3 are cleared by a 1; dies whose trip 3 is cleared may go on once they are cool (R415, R417). -/
def Pkg.writeTherm (x : Pkg) (v : Word) : Pkg :=
  { x with dies := Vector.ofFn fun d =>
      let y := x.dies[d]
      { y with warn := y.warn && !bitOf v (8 + d.val), trip3 := y.trip3 && !bitOf v (16 + d.val) } }
/-- A write to a register of the physical function's tables. -/
def State.writePf (s : State) (p off : Nat) (v : Word) : State :=
  if 0x20_0000 ≤ off ∧ off < 0x20_4000 then s.writeEntry p ((off - 0x20_0000) / 256) ((off - 0x20_0000) % 256) v
  else if 0x30_0000 ≤ off ∧ off < 0x32_0000 then
    let i := (off - 0x30_0000) / 2048
    let e := (off - 0x30_0000) % 2048 / 64
    s.modFunc p i fun y => { y with
      windows := y.windows.put e (((y.windows.find e).getD .reset).write ((off - 0x30_0000) % 64) v) }
  else if off = 0x40_0028 then s.modPkg p fun x => x.writeTherm v
  else if 0x50_0000 ≤ off ∧ off < 0x50_8000 ∧ (off - 0x50_0000) % 64 = 8 then
    let c := p * 512 + (off - 0x50_0000) / 64
    if s.windowOpen c then s.modCore c fun x => { x with debugSel := v &&& 0xFF_FFFF_FFFF } else s
  else s
/-- REGISTER_WRITE: a BAR0 register under its access codes: FSTAT, FCOAL, the MSI-X table, and in the physical function the
partition table, the inbound windows, THERM and DSEL (R4, R386, R394, R398, R407, R417). A function in CONFIG_LOCKED or ERROR
takes no host access (R404, R406). -/
def execRegisterWrite (p : Nat) (f : Fin 64) (off : BitVec 24) (v : Word) (s : State) : Out :=
  .next (if !s.takes p f.val then s
    else
      let o := off.toNat
      if o = 0x08 then s.modFunc p f.val fun y =>
        { y with ovf := y.ovf && !bitOf v 2, coreErr := y.coreErr && !bitOf v 1 }
      else if o = 0x18 then s.modFunc p f.val fun y =>
        { y with coalCount := BitVec.ofNat 16 (v.toNat / 65536), coalInterval := BitVec.ofNat 16 v.toNat }
      else if 0x10_0000 ≤ o ∧ o < 0x10_8000 then s.writeMsix p f.val (o - 0x10_0000) v
      else if f.val = 0 then s.writePf p o v
      else s)
/-- NODEID_WRITE: discarded while an entry of the package is VALID (R388). -/
def execNodeidWrite (p : Nat) (v : Word) (s : State) : Out :=
  .next (if !s.up p || (s.pkg p).funcs.any fun f => f.2.part.valid then s
    else s.modPkg p fun x => { x with nodeid := v &&& 0x1F_FFFF })
/-- VF_BAR_WRITE: with a locked virtual function the write is discarded and every locked one enters ERROR (R406). -/
def execVfBarWrite (p : Nat) (f : Fin 64) (bar : Fin 2) (v : Word) (s : State) : Out :=
  .next (let held := (s.pkg p).funcs.filter fun x => x.1 != 0 && x.2.locked
    if !s.up p then s
    else if held.isEmpty then s.modFunc p f.val fun y => if bar = 0 then { y with bar0 := v } else { y with bar2 := v }
    else held.foldl (fun s x => s.tdiError p x.1) s)

/-- FSTAT as a read returns it (R398). -/
def State.fstat (s : State) (p f : Nat) : Word :=
  let x := (s.pkg p).func f
  BitVec.ofNat 64 (x.subs.length * 256 + bitAt x.ovf 2 + bitAt x.coreErr 1
    + bitAt (x.part.valid && (s.part (s.partOf p f)).launch.isSome) 0)
/-- FPREEMPT as a read returns it (R398). -/
def State.fpreempt (s : State) (p f : Nat) : Word := BitVec.ofNat 64 (bitAt (s.preq p f) 0)
/-- FERR as a read returns it (R398). -/
def Func.ferr (x : Func) : Word := BitVec.ofNat 64 (x.errCause.toNat * 2 ^ 32 + x.errCore.toNat)
/-- THERM as a read returns it (R417). -/
def Pkg.therm (x : Pkg) : Word :=
  let bits (n : Nat) (b : Nat → Bool) : Nat := (upto n).foldl (fun a i => a + bitAt (b i) i) 0
  let die (d : Nat) : Die := x.dies.toList.getD d .reset
  BitVec.ofNat 64 (bits 32 (fun h => (x.hamlets.toList.getD h .reset).failed) * 2 ^ 32 + bits 4 (fun d => (die d).trip3) * 2 ^ 16
    + bits 4 (fun d => (die d).trip2) * 2 ^ 12 + bits 4 (fun d => (die d).warn) * 2 ^ 8 + x.trimue.toNat)

/-! ## BAR2 -/

/-- Does a range of the partition meet its context region, which only saves and restores reach (R376)? -/
def PEntryTab.inContext (e : PEntryTab) (addr n : Nat) : Bool :=
  decide (addr < e.ctxbase.toNat + e.ncores.toNat * 0x21_0000 ∧ e.ctxbase.toNat < addr + n)
/-- HOST_BAR2_ACCESS: a read of `n` bytes, or a write, of the partition's range from MEMBASE on; Unsupported Request beyond
MEMSIZE and the 64 GiB of BAR2, in CONFIG_LOCKED and in ERROR (R398, R404, R406), and in the context region and the pool (R196, R376). The access
travels in free slots (R384). -/
def execHostBar2Access (p : Nat) (f : Fin 64) (off : Word) (w : Option (List Byte)) (n : Nat) (s : State) : Out :=
  .next (let x := (s.pkg p).func f.val
    let e := x.part
    let len := match w with | some b => b.length | none => n
    let addr := e.membase.toNat + off.toNat
    let k := key p (addr % nodeSize)
    if s.takes p f.val && !(s.ringWay p none 4 (s.ringStop p k) && s.ringWay p none 4 (s.ringStop p (k + (len - 1)))) then s
    else if !s.takes p f.val || !e.valid || decide (2 ^ 36 < off.toNat + len ∨ e.memsize.toNat < off.toNat + len) || e.inContext addr len
        || (s.pkg p).inPool (addr % nodeSize) len then s.hostReply p ansBad []
    else match w with
      | some b => (s.write k b).hostReply p ansOk []
      | none => s.hostReply p (if s.poisoned k n then ansPoison else ansOk) (s.readBytes k n))

/-! ## Function-level reset -/

/-- The queues of a launch emptied: each head takes the tail's value (R168, R401). -/
def State.emptyQueues (s : State) (gang : List Nat) (l : Launch) : State :=
  (l.queues gang).foldl (fun s q => match s.queueKeys (gang.headD 0) q with
    | .ok k => s.writeNat k.head 8 (s.readWord k.tail).toNat
    | .error _ => s) s
/-- Does a swap hold the head of a queue that a reset of a function empties (R198)? -/
def State.resetHeld (s : State) (p f : Nat) : Bool :=
  let k := s.partOf p f
  match (s.part k).launch with
  | some l => (s.entry p f).valid && (l.queues (s.members p k)).any fun q =>
      match s.queueKeys ((s.members p k).headD 0) q with | .ok y => s.writeHeld y.head | .error _ => false
  | none => false
/-- The effects of R401 on one function, whose partition's submissions at each of its packages are emptied; a locked one enters ERROR
(R406). -/
def State.resetFunc (s : State) (p f : Nat) : State :=
  let k := s.partOf p f
  let pkgs := s.partPkgs (s.pkg p).domain k
  let gang := if (s.entry p f).valid then s.members p k else []
  let t := match (s.part k).launch with | some l => s.emptyQueues gang l | none => s
  let u := if (s.entry p f).valid then ((t.resetCores gang).endLaunch k).emptySlots k
    else if pkgs.isEmpty then s.emptySlots k else s
  ((if (s.entry p f).valid then pkgs else [p]).foldl (fun s q => s.modFunc q f fun y => { y with subs := [] }) u).tdiError p f
/-- FUNCTION_LEVEL_RESET; of the physical function, of every function, with every entry and window invalid (R379, R401). -/
def execFunctionLevelReset (p : Nat) (f : Fin 64) (s : State) : Out :=
  .next (if !s.up p || (upto 64).any (fun i => (f.val == 0 || i == f.val) && s.resetHeld p i) then s
    else if f.val ≠ 0 then s.resetFunc p f.val
    else
      let t := (upto 64).foldl (fun s i => (s.resetFunc p i).invalidate p i) s
      t.modPkg p fun x => { x with funcs := Tab.mapVal x.funcs fun y =>
        { y with windows := Tab.mapVal y.windows fun w => { w with base := clearBit w.base 63 } } })

/-! ## SPDM and TDISP -/

/-- What stands in the frames of a package's memory ranges, among which the kernel images lie: the listed bytes (R387, R403). -/
def State.kernelImages (s : State) (p : Nat) : List (Nat × Byte) :=
  s.mem.filter fun x => x.1 / nodeSize == p && (s.pkg p).funcs.any fun f => f.2.part.valid &&
    decide (f.2.part.membase.toNat % nodeSize ≤ x.1 % nodeSize
      ∧ x.1 % nodeSize < f.2.part.membase.toNat % nodeSize + f.2.part.memsize.toNat)
/-- SPDM_REQUEST: the package answers; sessions and IDE streams stand afterwards as its protocol leaves them (R403, entry 6). -/
def execSpdmRequest (p : Nat) (req : List Byte) (s : State) : Out :=
  .next (if !s.up p then s else
    let st := s.tableBytes p
    let t := s.hostReply p ansOk (Config.spdmAnswer req st (Config.firmwareDigests p (s.pkg p).boots) (s.kernelImages p))
    let u := t.modFunc p 0 fun y => { y with session := Config.spdmSession req st y.session }
    (upto 64).foldl (fun s f => s.modFunc p f fun y => { y with ide := Config.ideStream req st f y.ide }) u)
/-- Is a TDISP request accepted: of a virtual function, in a secure session (R404)? -/
def State.tdisp (s : State) (p : Nat) (f : Fin 64) : Bool := s.up p && f.val != 0 && ((s.pkg p).func 0).session
/-- The report of R405 on a function. -/
def Func.makeReport (x : Func) (f : Nat) (digest : BitVec 256) : List Byte :=
  let e := x.part
  let w (v : Word) : List Byte := leBytes 8 v.toNat
  leBytes 4 f ++ leBytes 4 e.tag.toNat ++ leBytes 8 (e.tier.val + bitAt e.klaunch 2)
    ++ w x.bar0 ++ leBytes 8 0x100_0000 ++ w x.bar2 ++ leBytes 8 0x10_0000_0000
    ++ leBytes 4 0x10_0000 ++ leBytes 4 0x11_0000 ++ w e.ncores ++ leBytes 64 e.coreset.toNat
    ++ leBytes 32 e.slotsCw.toNat ++ leBytes 32 e.slotsCcw.toNat ++ w e.membase ++ w e.memsize
    ++ w e.ptbase ++ w e.ctxid ++ w e.kvec ++ w e.kframe ++ leBytes 32 digest.toNat
/-- LOCK_INTERFACE_REQUEST: its conditions, then CONFIG_LOCKED with the report locked (R404, R405). -/
def execLockInterfaceRequest (p : Nat) (f : Fin 64) (s : State) : Out :=
  .next (let x := (s.pkg p).func f.val
    if s.tdisp p f && x.tdi == .unlocked && x.part.valid && x.ide && x.subs.isEmpty
        && (s.part (s.partOf p f.val)).launch.isNone then
      { s.modFunc p f.val fun y => { y with
          tdi := .locked, report := y.makeReport f.val (Config.kernelDigest s.draws) } with draws := s.draws + 1 }.hostReply p ansOk []
    else s.hostReply p ansBad [])
/-- START_INTERFACE_REQUEST: a locked interface goes to RUN (R404). -/
def execStartInterfaceRequest (p : Nat) (f : Fin 64) (s : State) : Out :=
  .next (if s.tdisp p f && ((s.pkg p).func f.val).tdi == .locked then
      (s.modFunc p f.val fun y => { y with tdi := .run }).hostReply p ansOk []
    else s.hostReply p ansBad [])
/-- GET_DEVICE_INTERFACE_REPORT of a locked interface (R405). -/
def execGetDeviceInterfaceReport (p : Nat) (f : Fin 64) (s : State) : Out :=
  .next (let x := (s.pkg p).func f.val
    if s.tdisp p f && x.locked then s.hostReply p ansOk x.report else s.hostReply p ansBad [])
/-- A region of a package's memory zeroed. -/
def State.zero (s : State) (p : Nat) (base : Word) (n : Nat) : State := s.write (key p (base.toNat % nodeSize)) (zeros n)
/-- STOP_INTERFACE_REQUEST: scratchpads, context slots and the block-table region of the partition that the entry describes, VALID
or no longer, zeroed, then CONFIG_UNLOCKED (R406). -/
def execStopInterfaceRequest (p : Nat) (f : Fin 64) (s : State) : Out :=
  .next (if !s.tdisp p f then s.hostReply p ansBad []
    else
      let e := s.entry p f.val
      let cores := (entryCores p e).filter fun c => s.funcOf c == none || s.funcOf c == some f.val
      let t := cores.foldl (fun s c => s.write (spadKey c 0) (zeros Config.spadSize)) s
      let u := (t.zero p e.ctxbase (e.ncores.toNat * 0x21_0000)).zero p e.btbase (e.btblocks.toNat * 65536)
      let v := u.modPart (s.partOf p f.val) fun y => { y with slots := y.slots.filter fun l => l.2.at_ / nodeSize != p }
      (v.modFunc p f.val fun y => { y with tdi := .unlocked }).hostReply p ansOk [])
/-- IDE_STREAM_FAILURE: the stream is gone; a locked function enters ERROR (R406). -/
def execIdeStreamFailure (p : Nat) (f : Fin 64) (s : State) : Out :=
  .next (if s.up p then (s.modFunc p f.val fun y => { y with ide := false }).tdiError p f.val else s)

/-! ## The debug window -/

/-- DCTL_HALT: DEBUG is raised on the core, whatever it does; it is taken once it may be (R363, R375, R407). -/
def execDctlHalt (c : Nat) (s : State) : Out :=
  .next (if s.windowOpen c then s.modCore c fun x =>
      { x with mode := if x.mode == .normal then .haltPending else x.mode, events := { x.events with debug := true } }
    else s)
/-- DCTL_RESUME: a halted core acts as `kret` from its debug frame (R375, R407); it does so in its next cycle. -/
def execDctlResume (c : Nat) (s : State) : Out :=
  .next (if s.windowOpen c then s.modCore c fun x => if x.mode == .halted then { x with mode := .resuming } else x else s)
/-- DCTL.STATE (R407). -/
def Core.debugState (x : Core) : Nat := match x.mode with | .halted => 2 | .resuming => 3 | _ => if x.events.debug then 1 else 0

/-- SPACE, INDEX and ITEM of DSEL (R407). -/
def Core.selection (x : Core) : Nat × Nat × Nat :=
  let w := x.debugSel.toNat
  (w / 2 ^ 32 % 256, w / 65536 % 65536, w % 65536)
/-- The datum of a present queue entry. -/
def Datum.word : Datum → Word
  | .value v => v
  | _ => 0
/-- Entry `i` of a list replaced, if there is one. -/
def modNth {α : Type} (l : List α) (i : Nat) (f : α → α) : List α := match l[i]? with | some a => setNth l i (f a) | none => l
/-- A present datum changed. -/
def Datum.edit (f : Datum → Datum) (d : Datum) : Datum := if d.present then f d else d
/-- A fault or poison removed; the datum stays as it stands, which for an entry that never had one is 0 (R407). -/
def Datum.clearFault (d : Datum) : Datum := if d.bad then .value 0 else d
/-- A vector queue entry that is present with the datum of a lane changed, and the fault and poison of every lane removed (R407). -/
def VlqEntry.edit (e : VlqEntry) (lane : Nat) (f : Datum → Datum) : VlqEntry :=
  if e.present then
    { e with lanes := (modNth e.lanes lane fun d => d.map (Datum.edit f)).map fun d => d.map Datum.clearFault }
  else e
/-- The queue entry that a selection names, changed; an entry that is not present stays (R407). -/
def Core.editQueue (x : Core) (index item : Nat) (f : Datum → Datum) (g : Word → Word) : Core :=
  let e := item / 64
  if index < 2 then
    let q : Fin 2 := Fin.ofNat 2 index
    x.withCtl fun t => { t with lq := t.lq.set q (modNth t.lq[q] e fun y => { y with datum := y.datum.edit f }) }
  else if index < 4 then
    let q : Fin 2 := Fin.ofNat 2 index
    x.withVec fun v => { v with vlq := v.vlq.set q (modNth v.vlq[q] e fun y => y.edit (item % 64) f) }
  else if index < 8 then
    let q : Fin 4 := Fin.ofNat 4 index
    x.withVec fun v => { v with aq := v.aq.set q (modNth v.aq[q] e fun y => if y.left = 0 then { y with value := g y.value } else y) }
  else x
/-- DDATA written: the register, CSR, frame word or queue entry selected (R375, R407). -/
def State.debugWrite (s : State) (c : Nat) (v : Word) : State :=
  let x := s.core c
  let sel := x.selection
  let i := sel.2.1
  let item := sel.2.2
  match sel.1 with
  | 0 => if i < 32 then s.modCore c fun x => x.withCtl fun t => t.setReg (Fin.ofNat 32 i) v else s
  | 1 => if 24 ≤ i ∧ i < 30 then s.modCore c fun x => x.withCtl fun t =>
      { t with shadow := t.shadow.set! (i - 24) v, shadowPoison := t.shadowPoison.set! (i - 24) none } else s
  | 2 => if i < 32 ∧ item < 64 then s.modCore c fun x => x.withVec fun y =>
      let r : Fin 32 := Fin.ofNat 32 i
      { y with v := y.v.set r (y.v[r].set! item v), poison := y.poison.set r (clearBit y.poison[r] item)
               pva := y.pva.del (i * 64 + item) } else s
  | 3 => if 0 < i ∧ i < 8 then s.modCore c fun x => x.withVec fun y => { y with k := y.k.set! i v } else s
  | 4 => if i < 12 then s.modCore c fun x => x.withVec fun y => { y with a := y.a.set! i v } else s
  | 5 => match s.csrGet c i with
    | some old => if 0x400 ≤ i ∧ i < 0x800 then s else s.csrPut c i (csrValue i old v v)
    | none => s
  | 6 => if i < 2560 then s.writeNat (spadKey c (frameOff x.csr.kframe - 20480 + 8 * i)) 8 v.toNat else s
  | 7 => s.modCore c fun x => x.editQueue i item (fun _ => .value v) fun _ => v
  | _ => s
/-- DDATA read (R407). -/
def State.debugRead (s : State) (c : Nat) : Word :=
  let x := s.core c
  let sel := x.selection
  let i := sel.2.1
  let item := sel.2.2
  if x.debugState ≠ 2 ∨ !s.windowOpen c then 0
  else match sel.1 with
  | 0 => if i < 32 then x.ctl.reg (Fin.ofNat 32 i) else 0
  | 1 => if 24 ≤ i then x.ctl.shadow.toList.getD (i - 24) 0 else 0
  | 2 => if i < 32 then x.vec.lane (Fin.ofNat 32 i) item else 0
  | 3 => if i < 8 then x.vec.mask (Fin.ofNat 8 i) else 0
  | 4 => x.vec.a.toList.getD i 0
  | 5 => (s.csrGet c i).getD 0
  | 6 => if i < 2560 then s.readWord (spadKey c (frameOff x.csr.kframe - 20480 + 8 * i)) else 0
  | 7 =>
    if i < 2 then match (x.ctl.lq[(Fin.ofNat 2 i : Fin 2)])[item / 64]? with | some e => e.datum.word | none => 0
    else if i < 4 then match (x.vec.vlq[(Fin.ofNat 2 i : Fin 2)])[item / 64]? with
      | some e => match e.present, e.lanes.getD (item % 64) none with | true, some d => d.word | _, _ => 0
      | none => 0
    else if i < 8 then match (x.vec.aq[(Fin.ofNat 4 i : Fin 4)])[item / 64]? with | some e => if e.left = 0 then e.value else 0 | none => 0
    else 0
  | 8 => match x.ctl.h.toList.getD i .null with
    | .null => 0
    | .fill t => s.tileInfo t 1
    | .see t => s.tileInfo t 2
    | .gsee g => s.groupInfo g
  | _ => 0
/-- DDATA_WRITE: acts only while the core is halted (R407). -/
def execDdataWrite (c : Nat) (v : Word) (s : State) : Out :=
  .next (if s.windowOpen c && (s.core c).debugState == 2 then s.debugWrite c v else s)
/-- DQCTL_CLEARFAULT (R407). -/
def execDqctlClearfault (c : Nat) (s : State) : Out :=
  .next (let x := s.core c
    let sel := x.selection
    if s.windowOpen c && x.debugState == 2 && sel.1 == 7 then
      s.modCore c fun x => x.editQueue sel.2.1 sel.2.2 Datum.clearFault fun w => w
    else s)

/-! ## The network -/

/-- The next stop of a flit. -/
def Flit.next (f : Flit) : Nat := if f.cw then (f.at_ + 1) % 5 else (f.at_ + 4) % 5
/-- RING_FLIT_HOP: the flit at place `k` enters a slot of its class, in turn at its stop, and crosses a hop; at its stop it is
there (R384, R385). -/
def execRingFlitHop (k : Nat) (s : State) : Out :=
  .next (match s.flits[k]? with
    | none => s
    | some f => match s.flight.find? fun a => a.id == f.access with
      | none => { s with flits := dropNth s.flits k }
      | some a =>
        let mine (g : Flit) : Bool := g.at_ == f.at_ && g.cw == f.cw
          && s.flight.any fun b => b.id == g.access && s.funcOf b.core == s.funcOf a.core && pkgOf b.core == pkgOf a.core
        if !s.slotFor a.core f (s.freeClass a.core (s.keyOf a.place)) || (s.flits.take k).any mine then s
        else if f.next = f.dst then { s with flits := dropNth s.flits k }
        else { s with flits := setNth s.flits k { f with at_ := f.next } })
/-- ROUTE_TABLE_UPDATE: the link of a package's one path to a node, or no path (R389, R391). -/
def execRouteTableUpdate (p : Nat) (node : BitVec 12) (link : Option (Fin 18)) (s : State) : Out :=
  .next (if !s.up p then s else s.modPkg p fun x => { x with routes := match link with
    | some l => x.routes.put node.toNat l
    | none => x.routes.del node.toNat })
/-- A link goes down; the paths through it are dead until ROUTE_TABLE_UPDATE gives others (R391). -/
def Pkg.dropLink (x : Pkg) (l : Fin 18) : Pkg := { x with linkDown := x.linkDown.set l true }
/-- LINK_FLIT_REPLAY: a flit whose CRC failed is sent again, well or not; failures in a row are counted (R391). -/
def execLinkFlitReplay (p : Nat) (l : Fin 18) (good : Bool) (s : State) : Out :=
  .next (s.modPkg p fun x => if x.linkDown[l] then x else { x with replays := x.replays.set l (if good then 0 else x.replays[l] + 1) })
/-- LINK_DOWN: after 64 failed replays (R391). -/
def execLinkDown (p : Nat) (l : Fin 18) (s : State) : Out :=
  .next (s.modPkg p fun x => if 64 ≤ x.replays[l] then x.dropLink l else x)

end Sys2Proof.Machine
end

