-- ==== Sys2Proof/Machine/Power.lean ====
section
/-! DEFINITION. Power and heat: caps, tiers and grants (R408 to R410), rail trimming (R412, R413), gating and wakes (R414), trips and
sensors (R415, R416), cold start and power-down (R418); the swap engine (R196 to R198). -/
namespace Sys2Proof.Machine

/-! ## Caps and grants -/

/-- A sum of a list of numbers. -/
def sum (l : List Nat) : Nat := l.foldl (· + ·) 0
/-- The four floors, in W (R408). -/
def Pkg.floors (x : Pkg) : List Nat := x.tfloor.toList.map (·.toNat)
/-- POWER_CAP_WRITE: PCAP above 1650 is held as 1650; a write that would leave the floors above CAP is discarded (R408). -/
def execPowerCapWrite (p : Nat) (t : Option (Fin 4)) (v : Word) (s : State) : Out :=
  .next (if !s.takes p 0 then s else s.modPkg p fun x => match t with
    | none =>
      let cap := minN (v.toNat % 65536) 1650
      if cap < sum x.floors then x else { x with pcap := BitVec.ofNat 16 cap }
    | some i =>
      let y := { x with tfloor := x.tfloor.set i (BitVec.ofNat 16 v.toNat) }
      if x.pcap.toNat < sum y.floors then x else y)

/-- The grants of demands under a cap: floors first, then the surplus in tier order (R409). All in one unit. -/
def grants (cap : Nat) (floors demands : List Nat) : List Nat :=
  let first := (demands.zip floors).map fun d => minN d.1 d.2
  let share (a : Nat × List Nat) (d : Nat × Nat) : Nat × List Nat :=
    let more := minN a.1 (d.1 - d.2)
    (a.1 - more, a.2 ++ [d.2 + more])
  ((demands.zip first).foldl share (cap - sum first, [])).2
/-- The imposed interval of a tier after an epoch (R410). -/
def nextInterval (old power grant : Nat) : Nat :=
  if grant < power then (if old = 0 then 16 else minN (2 * old) 32768)
  else if 10 * power < 9 * grant then (if old / 2 < 16 then 0 else old / 2)
  else old
/-- Has a tier a core (R409)? -/
def Pkg.tierUsed (x : Pkg) (t : Nat) : Bool := x.funcs.any fun f => f.2.part.valid && f.2.part.tier.val == t && f.2.part.coreset != 0
/-- POWER_EPOCH: demands, 0 of a tier without cores, raised by 10 % where a queue was held, grants, and the imposed intervals; powers
in tenths of a watt (R409, R410). -/
def execPowerEpoch (p : Nat) (s : State) : Out :=
  .next (if !s.up p then s else
    let power := (upto 4).map fun t => if (s.pkg p).tierUsed t then Config.freePower t s.draws else 0
    let t := s.modPkg p fun x =>
      let demand := power.zipIdx.map fun d => if x.held.toList.getD d.2 false then d.1 + d.1 / 10 else d.1
      let g := grants (10 * x.pcap.toNat) (x.floors.map (10 * ·)) demand
      { x with
        held := rep 4 false
        interval := Vector.ofFn fun i => nextInterval x.interval[i] (power.getD i.val 0) (g.getD i.val 0) }
    { t with draws := t.draws + 1 })

/-! ## Rails -/

/-- TRIM_WINDOW: the end of a 100 ms window, with a free number of corrections that no freeze has shown among those of it (entry 90);
of a gated hamlet nothing but the count starts again:
with 2 corrections or fewer the step reached is safe, and the rail goes down by one, not below its floor and not within 1 s of an
uncorrectable error (R412, R413). -/
def execTrimWindow (p : Nat) (h : Fin 32) (s : State) : Out :=
  .next (if !s.up p then s else { s with draws := s.draws + 1 }.modHamlet p h.val fun y =>
    if y.gated then { y with corrections := 0 }
    else
      let x := y.countMany (Config.freeCorrections s.draws)
      let few := decide (x.corrections ≤ 2)
      let safe := if few then maxN x.safe x.rail else x.safe
      let lower := few && x.noLower == 0 && decide (x.rail < Config.railFloor (p * 32 + h.val))
      { x with corrections := 0, safe := safe, noLower := x.noLower - 1, rail := if lower then x.rail + 1 else x.rail })
/-- The lowest-slot core of a hamlet that lies in a valid entry (R362). -/
def State.trimCore (s : State) (p h : Nat) : Option Nat :=
  ((upto 16).map fun i => p * 512 + h * 16 + i).find? fun c => (s.funcOf c).isSome
/-- TRIM_UE: after an uncorrectable error below nominal, the rail at the last safe step plus one, and the event at its core or
counted in THERM (R413, R417). -/
def execTrimUe (p : Nat) (h : Fin 32) (s : State) : Out :=
  .next (if !s.up p || !((s.pkg p).hamlets[h]).ue then s
    else
      let t := s.modHamlet p h.val fun x =>
        { x with ue := false, rail := x.safe - 1, safe := x.safe - 1, noLower := 10 }
      match t.trimCore p h.val with
      | some c => t.modCore c fun x => { x with events := { x.events with trimUe := some (BitVec.ofNat 64 (h.val % 8)) } }
      | none => t.modPkg p fun x => { x with trimue := if x.trimue = 255 then 255 else x.trimue + 1 })

/-! ## Gating -/

/-- The cores of a hamlet. -/
def hamletCores (p h : Nat) : List Nat := (upto 16).map fun i => p * 512 + h * 16 + i
/-- Has a core's partition no launch running or waiting, if it has one (R414)? -/
def State.unused (s : State) (c : Nat) : Bool :=
  match s.funcOf c with
  | none => true
  | some f =>
    (s.part (s.partOf (pkgOf c) f)).launch.isNone
      && (s.partPkgs (s.pkg (pkgOf c)).domain (s.partOf (pkgOf c) f)).all fun q => ((s.pkg q).func f).subs.isEmpty
/-- HAMLET_GATE (R414). -/
def execHamletGate (p : Nat) (h : Fin 32) (s : State) : Out :=
  .next (let l := hamletCores p h.val
    if !s.up p || ((s.pkg p).hamlets[h]).gated || !(l.all s.unused) then s
    else (l.foldl (fun s c => s.modCore c fun x => { x with mode := .gated }) s).modHamlet p h.val fun x =>
      { x with gated := true, hold := true, request := false })
/-- A core woken: reset, its counters kept, KVEC and KFRAME from its entry (R173, R414). -/
def Core.woken (x : Core) (kvec kframe : Word) : Core :=
  { Core.reset with
    csr := { Csrs.reset with cycle := x.csr.cycle, eccfreeze := x.csr.eccfreeze, euse := x.csr.euse, kvec := kvec, kframe := kframe }
    wakes := x.wakes + 1, mode := .normal }
/-- A core wakes; what its scratchpad held is gone (R414). -/
def State.wakeCore (s : State) (c : Nat) : State :=
  let kv : Word × Word := match s.funcOf c with
    | some f => ((s.entry (pkgOf c) f).kvec, (s.entry (pkgOf c) f).kframe)
    | none => (0, 0)
  let t := s.modCore c fun x => x.woken kv.1 kv.2
  { t with mem := t.mem.filter fun x => spadOwner x.1 != some c, poison := t.poison.filter fun g => spadOwner g != some c }
/-- Does the hamlet wait for the arbiter, its hold over? -/
def Hamlet.waiting (x : Hamlet) : Bool := x.gated && x.request && !x.hold
/-- HAMLET_WAKE: the hold of a requested hamlet ends; then the arbiter of its die grants the wakes in ascending hamlet order
(R414). -/
def execHamletWake (p : Nat) (h : Fin 32) (s : State) : Out :=
  .next (let x := (s.pkg p).hamlets[h]
    let before := (upto h.val).filter fun i => i / 8 == h.val / 8
    if !s.up p || !x.gated || !x.request then s
    else if x.hold then s.modHamlet p h.val fun x => { x with hold := false }
    else if before.any fun i => ((s.pkg p).hamlets.toList.getD i .reset).waiting then s
    else ((hamletCores p h.val).foldl State.wakeCore s).modHamlet p h.val fun x => { x with gated := false, request := false })

/-! ## Heat -/

/-- Temperatures are in tenths of a degree, samples 100 µs apart: is a channel out of its range (R415, R416)? -/
def readingWild (r : SensorReading) : Bool := decide (r.tl < -200 ∨ 1500 < r.tl ∨ r.td < -200 ∨ 1500 < r.td)
/-- Has a channel stepped by more than 10 degrees within 1 ms (R416)? -/
def readingStepped (r : SensorReading) (before : List SensorReading) : Bool :=
  (before.take 10).any fun o => decide (100 < (r.tl - o.tl).natAbs ∨ 100 < (r.td - o.td).natAbs)
/-- Has a channel stayed unchanged for 1 s while the hamlet's estimated power changed by more than 20 % (R416)? -/
def readingStuck (r : SensorReading) (before : List SensorReading) : Bool :=
  let l := before.take 10000
  let powers := r.power :: l.map (·.power)
  l.length == 10000 && (l.all (fun o => o.tl == r.tl) || l.all fun o => o.td == r.td)
    && decide (12 * powers.foldl minN r.power < 10 * powers.foldl maxN r.power)
/-- A sample that no working sensor could give (R416). -/
def readingBad (before : List SensorReading) (r : SensorReading) : Bool := readingWild r || readingStepped r before || readingStuck r before
/-- The highest of some numbers. -/
def highest (l : List Int) : Int := l.foldl (fun a b => if a < b then b else a) (l.headD 0)
/-- A sensor's channels after a sample: a failed one stays failed (R416). -/
def Hamlet.sampled (x : Hamlet) (r : SensorReading) : Hamlet :=
  let y := { x with recent := (r :: x.recent).take 10000 }
  if x.failed || readingBad x.recent r then { y with failed := true } else { y with tl := r.tl, td := r.td }
/-- The readings of a die with substitutes: of a failed sensor the hottest working neighbour, with two failed neighbours the
hottest working hamlet of the die, plus 10 degrees (R416). `pair` says that two adjacent ones have failed. -/
def substituted (l : List Hamlet) (pair : Bool) : List (Int × Int) :=
  (l.zipIdx).map fun x =>
    if !x.1.failed then (x.1.tl, x.1.td)
    else
      let from_ := (l.zipIdx.filter fun y => !y.1.failed && (pair || y.2 + 1 == x.2 || y.2 == x.2 + 1)).map (·.1)
      (highest (from_.map (·.tl)) + 100, highest (from_.map (·.td)) + 100)
/-- Have two adjacent sensors failed? -/
def pairFailed (l : List Hamlet) : Bool := (l.zip (l.drop 1)).any fun x => x.1.failed && x.2.failed
/-- Trip 3 on a die: THERMAL_SAVE on its cores that lie in valid entries, PREEMPT.REQ on every other core of their partitions
(R415). -/
def State.tripThree (s : State) (p d : Nat) : State :=
  let mine := ((upto 128).map fun i => p * 512 + d * 128 + i).filter fun c => (s.funcOf c).isSome
  let gangs := (mine.filterMap s.funcOf).eraseDups.map fun f => s.members p (s.partOf p f)
  let t := mine.foldl (fun s c => s.modCore c fun x =>
    match x.mode with
    | .gated | .stopped | .saved | .saving _ => x
    | _ => { x with events := { x.events with thermal := true } }) s
  gangs.foldl (fun s g => s.askPreempt (g.filter fun c => !mine.contains c) true) t
/-- The trips of a die under its hottest readings (R415). -/
def State.applyTrips (s : State) (p d : Nat) (tl td : Int) (pair none_ : Bool) : State :=
  let y := (s.pkg p).dies.toList.getD d .reset
  let trip1 := decide (800 ≤ td) || (y.trip1 && decide (780 ≤ td))
  let trip2 := pair || decide (840 ≤ td) || (y.trip2 && decide (820 ≤ td))
  let trip3 := none_ || decide (1000 ≤ tl) || decide (880 ≤ td)
  let cool := !none_ && !y.trip3 && decide (tl < 900) && decide (td < 800)
  let t := s.modDie p d fun z =>
    { z with trip1 := trip1, trip2 := trip2, warn := z.warn || (trip1 && !z.trip1), trip3 := z.trip3 || trip3
             halted := trip3 || (z.halted && !cool) }
  let u := if trip1 && !y.trip1 then t.signal p 0 0 else t
  if trip3 && !y.halted then u.tripThree p d else u
/-- THERMAL_SAMPLE: each hamlet's sensor, its failure and substitute, and the trips of the die (R415, R416). -/
def execThermalSample (p : Nat) (die : Fin 4) (r : List SensorReading) (s : State) : Out :=
  .next (if !s.up p then s else
    let t := (upto 8).foldl (fun s i => match r[i]? with
      | some x => s.modHamlet p (die.val * 8 + i) fun h => h.sampled x
      | none => s) s
    let l := ((t.pkg p).hamlets.toList.drop (die.val * 8)).take 8
    let pair := pairFailed l
    let eff := substituted l pair
    t.applyTrips p die.val (highest (eff.map (·.1))) (highest (eff.map (·.2))) pair (l.all (·.failed)))

/-- What is left of the partitions when a package loses its power: one whose only valid entry it has is gone, of one that it shares the
launch, and of every one the slots in its memory (R254, R398, R415, R418). -/
def State.partsLeft (s : State) (p : Nat) : Tab Part :=
  let x := s.pkg p
  s.parts.filterMap fun e =>
    let y := { e.2 with slots := e.2.slots.filter fun l => l.2.at_ / nodeSize != p }
    let pkgs := s.partPkgs x.domain e.1
    let lone := s.pkgs.all fun q => q.1 == p || !q.2.on || q.2.domain != x.domain
    if e.1 / 2 ^ 38 != x.domain then some (e.1, y)
    else if pkgs == [p] || (pkgs.isEmpty && lone) then none
    else if pkgs.contains p then some (e.1, { y with launch := none, started := false })
    else some (e.1, y)
/-- Does a message concern a core of a package? -/
def Msg.concerns (p : Nat) : Msg → Bool
  | .fillDrop t c _ _ => pkgOf t.core == p || pkgOf c == p
  | .seeDrop t c _ => pkgOf t.core == p || pkgOf c == p
  | .handle a b _ _ _ _ => pkgOf a == p || pkgOf b == p
/-- Power gone from a package: its cores, its own memory, its partitions and what it had under way (R415, R418). -/
def State.powerOff (s : State) (p : Nat) : State :=
  let gone (k : Nat) : Bool := k / nodeSize == p && (match regionOf (k % nodeSize) with | .cxl | .host => false | _ => true)
  let t : State :=
    { s with
      cores := s.cores.filter fun x => pkgOf x.1 != p
      parts := s.partsLeft p
      msgs := s.msgs.filter fun m => !m.concerns p
      tokens := s.tokens.filter fun t => pkgOf t.core != p
      mem := s.mem.filter fun x => !gone x.1
      poison := s.poison.filter fun g => !gone g
      flight := s.flight.filter fun a => pkgOf a.core != p
      gloads := s.gloads.filter fun g => pkgOf g.core != p
      chunks := s.chunks.filter fun c => pkgOf c.src != p
      flits := s.flits.filter fun f => !(s.flight.any fun a => a.id == f.access && pkgOf a.core == p) }
  t.modPkg p fun x => { x with on := false }
/-- THERMAL_TRIP_4: power is removed, nothing is saved (R415). -/
def execThermalTrip4 (p : Nat) (s : State) : Out := .next (s.powerOff p)
/-- POWER_DOWN: clamps, then logic power, then DRAM power (R418). -/
def execPowerDown (p : Nat) (s : State) : Out := .next (s.powerOff p)
/-- Does the `k`-th boot succeed in every step: DRAM, logic, bond interfaces, firmware verification, training (R403, R418)? -/
def bootGood (k : Nat) : Bool := [1, 2, 3, 5].all (Config.bootStepGood k) && Config.firmwareGood k
/-- COLD_START: the sequence of R418, which a package reset repeats; a step that fails leaves the package in reset, and the failure
is reported (R403). -/
def execColdStart (p : Nat) (s : State) : Out :=
  .next (let t := s.powerOff p
    let boots := (t.pkg p).boots + 1
    if bootGood boots then t.setPkg p { Pkg.reset with boots := boots }
    else (t.setPkg p { Pkg.reset with on := false, inReset := true, boots := boots }).hostReply p ansBad [])

/-! ## The swap engine -/

/-- Is a backing frame in a die's vaults, or in the second tier (R196)? -/
def inVault (addr : Nat) : Bool := regionOf (addr % nodeSize) == .stacked
/-- Frames of a package that a leaf maps: the package, the first frame and their number. -/
structure Pinned where
  pkg : Nat
  first : Nat
  count : Nat
  deriving DecidableEq, Repr
/-- What a leaf with PIN and TIER 00 keeps in place, as a package sees it (R189, R196). -/
def State.pinnedBy (s : State) (p bits : Nat) (pte : Word) : List Pinned :=
  if pteBit pte 7 && decide (pteTier pte = 0) then
    match s.nodePkg p (ptePa pte / nodeSize) with
    | some q => [{ pkg := q, first := frameOf (ptePa pte), count := 2 ^ (bits - 16) }]
    | none => []
  else []
/-- The words in a range of keys in which memory lists a byte. -/
def State.listedWords (s : State) (k n : Nat) : List Nat :=
  ((s.mem.filter fun x => decide (k ≤ x.1 ∧ x.1 < k + n)).map fun x => x.1 / 8 * 8).eraseDups
/-- What the leaves of a table of a level keep in place, through the words that something has written; `fuel` levels remain (R188 to
R190). -/
def State.pinsFrom (s : State) (p : Nat) : Nat → Nat → Nat → List Pinned
  | 0, _, _ => []
  | fuel + 1, level, table =>
    match s.nodePkg p (table / nodeSize) with
    | none => []
    | some q =>
      let lb := levelBits level
      (s.listedWords (key q (table % nodeSize)) (8 * 2 ^ lb.2)).flatMap fun k =>
        let e := s.readWord k
        match pteCheck level e with
        | .bad => []
        | .leaf => s.pinnedBy p lb.1 e
        | .next => s.pinsFrom p fuel (level + 1) (ptePa e)
/-- The page tables in use: those of the cores, of the valid entries and of the valid windows, each with its package (R191). -/
def State.tableRoots (s : State) : List (Nat × Word) :=
  (s.cores.map (fun x => (pkgOf x.1, x.2.csr.ptbase)) ++ s.pkgs.flatMap fun p => p.2.funcs.flatMap fun f =>
    (if f.2.part.valid then [(p.1, f.2.part.ptbase)] else [])
      ++ (f.2.windows.filter fun w => bitOf w.2.base 63).map fun w => (p.1, w.2.ptbase)).eraseDups
/-- The frames that a leaf with PIN maps, in a table or in a translation cache (R189, R197). -/
def State.pinned (s : State) : List Pinned :=
  s.tableRoots.flatMap (fun r => s.pinsFrom r.1 4 1 (ptePa r.2))
    ++ s.cores.flatMap fun x => x.2.tlb.flatMap fun e => s.pinnedBy (pkgOf x.1) e.bits e.pte
/-- May a frame of a package be moved (R197)? -/
def movable (pins : List Pinned) (p : Nat) (d : Die) (n : Nat) : Bool :=
  (d.pins.find n).getD 0 == 0 && !pins.any fun x => x.pkg == p && decide (x.first ≤ n ∧ n < x.first + x.count)
/-- The count of a frame in this epoch. -/
def Die.countOf (d : Die) (n : Nat) : Nat := (d.counts.find n).getD 0
/-- The coldest frame of a list. -/
def Die.coldest (d : Die) (l : List Nat) : Option Nat :=
  l.foldl (fun a n => match a with | none => some n | some m => if d.countOf n < d.countOf m then some n else some m) none
/-- A frame moved to a new backing frame in the tables of a plan. -/
def Die.moved (d : Die) (n addr : Nat) : Die :=
  match d.place.find n with
  | some old => { d with place := d.place.put n addr, pool := (d.pool.erase addr) ++ [old] }
  | none => d
/-- The promotions and demotions of an epoch, for candidates in descending order of count; `fuel` moves remain (R197). Where the
coldest frame of the vaults may not be moved, the coldest that may gives way, if it is colder (entry 9). -/
def planMoves (ok : Nat → Bool) : Nat → List Nat → Die → List (Nat × Nat)
  | 0, _, _ => []
  | _, [], _ => []
  | fuel + 1, n :: r, d =>
    let vault := (d.place.filter fun x => inVault x.2).map (·.1)
    let hotter (m : Option Nat) : Bool := match m with | some m => decide (d.countOf m < d.countOf n) | none => true
    let cold := d.coldest (vault.filter ok)
    if !(decide (64 ≤ d.countOf n) && hotter (d.coldest vault)) then []
    else match d.pool.find? inVault, (if hotter cold then cold else none), d.pool.find? fun a => !inVault a with
      | some a, _, _ => (n, a) :: planMoves ok fuel r (d.moved n a)
      | none, some m, some b => match d.place.find m, fuel with
        | some a, k + 1 => (m, b) :: (n, a) :: planMoves ok k r ((d.moved m b).moved n a)
        | _, _ => []
      | none, _, _ => []
/-- SWAP_EPOCH: the moves of the next epoch are chosen from the counts of this one (R197). -/
def execSwapEpoch (p : Nat) (die : Fin 4) (s : State) : Out :=
  .next (if !s.up p then s else
    let d := (s.pkg p).dies[die]
    let ok := movable s.pinned p d
    let cands := sortBy (fun n => 2 ^ 64 - d.countOf n) ((d.place.filter fun x => !inVault x.2 && ok x.1).map (·.1))
    s.modDie p die.val fun y => { y with plan := planMoves ok 256 cands y, counts := [] })
/-- FRAME_SWAP: the next frame of the plan is write-protected and copied, then its entry of the placement table is switched; no
read sees a difference, and writes wait meanwhile (R198). The copy travels between the die and the IOD in free slots (R384). -/
def execFrameSwap (p : Nat) (die : Fin 4) (s : State) : Out :=
  .next (if !s.up p then s else
    let d := (s.pkg p).dies[die]
    match d.swapping, d.plan with
    | some (n, addr), _ => s.modDie p die.val fun y => { y.moved n addr with swapping := none }
    | none, (n, addr) :: r =>
      if !s.ringWay p none die.val 4 then s
      else if movable s.pinned p d n && d.pool.contains addr then s.modDie p die.val fun y => { y with swapping := some (n, addr), plan := r }
      else s.modDie p die.val fun y => { y with plan := r }
    | none, [] => s)

end Sys2Proof.Machine
end

