-- ==== Sys2Proof/Machine/VMem.lean ====
section
/-! DEFINITION. The memory words of the vector stream (R147 to R155) and the landing of its results and stores (R89, R90, R117,
R118, R372). -/
namespace Sys2Proof.Machine

/-! ## Local accesses -/

/-- A local address: the access address, the core with its pop made, and the base register with its new value (R31, R147). -/
structure VLoc where
  addr : Word
  core : Core
  base : Option (Fin 12 × Word)
/-- The address of a local access, once its base can be read. -/
def Core.vaddr (x : Core) {n : Nat} (a : VAddr n) : Except Stop VLoc :=
  match a with
  | .loc b off => do
    let r ← x.ab b
    .ok { addr := r.1 + off.signExtend 64, core := r.2, base := none }
  | .postInc r off => .ok { addr := x.vec.a[r], core := x, base := some (r, x.vec.a[r] + off.signExtend 64) }
  | .preInc r off =>
    .ok { addr := x.vec.a[r] + off.signExtend 64, core := x, base := some (r, x.vec.a[r] + off.signExtend 64) }
/-- The base update, one cycle later, whatever the mask (R99, R147). -/
def Core.vbase (x : Core) (b : Option (Fin 12 × Word)) : Core :=
  match b with
  | some (r, v) => x.putA r 1 v
  | none => x

/-- Where a local vector access goes: its bank, the layout sampled at issue, and the element number of every lane (R148, R183). -/
structure VElems where
  bank : Nat
  word : Word
  lay : Layout
  nums : List Nat

/-- The element numbers of the lanes (R148). -/
def elemNums (l : Layout) (b : Nat) (idx : Option (Nat → Word)) : List Nat :=
  (upto 64).map fun i => l.first b + (match idx with | some f => (f i).toNat | none => i)
/-- The layout and elements of a local access of type `t` at an address. -/
def State.velems (s : State) (a : Word) (t : Ty) (idx : Option (Nat → Word)) : VElems :=
  let bank := a.toNat / bankSize % 16
  let word := s.bankWord s.cur bank
  let l := (BankFmt.of word).layout t
  { bank := bank, word := word, lay := l, nums := elemNums l (a.toNat % bankSize) idx }
/-- The runs of the active lanes at memory keys. -/
def VElems.runs (e : VElems) (c : Nat) (m : Mask) : List (Nat × Nat) :=
  (lanesIn m).flatMap fun i => (e.lay.runs (e.nums.getD i 0)).map fun r => (bankKey c e.bank + r.1, r.2)

/-- The checks of R148 over the active lanes, with the condition of the word on its bank after its first step (DESIGN CHOICE,
entry 89), the live kernel frames (R369), and OVERLAP last (R130, R302). -/
def State.checkElems (s : State) (a : Word) (e : VElems) (m : Mask) (bankOk writes : Bool) : Except Stop Unit :=
  if m = 0 then .ok ()
  else do
    require (decide (a.toNat < Config.spadSize)) .perm a
    require bankOk .perm a
    require (decide (a.toNat % bankSize % e.lay.size = 0)) .misalign a
    match (lanesIn m).findSome? fun i => e.lay.outside (e.nums.getD i 0) with
    | some off => trapOf .perm (BitVec.ofNat 64 (e.bank * bankSize + off))
    | none => do
      match (e.runs s.cur m).find? fun r => !s.me.ctl.kernel && s.me.inLiveFrame (spadOff r.1) r.2 with
      | some r => trapOf .perm (BitVec.ofNat 64 (spadOff r.1))
      | none =>
        match s.overlapAt (e.runs s.cur m) writes with
        | some b => trapOf .overlap (BitVec.ofNat 64 (spadOff b))
        | none => .ok ()

/-- The bank whose stream port the word takes in this cycle: the cycle of issue, for a store too (DESIGN CHOICE, entry 14; R50). -/
def Core.takePort (x : Core) (m : Mask) (bank : Nat) : Core :=
  if m = 0 then x else x.withVec fun v => { v with ports := bank :: v.ports }

/-- The local atomics of a core's vector stream still under way, below a number, on bytes of some runs or of a later one of them, in
the order of issue (R242). -/
def State.ownAtomics (s : State) (c before : Nat) (runs : List (Nat × Nat)) : List Nat :=
  (s.flight.foldr (fun a (acc : List Nat × List (Nat × Nat)) =>
    if a.core == c && a.vec && a.req.addr.isLoc && decide (a.id < before) && acc.2.any (keysMeet (s.runOf a)) then
      (a.id :: acc.1, s.runOf a :: acc.2)
    else acc) ([], runs)).1
/-- They are performed before a later word of the stream acts on those bytes, but for one behind a store whose data are not due yet
(R88, R89, R242). -/
def State.performOwn (s : State) (c before : Nat) (runs : List (Nat × Nat)) : State :=
  (s.ownAtomics c before runs).foldl (fun s n => match s.findAccess n with | some k => s.perform k | none => s) s

/-- A local vector load (R149): its bytes are read as the word issues, after the stream's own atomics on them (R242). An atomic that
waits for the data of an earlier store comes after the load, as those data do: the load does not wait (DEDUCED, entry 108; R88, R89).
A word whose address pops an entry that cannot be popped yet waits before its other checks (DESIGN CHOICE, entry 98; R102). -/
def State.vLoad (s : State) (ty : Ty) (d : Fin 32) {n : Nat} (a : VAddr n) (idx : Option (Fin 32)) (k : Fin 8) (lat : Nat) :
    Issue := do
  let x := s.me
  let m := x.vec.mask k
  let loc ← x.vaddr a
  x.checkLent (d :: idx.toList)
  if idx.isSome then x.checkRepeat x.vec.idxAt 4 1 else .ok ()
  x.checkUes m idx.toList
  let e := s.velems loc.addr ty (idx.map fun r => x.vec.lane r)
  s.checkElems loc.addr e m true false
  let kb := bankKey s.cur e.bank
  let runs := e.runs s.cur m
  let s0 := s.performOwn s.cur s.nextId runs
  let after ← s0.me.vaddr a
  let s1 := s0.setCore s.cur after.core
  let s2 := match runs.head? with
    | some r => s1.onLocalRead s.cur r.1
    | none => s1
  let num (i : Nat) : Nat := e.nums.getD i 0
  let bad := maskOf ((lanesIn m).filter fun i => s2.elemPoisoned kb e.lay (num i))
  let l := forLanes m fun i => if active bad i then plainLane 0 else s2.elemAs kb e.lay (num i) ty
  .ok (.go (s2.onMe fun x =>
    let y := x.pend { x.blank .v d.val lat ty with
      value := laneWords l, lanes := m, poison := bad, flags := laneFlags l, nan := (nanLane? l).isSome
      nanLane := (nanLane? l).getD 0 }
    let z := if idx.isSome then y.withVec fun v => { v with idxAt := some v.now } else y
    (z.takePort m e.bank).vbase loc.base))
/-- `vld` (R147 to R149). -/
def execVld (ty : Ty) (d : Fin 32) (addr : VAddr 25) (k : Fin 8) (s : State) : Out := vec s (s.vLoad ty d addr none k 6)
/-- `vldx` (R147 to R149). -/
def execVldx (ty : Ty) (d : Fin 32) (addr : VAddr 20) (x : Fin 32) (k : Fin 8) (s : State) : Out :=
  vec s (s.vLoad ty d addr (some x) k 10)

/-- The entry of a store or reduction in flight (R371). -/
def Core.storeEntry (x : Core) (kind : PKind) (r : Fin 32) (m : Mask) (ty : Ty) (a word : Word) (op : Nat)
    (runs : List (Nat × Nat)) : PEntry :=
  { x.blank kind r.val 3 ty with
    value := x.vec.v[r], lanes := m, offset := a, home := a.toNat / bankSize % 16, runs := runs, bank := word.setWidth 24
    op := op }
/-- A local vector store: performed 3 stream cycles later (R150). -/
def State.vStore (s : State) (ty : Ty) (d : Fin 32) {n : Nat} (a : VAddr n) (idx : Option (Fin 32)) (k : Fin 8) :
    Issue := do
  let x := s.me
  let m := x.vec.mask k
  let loc ← x.vaddr a
  x.checkLent (d :: idx.toList)
  if idx.isSome then x.checkRepeat x.vec.idxAt 4 1 else .ok ()
  x.checkUes m (d :: idx.toList)
  let e := s.velems loc.addr ty (idx.map fun r => x.vec.lane r)
  s.checkElems loc.addr e m (!(idx.isSome && e.lay.isBlock)) true
  let first := match idx with
    | some _ => loc.addr + BitVec.ofNat 64 (e.lay.size * (e.nums.getD 0 0 - e.lay.first (loc.addr.toNat % bankSize)))
    | none => loc.addr
  let y := loc.core.pend { x.storeEntry .store d m ty loc.addr e.word 0 (e.runs s.cur m) with offset := first, seq := s.nextId }
  let z := match idx with
    | some r => (y.pend { x.storeEntry .elems r m ty loc.addr e.word 0 [] with
        value := lanesOf (e.nums.map fun n => BitVec.ofNat 64 n) }).withVec fun v => { v with idxAt := some v.now }
    | none => y
  .ok (.go (s.setCore s.cur ((z.takePort m e.bank).vbase loc.base)))
/-- `vst` (R147, R148, R150). -/
def execVst (ty : Ty) (d : Fin 32) (addr : VAddr 25) (k : Fin 8) (s : State) : Out := vec s (s.vStore ty d addr none k)
/-- `vstx` (R147, R148, R150). -/
def execVstx (ty : Ty) (d : Fin 32) (addr : VAddr 20) (x : Fin 32) (k : Fin 8) (s : State) : Out :=
  vec s (s.vStore ty d addr (some x) k)

/-! ## Decoupled accesses -/

/-- A lane's request. -/
def laneReq (x : Core) (op : AccOp) (a : ReqAddr) (t : Ty) (zue : Bool) : Req := x.req? op a t .plain zue
/-- The requests of a word's active lanes issued one after the other into an entry. -/
def State.issueLanes (s : State) (c : Nat) (q : Fin 2) (id : Nat) : Nat → List (Option Req) → State
  | _, [] => s
  | i, none :: r => State.issueLanes s c q id (i + 1) r
  | i, some a :: r => State.issueLanes (s.issueQueued c true a (.vlq q id i)) c q id (i + 1) r
/-- A vector load queue has a free entry (R88). -/
def Core.awaitVlq (x : Core) (q : Fin 2) : Except Stop Unit :=
  awaits (decide (x.vec.vlq[q].length < 8)) (.queue (14 + q.val))
/-- The entry taken, absent until every active lane has its datum or its fault, and the lanes issued (R95, R152). -/
def State.vDecoupled (s : State) (q : Fin 2) (reqs : List (Option Req)) : State :=
  let id := s.nextId
  let e : VlqEntry := { id := id, lanes := reqs.map fun r => r.map fun _ => .absent, reqs := reqs, flags := 0, nan := false
                        nanLane := 0 }
  (s.onMe fun x => x.withVec fun v => { v with vlq := v.vlq.set q (v.vlq[q] ++ [e]) }).issueLanes s.cur q id 0 reqs
/-- OVERLAP over the requests of a word. -/
def State.checkRequests (s : State) : List (Option Req) → Except Stop Unit
  | [] => .ok ()
  | none :: r => s.checkRequests r
  | some a :: r => do s.checkRequest a true; s.checkRequests r
/-- MISALIGN, only if a lane is active (R152). -/
def checkLaneAlign (m : Mask) (a : Word) (n : Nat) : Except Stop Unit :=
  require (m == 0 || decide (a.toNat % n = 0)) .misalign a

/-- `vldq` (R152). -/
def execVldq (ty : Ty) (q : Fin 2) (addr : VqAddr) (k : Fin 8) (s : State) : Out :=
  let go (b : Ab) (off : BitVec 25) (zue grp : Bool) : Issue := do
    let x := s.me
    let m := x.vec.mask k
    together (x.awaitVlq q) (x.awaitAb b)
    let r ← x.ab b
    let a := r.1 + off.signExtend 64
    checkLaneAlign m a ty.size
    let reqs := (upto 64).map fun i =>
      let va := a + BitVec.ofNat 64 (i * ty.size)
      if active m i then some (laneReq x .load (if grp then .group va else .virt va) ty zue) else none
    s.checkRequests reqs
    .ok (.go ((s.setCore s.cur r.2).vDecoupled q reqs))
  vec s (match addr with
    | .plain b off => go b off false false
    | .zue b off => go b off true false
    | .group b off => go b off false true)

/-- A vector atomic (R154). One that finds no free entry waits before BANK_LENT (DESIGN CHOICE, entry 98; R102). -/
def State.vAtomic (s : State) (o : Vamo) (op : AmoOp) : Out :=
  let go (b : Ab) (off : BitVec 20) (local_ : Bool) : Issue := do
    let x := s.me
    let m := x.vec.mask o.k
    together (x.awaitVlq o.q) (x.awaitAb b)
    let r ← x.ab b
    let a := r.1 + off.signExtend 64
    x.checkLent [o.s]
    x.checkUe o.s m
    if local_ then .ok () else checkLaneAlign m a o.ty.size
    let e := s.velems a o.ty none
    if local_ then s.checkElems a e m (e.lay.plain o.ty) true else .ok ()
    let reqs := (upto 64).map fun i =>
      let d := a + BitVec.ofNat 64 (i * o.ty.size)
      if active m i then
        some (laneReq x (.amo op (x.vec.lane o.s i)) (if local_ then .loc d.toNat else .virt d) o.ty false)
      else none
    if local_ then .ok () else s.checkRequests reqs
    .ok (.go ((s.setCore s.cur (if local_ then r.2.takePort m e.bank else r.2)).vDecoupled o.q reqs))
  vec s (match o.addr with
    | .plain b off => go b off false
    | .loc b off => go b off true)

/-- `vamo.swap` (R154). -/
def execVamoSwap (o : Vamo) (s : State) : Out := s.vAtomic o .swap
/-- `vamo.add` (R154). -/
def execVamoAdd (o : Vamo) (s : State) : Out := s.vAtomic o .add
/-- `vamo.min` (R154). -/
def execVamoMin (o : Vamo) (s : State) : Out := s.vAtomic o .min
/-- `vamo.max` (R154). -/
def execVamoMax (o : Vamo) (s : State) : Out := s.vAtomic o .max
/-- `vamo.and` (R154). -/
def execVamoAnd (o : Vamo) (s : State) : Out := s.vAtomic o .and
/-- `vamo.or` (R154). -/
def execVamoOr (o : Vamo) (s : State) : Out := s.vAtomic o .or
/-- `vamo.xor` (R154). -/
def execVamoXor (o : Vamo) (s : State) : Out := s.vAtomic o .xor

/-- A local vector reduction (R155). -/
def State.vReduce (s : State) (o : Vredm) (op : Nat) : Out :=
  vec s do
    let x := s.me
    let m := x.vec.mask o.k
    let loc ← x.vaddr o.addr
    x.checkLent [o.s]
    x.checkUe o.s m
    let e := s.velems loc.addr o.ty none
    s.checkElems loc.addr e m (e.lay.plain o.ty) true
    .ok (.go (s.setCore s.cur
      (((loc.core.pend { x.storeEntry .red o.s m o.ty loc.addr e.word op (e.runs s.cur m) with seq := s.nextId }).takePort m
        e.bank).vbase loc.base)))

/-- `vredm.add` (R155). -/
def execVredmAdd (o : Vredm) (s : State) : Out := s.vReduce o 1
/-- `vredm.min` (R155). -/
def execVredmMin (o : Vredm) (s : State) : Out := s.vReduce o 2
/-- `vredm.max` (R155). -/
def execVredmMax (o : Vredm) (s : State) : Out := s.vReduce o 3
/-- `vredm.and` (R155). -/
def execVredmAnd (o : Vredm) (s : State) : Out := s.vReduce o 4
/-- `vredm.or` (R155). -/
def execVredmOr (o : Vredm) (s : State) : Out := s.vReduce o 5
/-- `vredm.xor` (R155). -/
def execVredmXor (o : Vredm) (s : State) : Out := s.vReduce o 6

/-- The first fault of an entry by lane (R152). -/
def VlqEntry.fault (e : VlqEntry) : Option Trap :=
  e.lanes.findSome? fun d => match d with | some (.fault t) => some t | _ => none
/-- `vpop` (R95, R153): a `vpop` of an entry that is not there waits before BANK_LENT (DESIGN CHOICE, entry 98; R102), and the flags
and the NaN of every lane of the entry count, those that its own mask disables too (DESIGN CHOICE, entry 111; R99, R117). -/
def execVpop (d : Fin 32) (q : Fin 2) (k : Fin 8) (s : State) : Out :=
  vec s do
    let x := s.me
    let m := x.vec.mask k
    match x.vec.vlq[q] with
    | [] => waitOf (.queue (14 + q.val))
    | e :: r => do
      awaits e.present (.queue (14 + q.val))
      x.checkLent [d]
      match e.fault with
      | some t => .error (.trap t)
      | none =>
        let lane (i : Nat) : Option Datum := (e.lanes[i]?).join
        let bad := maskOf ((lanesIn m).filter fun i => match lane i with | some (.poison _) => true | _ => false)
        let zeroed := (lanesIn m).any fun i => match lane i with | some .zeroed => true | _ => false
        let value := lanesOf ((upto 64).map fun i => match lane i with | some (.value v) => v | _ => 0)
        let pva : Tab Word := (lanesIn m).filterMap fun i => match lane i with
          | some (.poison va) => some (i, va)
          | _ => none
        .ok (.go (s.onMe fun x =>
          let y := x.withVec fun v => { v with vlq := v.vlq.set q r }
          let z := if zeroed then y.countUez else y
          z.pend { z.blank .v d.val 2 .u64 with
            value := value, lanes := m, poison := bad, pva := pva, flags := e.flags, nan := e.nan
            nanLane := e.nanLane }))

/-- VLQ_ENTRY_ARRIVAL: the access at place `k` of the flight ends in its lane of an entry (R95). -/
def execVlqEntryArrival (k : Nat) (s : State) : Out :=
  .next (match s.flight[k]? with
    | some a => match a.back with
      | .vlq _ _ _ => s.perform k
      | _ => s
    | none => s)

/-! ## Landing -/

/-- Lanes written into a register, their poison replaced (R89, R90, R201). -/
def Vec.landLanes (v : Vec) (e : PEntry) : Vec :=
  let r : Fin 32 := Fin.ofNat 32 e.reg
  let hit := lanesIn e.lanes
  { v with
    v := v.v.set r (Vector.ofFn fun i => if active e.lanes i.val then e.value[i] else v.v[r][i])
    poison := v.poison.set r ((v.poison[r] &&& ~~~e.lanes) ||| (e.poison &&& e.lanes))
    pva := hit.foldl (fun t i => match e.pva.find i with
      | some va => t.put (r.val * 64 + i) va
      | none => t.del (r.val * 64 + i)) v.pva }
/-- Lane 0 of a result. -/
def PEntry.word (e : PEntry) : Word := e.value.toList.headD 0
/-- A register result landed: lanes, mask bits, an address register or F; writes to k0 are discarded (R87, R96). -/
def Core.landReg (x : Core) (e : PEntry) : Core :=
  match e.kind with
  | .v => x.withVec fun v => v.landLanes e
  | .k => x.withVec fun v =>
      let r : Fin 8 := Fin.ofNat 8 e.reg
      if r = 0 then v else { v with k := v.k.set r ((v.k[r] &&& ~~~e.lanes) ||| (e.word &&& e.lanes)) }
  | .a => x.withVec fun v => if e.reg < 12 then { v with a := v.a.set! e.reg e.word } else v
  | .f => x.withCtl fun c => { c with f := FReg.ofCode e.word.toNat }
  | .store | .elems | .red => x

/-- The element numbers of a store: those of its `elems` entry, or one lane after the other (R148, R371). -/
def PEntry.nums (e : PEntry) (l : Layout) (elems : Option PEntry) : List Nat :=
  match elems with
  | some n => n.value.toList.map (·.toNat)
  | none => elemNums l (e.offset.toNat % bankSize) none
/-- The items of a store that lie in its bank. -/
def PEntry.items (e : PEntry) (l : Layout) (nums : List Nat) : List Item :=
  ((lanesIn e.lanes).map fun i => { pos := i, n := nums.getD i 0, ty := e.ty, v := e.value.toList.getD i 0 }).filter
    fun x => (l.outside x.n).isNone
/-- The operation of a `vredm` code (R154). -/
def redOp (n : Nat) : AmoOp :=
  match n with
  | 2 => .min | 3 => .max | 4 => .and | 5 => .or | 6 => .xor | _ => .add
/-- A local reduction performed, element by element; a poisoned element is not written (R155, R254, R263). -/
def State.landRed (s : State) (c : Nat) (e : PEntry) : State :=
  let l := (BankFmt.of (e.bank.setWidth 64)).layout e.ty
  let kb := bankKey c e.home
  (e.items l (e.nums l none)).foldl (fun s i =>
    let k := kb + (l.payload i.n).1
    if s.poisoned k l.size then s
    else
      let r := (redOp e.op).apply e.ty (e.ty.extend (s.readNat k l.size)) i.v
      (s.writeNat k l.size (e.ty.low r.v)).memFlags c r.fl)
    (match (e.items l (e.nums l none)).head? with
      | some i => s.onLocalRead c (kb + (l.payload i.n).1)
      | none => s)
/-- A local store performed as one write: its encoding's flags and NaN come with it (R150). -/
def State.landStore (s : State) (c : Nat) (e : PEntry) (elems : Option PEntry) : State × Enc :=
  let l := (BankFmt.of (e.bank.setWidth 64)).layout e.ty
  let enc := s.encodeBank true (bankKey c e.home) l (e.items l (e.nums l elems))
  (s.writeEnc enc, enc)

/-- The NaN lane of an entry: the one recorded at its word; of an entry that came out of a frame changed, the lowest lane that holds a
NaN where its META has the type, and a free lane where no field has it (R118, R371, entry 8). -/
def State.nanLaneOf (s : State) (e : PEntry) : Nat :=
  match e.src with
  | some _ => e.nanLane
  | none => if e.kind.usesMeta then
      ((lanesIn e.lanes).find? fun i => (e.ty.value (e.value.toList.getD i 0)).isNan).getD 0
    else Config.freeChoice s.draws 64 % 64
/-- The address of an entry's word: free where the entry came out of a frame (entry 8). -/
def State.srcOf (s : State) (e : PEntry) : Word :=
  match e.src with
  | some pc => pc
  | none => (Config.freeAddress s.draws).setWidth 64
/-- One result lands: it is written or performed, its flags merge, a produced NaN leaves its trap (R89, R117, R118). -/
def State.landOne (s : State) (c : Nat) (e : PEntry) (elems : Option PEntry) : State :=
  let t : State := { s.performOwn c e.seq e.runs with draws := s.draws + (if e.src.isNone && e.nan then 1 else 0) }
  match e.kind with
  | .store =>
    let r := t.landStore c e elems
    r.1.modCore c fun x => x.mergeVec (e.flags ||| r.2.flags) (e.nan || r.2.nan.isSome)
      (match r.2.nan with | some i => i | none => s.nanLaneOf e) (s.srcOf e)
  | .elems => t
  | .red => t.landRed c e
  | _ => t.modCore c fun x => (x.landReg e).mergeVec e.flags e.nan (s.nanLaneOf e) (s.srcOf e)
/-- The due entries land in the order in which their words issued; an `elems` entry belongs to the store before it. -/
def State.landList (s : State) (c : Nat) : List PEntry → State
  | [] => s
  | e :: r =>
    let elems := match r with
      | n :: _ => if n.kind = .elems then some n else none
      | [] => none
    State.landList (s.landOne c e elems) c r
/-- Every vector result due at or before the present stream cycle lands (R89). -/
def State.landVec (s : State) (c : Nat) : State :=
  let v := (s.core c).vec
  let due := v.pend.filter fun e => decide (e.due ≤ v.now)
  (s.landList c due).modCore c fun x => x.withVec fun v => { v with pend := v.pend.filter fun e => !decide (e.due ≤ v.now) }
/-- VECTOR_RESULT_LANDING (R89). -/
def execVectorResultLanding (c : Nat) (s : State) : Out := .next (s.landVec c)
/-- FRAME_ENTRY_REINJECTION: an entry that a return put back in flight takes effect at its stream cycle, like any other
result (R372). -/
def execFrameEntryReinjection (c : Nat) (s : State) : Out := .next (s.landVec c)

end Sys2Proof.Machine
end

