-- ==== Sys2Proof/Machine/Dispatch.lean ====
section
/-! DEFINITION. The dispatch: one arm for every instruction and event, each a call of its meaning. -/
namespace Sys2Proof.Machine

/-- What an instruction does. -/
def exec (i : Instr) (s : State) : Host.Outcome State Fault Refusal :=
  match i with
  | .nop => Sys2Proof.Machine.execNop s
  | .add o => Sys2Proof.Machine.execAdd o s
  | .sub o => Sys2Proof.Machine.execSub o s
  | .and o => Sys2Proof.Machine.execAnd o s
  | .or o => Sys2Proof.Machine.execOr o s
  | .xor o => Sys2Proof.Machine.execXor o s
  | .andn o => Sys2Proof.Machine.execAndn o s
  | .shl o => Sys2Proof.Machine.execShl o s
  | .shr o => Sys2Proof.Machine.execShr o s
  | .sra o => Sys2Proof.Machine.execSra o s
  | .rot o => Sys2Proof.Machine.execRot o s
  | .min o => Sys2Proof.Machine.execMin o s
  | .max o => Sys2Proof.Machine.execMax o s
  | .minu o => Sys2Proof.Machine.execMinu o s
  | .maxu o => Sys2Proof.Machine.execMaxu o s
  | .slt o => Sys2Proof.Machine.execSlt o s
  | .sltu o => Sys2Proof.Machine.execSltu o s
  | .seq o => Sys2Proof.Machine.execSeq o s
  | .sel o c => Sys2Proof.Machine.execSel o c s
  | .addImmediate o => Sys2Proof.Machine.execAddImmediate o s
  | .andImmediate o => Sys2Proof.Machine.execAndImmediate o s
  | .orImmediate o => Sys2Proof.Machine.execOrImmediate o s
  | .xorImmediate o => Sys2Proof.Machine.execXorImmediate o s
  | .shlImmediate o => Sys2Proof.Machine.execShlImmediate o s
  | .shrImmediate o => Sys2Proof.Machine.execShrImmediate o s
  | .sraImmediate o => Sys2Proof.Machine.execSraImmediate o s
  | .sltImmediate o => Sys2Proof.Machine.execSltImmediate o s
  | .sltuImmediate o => Sys2Proof.Machine.execSltuImmediate o s
  | .mul o => Sys2Proof.Machine.execMul o s
  | .mulh o => Sys2Proof.Machine.execMulh o s
  | .mulhu o => Sys2Proof.Machine.execMulhu o s
  | .div o => Sys2Proof.Machine.execDiv o s
  | .divu o => Sys2Proof.Machine.execDivu o s
  | .rem o => Sys2Proof.Machine.execRem o s
  | .remu o => Sys2Proof.Machine.execRemu o s
  | .clz d a => Sys2Proof.Machine.execClz d a s
  | .ctz d a => Sys2Proof.Machine.execCtz d a s
  | .popc d a => Sys2Proof.Machine.execPopc d a s
  | .bswap d a => Sys2Proof.Machine.execBswap d a s
  | .sext d a n => Sys2Proof.Machine.execSext d a n s
  | .zext d a n => Sys2Proof.Machine.execZext d a n s
  | .bfx d a lo wm1 => Sys2Proof.Machine.execBfx d a lo wm1 s
  | .bfi d a lo wm1 => Sys2Proof.Machine.execBfi d a lo wm1 s
  | .li d imm => Sys2Proof.Machine.execLi d imm s
  | .lih d imm => Sys2Proof.Machine.execLih d imm s
  | .lea o sh disp => Sys2Proof.Machine.execLea o sh disp s
  | .gaddr o => Sys2Proof.Machine.execGaddr o s
  | .bEq o => Sys2Proof.Machine.execBEq o s
  | .bNe o => Sys2Proof.Machine.execBNe o s
  | .bLt o => Sys2Proof.Machine.execBLt o s
  | .bGe o => Sys2Proof.Machine.execBGe o s
  | .bLtu o => Sys2Proof.Machine.execBLtu o s
  | .bGeu o => Sys2Proof.Machine.execBGeu o s
  | .bAl disp => Sys2Proof.Machine.execBAl disp s
  | .bFany disp => Sys2Proof.Machine.execBFany disp s
  | .bFall disp => Sys2Proof.Machine.execBFall disp s
  | .bFnone disp => Sys2Proof.Machine.execBFnone disp s
  | .call disp => Sys2Proof.Machine.execCall disp s
  | .jr d a => Sys2Proof.Machine.execJr d a s
  | .vgo disp => Sys2Proof.Machine.execVgo disp s
  | .vjoin => Sys2Proof.Machine.execVjoin s
  | .halt => Sys2Proof.Machine.execHalt s
  | .trap imm => Sys2Proof.Machine.execTrap imm s
  | .sys imm => Sys2Proof.Machine.execSys imm s
  | .csrr d n => Sys2Proof.Machine.execCsrr d n s
  | .csrw n a => Sys2Proof.Machine.execCsrw n a s
  | .csrs d n a => Sys2Proof.Machine.execCsrs d n a s
  | .csrc d n a => Sys2Proof.Machine.execCsrc d n a s
  | .uret => Sys2Proof.Machine.execUret s
  | .kret => Sys2Proof.Machine.execKret s
  | .uie d => Sys2Proof.Machine.execUie d s
  | .uid d => Sys2Proof.Machine.execUid d s
  | .fget d => Sys2Proof.Machine.execFget d s
  | .tlbiPage a b => Sys2Proof.Machine.execTlbiPage a b s
  | .tlbiContext a => Sys2Proof.Machine.execTlbiContext a s
  | .tlbiAll => Sys2Proof.Machine.execTlbiAll s
  | .ld d addr sz ord => Sys2Proof.Machine.execLd d addr sz ord s
  | .st d addr sz ord => Sys2Proof.Machine.execSt d addr sz ord s
  | .ldq q addr sz ord => Sys2Proof.Machine.execLdq q addr sz ord s
  | .blockingLoadReturn c => Sys2Proof.Machine.execBlockingLoadReturn c s
  | .lqEntryArrival k => Sys2Proof.Machine.execLqEntryArrival k s
  | .scalarResultReady c => Sys2Proof.Machine.execScalarResultReady c s
  | .localStorePerformed c => Sys2Proof.Machine.execLocalStorePerformed c s
  | .aqEntryPoppable c => Sys2Proof.Machine.execAqEntryPoppable c s
  | .amoSwap o => Sys2Proof.Machine.execAmoSwap o s
  | .amoAdd o => Sys2Proof.Machine.execAmoAdd o s
  | .amoAnd o => Sys2Proof.Machine.execAmoAnd o s
  | .amoOr o => Sys2Proof.Machine.execAmoOr o s
  | .amoXor o => Sys2Proof.Machine.execAmoXor o s
  | .amoMin o => Sys2Proof.Machine.execAmoMin o s
  | .amoMax o => Sys2Proof.Machine.execAmoMax o s
  | .amoMinu o => Sys2Proof.Machine.execAmoMinu o s
  | .amoMaxu o => Sys2Proof.Machine.execAmoMaxu o s
  | .amoFadd o => Sys2Proof.Machine.execAmoFadd o s
  | .amoFmin o => Sys2Proof.Machine.execAmoFmin o s
  | .amoFmax o => Sys2Proof.Machine.execAmoFmax o s
  | .amoBfadd o => Sys2Proof.Machine.execAmoBfadd o s
  | .amoBfmin o => Sys2Proof.Machine.execAmoBfmin o s
  | .amoBfmax o => Sys2Proof.Machine.execAmoBfmax o s
  | .redAdd o => Sys2Proof.Machine.execRedAdd o s
  | .redAnd o => Sys2Proof.Machine.execRedAnd o s
  | .redOr o => Sys2Proof.Machine.execRedOr o s
  | .redXor o => Sys2Proof.Machine.execRedXor o s
  | .redMin o => Sys2Proof.Machine.execRedMin o s
  | .redMax o => Sys2Proof.Machine.execRedMax o s
  | .redMinu o => Sys2Proof.Machine.execRedMinu o s
  | .redMaxu o => Sys2Proof.Machine.execRedMaxu o s
  | .redFadd o => Sys2Proof.Machine.execRedFadd o s
  | .redFmin o => Sys2Proof.Machine.execRedFmin o s
  | .redFmax o => Sys2Proof.Machine.execRedFmax o s
  | .redBfadd o => Sys2Proof.Machine.execRedBfadd o s
  | .redBfmin o => Sys2Proof.Machine.execRedBfmin o s
  | .redBfmax o => Sys2Proof.Machine.execRedBfmax o s
  | .reductionApplied k => Sys2Proof.Machine.execReductionApplied k s
  | .cas o c => Sys2Proof.Machine.execCas o c s
  | .fenceAcq sc => Sys2Proof.Machine.execFenceAcq sc s
  | .fenceRel sc => Sys2Proof.Machine.execFenceRel sc s
  | .fenceFull sc => Sys2Proof.Machine.execFenceFull sc s
  | .wait q a => Sys2Proof.Machine.execWait q a s
  | .tnew hf hs a b => Sys2Proof.Machine.execTnew hf hs a b s
  | .hdup hd ha => Sys2Proof.Machine.execHdup hd ha s
  | .hdrop h => Sys2Proof.Machine.execHdrop h s
  | .fillDropAtHome k => Sys2Proof.Machine.execFillDropAtHome k s
  | .seeDropAtHome k => Sys2Proof.Machine.execSeeDropAtHome k s
  | .hsend h b m notify => Sys2Proof.Machine.execHsend h b m notify s
  | .handleMailboxArrival k => Sys2Proof.Machine.execHandleMailboxArrival k s
  | .hrecv h m => Sys2Proof.Machine.execHrecv h m s
  | .hinfo d h => Sys2Proof.Machine.execHinfo d h s
  | .parkedLoadRetry k => Sys2Proof.Machine.execParkedLoadRetry k s
  | .tring a b sm1 c r => Sys2Proof.Machine.execTring a b sm1 c r s
  | .tclaim h a r sd => Sys2Proof.Machine.execTclaim h a r sd s
  | .tclaimGrant c r => Sys2Proof.Machine.execTclaimGrant c r s
  | .tnext h a r j sd => Sys2Proof.Machine.execTnext h a r j sd s
  | .tclose a r => Sys2Proof.Machine.execTclose a r s
  | .gdef a b => Sys2Proof.Machine.execGdef a b s
  | .gdel a => Sys2Proof.Machine.execGdel a s
  | .gsee h a b r j sd => Sys2Proof.Machine.execGsee h a b r j sd s
  | .groupLeafRead k m => Sys2Proof.Machine.execGroupLeafRead k m s
  | .groupLoadReturn k => Sys2Proof.Machine.execGroupLoadReturn k s
  | .spawn a b => Sys2Proof.Machine.execSpawn a b s
  | .join d a => Sys2Proof.Machine.execJoin d a s
  | .enq a b q => Sys2Proof.Machine.execEnq a b q s
  | .btAlloc d a => Sys2Proof.Machine.execBtAlloc d a s
  | .btFree d a => Sys2Proof.Machine.execBtFree d a s
  | .btShare d a b => Sys2Proof.Machine.execBtShare d a b s
  | .btXl d a => Sys2Proof.Machine.execBtXl d a s
  | .cCopy e => Sys2Proof.Machine.execCCopy e s
  | .cGath e => Sys2Proof.Machine.execCGath e s
  | .cGathZ e => Sys2Proof.Machine.execCGathZ e s
  | .cScat e => Sys2Proof.Machine.execCScat e s
  | .cFill e b63 => Sys2Proof.Machine.execCFill e b63 s
  | .cPut e => Sys2Proof.Machine.execCPut e s
  | .cGet e => Sys2Proof.Machine.execCGet e s
  | .cRedAdd e sz => Sys2Proof.Machine.execCRedAdd e sz s
  | .cRedAnd e sz => Sys2Proof.Machine.execCRedAnd e sz s
  | .cRedOr e sz => Sys2Proof.Machine.execCRedOr e sz s
  | .cRedXor e sz => Sys2Proof.Machine.execCRedXor e sz s
  | .cRedMin e sz => Sys2Proof.Machine.execCRedMin e sz s
  | .cRedMax e sz => Sys2Proof.Machine.execCRedMax e sz s
  | .cRedMinu e sz => Sys2Proof.Machine.execCRedMinu e sz s
  | .cRedMaxu e sz => Sys2Proof.Machine.execCRedMaxu e sz s
  | .cRedFadd e sz => Sys2Proof.Machine.execCRedFadd e sz s
  | .cRedFmin e sz => Sys2Proof.Machine.execCRedFmin e sz s
  | .cRedFmax e sz => Sys2Proof.Machine.execCRedFmax e sz s
  | .cRedBfadd e sz => Sys2Proof.Machine.execCRedBfadd e sz s
  | .cRedBfmin e sz => Sys2Proof.Machine.execCRedBfmin e sz s
  | .cRedBfmax e sz => Sys2Proof.Machine.execCRedBfmax e sz s
  | .cPin e => Sys2Proof.Machine.execCPin e s
  | .cPinOff e => Sys2Proof.Machine.execCPinOff e s
  | .mLds e plane fmt => Sys2Proof.Machine.execMLds e plane fmt s
  | .mMm e plane => Sys2Proof.Machine.execMMm e plane s
  | .mMmr e plane ring j t => Sys2Proof.Machine.execMMmr e plane ring j t s
  | .mRelax e plane bm1 nm1 => Sys2Proof.Machine.execMRelax e plane bm1 nm1 s
  | .mRelaxb e plane => Sys2Proof.Machine.execMRelaxb e plane s
  | .mPwl e table => Sys2Proof.Machine.execMPwl e table s
  | .mChain e plane lm1 => Sys2Proof.Machine.execMChain e plane lm1 s
  | .qWait e m p => Sys2Proof.Machine.execQWait e m p s
  | .qFence e mask => Sys2Proof.Machine.execQFence e mask s
  | .qSig e => Sys2Proof.Machine.execQSig e s
  | .qResume q remote => Sys2Proof.Machine.execQResume q remote s
  | .engineEntryStart c q => Sys2Proof.Machine.execEngineEntryStart c q s
  | .chainElementRead c q => Sys2Proof.Machine.execChainElementRead c q s
  | .chainNextWordChange c q => Sys2Proof.Machine.execChainNextWordChange c q s
  | .carterChunk c q => Sys2Proof.Machine.execCarterChunk c q s
  | .millRowGroup c q => Sys2Proof.Machine.execMillRowGroup c q s
  | .millPlaneLoad c q => Sys2Proof.Machine.execMillPlaneLoad c q s
  | .millRelaxIteration c q => Sys2Proof.Machine.execMillRelaxIteration c q s
  | .mmrSlotProcess c q => Sys2Proof.Machine.execMmrSlotProcess c q s
  | .chainMemberReserve c q => Sys2Proof.Machine.execChainMemberReserve c q s
  | .qWaitComplete c q => Sys2Proof.Machine.execQWaitComplete c q s
  | .qFenceComplete c q => Sys2Proof.Machine.execQFenceComplete c q s
  | .commandComplete c q => Sys2Proof.Machine.execCommandComplete c q s
  | .swapFramePinSettle c q => Sys2Proof.Machine.execSwapFramePinSettle c q s
  | .vadd o => Sys2Proof.Machine.execVadd o s
  | .vsub o => Sys2Proof.Machine.execVsub o s
  | .vmul o => Sys2Proof.Machine.execVmul o s
  | .vmin o => Sys2Proof.Machine.execVmin o s
  | .vmax o => Sys2Proof.Machine.execVmax o s
  | .vabs o => Sys2Proof.Machine.execVabs o s
  | .vneg o => Sys2Proof.Machine.execVneg o s
  | .vdiv o => Sys2Proof.Machine.execVdiv o s
  | .vsqrt o => Sys2Proof.Machine.execVsqrt o s
  | .vcsgn o => Sys2Proof.Machine.execVcsgn o s
  | .vfma o => Sys2Proof.Machine.execVfma o s
  | .vfms o => Sys2Proof.Machine.execVfms o s
  | .vfnma o => Sys2Proof.Machine.execVfnma o s
  | .vfnms o => Sys2Proof.Machine.execVfnms o s
  | .vand o => Sys2Proof.Machine.execVand o s
  | .vor o => Sys2Proof.Machine.execVor o s
  | .vxor o => Sys2Proof.Machine.execVxor o s
  | .vandn o => Sys2Proof.Machine.execVandn o s
  | .vshl o => Sys2Proof.Machine.execVshl o s
  | .vshr o => Sys2Proof.Machine.execVshr o s
  | .vsra o => Sys2Proof.Machine.execVsra o s
  | .vrol o => Sys2Proof.Machine.execVrol o s
  | .vshlImmediate o => Sys2Proof.Machine.execVshlImmediate o s
  | .vshrImmediate o => Sys2Proof.Machine.execVshrImmediate o s
  | .vsraImmediate o => Sys2Proof.Machine.execVsraImmediate o s
  | .vrolImmediate o => Sys2Proof.Machine.execVrolImmediate o s
  | .vcmpEq o => Sys2Proof.Machine.execVcmpEq o s
  | .vcmpNe o => Sys2Proof.Machine.execVcmpNe o s
  | .vcmpLt o => Sys2Proof.Machine.execVcmpLt o s
  | .vcmpLe o => Sys2Proof.Machine.execVcmpLe o s
  | .vcmpGt o => Sys2Proof.Machine.execVcmpGt o s
  | .vcmpGe o => Sys2Proof.Machine.execVcmpGe o s
  | .vcmpUn o => Sys2Proof.Machine.execVcmpUn o s
  | .vcmpOrd o => Sys2Proof.Machine.execVcmpOrd o s
  | .vclass o => Sys2Proof.Machine.execVclass o s
  | .vcvt o from_ sat => Sys2Proof.Machine.execVcvt o from_ sat s
  | .vsel d a b c k => Sys2Proof.Machine.execVsel d a b c k s
  | .vclamp o => Sys2Proof.Machine.execVclamp o s
  | .vpwl o => Sys2Proof.Machine.execVpwl o s
  | .vperm d a b k => Sys2Proof.Machine.execVperm d a b k s
  | .vrot d a n k => Sys2Proof.Machine.execVrot d a n k s
  | .vbcast d a n k => Sys2Proof.Machine.execVbcast d a n k s
  | .vbcastScalar d a k => Sys2Proof.Machine.execVbcastScalar d a k s
  | .viota ty d k => Sys2Proof.Machine.execViota ty d k s
  | .vmov d a k => Sys2Proof.Machine.execVmov d a k s
  | .vfoldAdd o => Sys2Proof.Machine.execVfoldAdd o s
  | .vfoldMin o => Sys2Proof.Machine.execVfoldMin o s
  | .vfoldMax o => Sys2Proof.Machine.execVfoldMax o s
  | .vfoldAnd o => Sys2Proof.Machine.execVfoldAnd o s
  | .vfoldOr o => Sys2Proof.Machine.execVfoldOr o s
  | .vfoldXor o => Sys2Proof.Machine.execVfoldXor o s
  | .vscanAdd o => Sys2Proof.Machine.execVscanAdd o s
  | .vscanMin o => Sys2Proof.Machine.execVscanMin o s
  | .vscanMax o => Sys2Proof.Machine.execVscanMax o s
  | .vscanAnd o => Sys2Proof.Machine.execVscanAnd o s
  | .vscanOr o => Sys2Proof.Machine.execVscanOr o s
  | .vscanXor o => Sys2Proof.Machine.execVscanXor o s
  | .vpart d c n => Sys2Proof.Machine.execVpart d c n s
  | .kand d a b => Sys2Proof.Machine.execKand d a b s
  | .kor d a b => Sys2Proof.Machine.execKor d a b s
  | .kxor d a b => Sys2Proof.Machine.execKxor d a b s
  | .knot d a => Sys2Proof.Machine.execKnot d a s
  | .kmov d a => Sys2Proof.Machine.execKmov d a s
  | .kset d n => Sys2Proof.Machine.execKset d n s
  | .ksetRegister d a => Sys2Proof.Machine.execKsetRegister d a s
  | .vflag a k => Sys2Proof.Machine.execVflag a k s
  | .vld ty d addr k => Sys2Proof.Machine.execVld ty d addr k s
  | .vst ty d addr k => Sys2Proof.Machine.execVst ty d addr k s
  | .vldx ty d addr x k => Sys2Proof.Machine.execVldx ty d addr x k s
  | .vstx ty d addr x k => Sys2Proof.Machine.execVstx ty d addr x k s
  | .vldq ty q addr k => Sys2Proof.Machine.execVldq ty q addr k s
  | .vlqEntryArrival k => Sys2Proof.Machine.execVlqEntryArrival k s
  | .vpop d q k => Sys2Proof.Machine.execVpop d q k s
  | .vamoSwap o => Sys2Proof.Machine.execVamoSwap o s
  | .vamoAdd o => Sys2Proof.Machine.execVamoAdd o s
  | .vamoMin o => Sys2Proof.Machine.execVamoMin o s
  | .vamoMax o => Sys2Proof.Machine.execVamoMax o s
  | .vamoAnd o => Sys2Proof.Machine.execVamoAnd o s
  | .vamoOr o => Sys2Proof.Machine.execVamoOr o s
  | .vamoXor o => Sys2Proof.Machine.execVamoXor o s
  | .vredmAdd o => Sys2Proof.Machine.execVredmAdd o s
  | .vredmMin o => Sys2Proof.Machine.execVredmMin o s
  | .vredmMax o => Sys2Proof.Machine.execVredmMax o s
  | .vredmAnd o => Sys2Proof.Machine.execVredmAnd o s
  | .vredmOr o => Sys2Proof.Machine.execVredmOr o s
  | .vredmXor o => Sys2Proof.Machine.execVredmXor o s
  | .aadd d a imm => Sys2Proof.Machine.execAadd d a imm s
  | .asub d a imm => Sys2Proof.Machine.execAsub d a imm s
  | .ashl d a n => Sys2Proof.Machine.execAshl d a n s
  | .amov d a => Sys2Proof.Machine.execAmov d a s
  | .aaddRegister d a b => Sys2Proof.Machine.execAaddRegister d a b s
  | .asubRegister d a b => Sys2Proof.Machine.execAsubRegister d a b s
  | .ali d imm => Sys2Proof.Machine.execAli d imm s
  | .apop d q => Sys2Proof.Machine.execApop d q s
  | .loop l a imm => Sys2Proof.Machine.execLoop l a imm s
  | .loopOff l => Sys2Proof.Machine.execLoopOff l s
  | .vbr disp => Sys2Proof.Machine.execVbr disp s
  | .vbrZ a disp => Sys2Proof.Machine.execVbrZ a disp s
  | .vbrNz a disp => Sys2Proof.Machine.execVbrNz a disp s
  | .vbrNeg a disp => Sys2Proof.Machine.execVbrNeg a disp s
  | .vbrNneg a disp => Sys2Proof.Machine.execVbrNneg a disp s
  | .vbrKany a disp => Sys2Proof.Machine.execVbrKany a disp s
  | .vbrKnone a disp => Sys2Proof.Machine.execVbrKnone a disp s
  | .vend => Sys2Proof.Machine.execVend s
  | .vlend b => Sys2Proof.Machine.execVlend b s
  | .vreclaim b => Sys2Proof.Machine.execVreclaim b s
  | .vnop => Sys2Proof.Machine.execVnop s
  | .vectorResultLanding c => Sys2Proof.Machine.execVectorResultLanding c s
  | .queueStall c => Sys2Proof.Machine.execQueueStall c s
  | .correctableErrorFreeze c => Sys2Proof.Machine.execCorrectableErrorFreeze c s
  | .freezeEnd c => Sys2Proof.Machine.execFreezeEnd c s
  | .uncorrectableError p pa => Sys2Proof.Machine.execUncorrectableError p pa s
  | .kernelTrap c => Sys2Proof.Machine.execKernelTrap c s
  | .userLevelInterrupt c => Sys2Proof.Machine.execUserLevelInterrupt c s
  | .frameEntryReinjection c => Sys2Proof.Machine.execFrameEntryReinjection c s
  | .debugHalt c => Sys2Proof.Machine.execDebugHalt c s
  | .preemptWatchdog c => Sys2Proof.Machine.execPreemptWatchdog c s
  | .contextSave c => Sys2Proof.Machine.execContextSave c s
  | .contextRestore c => Sys2Proof.Machine.execContextRestore c s
  | .launchSubmit p f => Sys2Proof.Machine.execLaunchSubmit p f s
  | .gangStart p f => Sys2Proof.Machine.execGangStart p f s
  | .resumedSliceStart p f => Sys2Proof.Machine.execResumedSliceStart p f s
  | .idleCorePop c => Sys2Proof.Machine.execIdleCorePop c s
  | .launchComplete p f => Sys2Proof.Machine.execLaunchComplete p f s
  | .sliceEnd p f => Sys2Proof.Machine.execSliceEnd p f s
  | .fpreemptWrite p f v => Sys2Proof.Machine.execFpreemptWrite p f v s
  | .preqWrite p f v => Sys2Proof.Machine.execPreqWrite p f v s
  | .partitionEntryValid p f => Sys2Proof.Machine.execPartitionEntryValid p f s
  | .partitionEntryInvalidate p f => Sys2Proof.Machine.execPartitionEntryInvalidate p f s
  | .swapEpoch p die => Sys2Proof.Machine.execSwapEpoch p die s
  | .frameSwap p die => Sys2Proof.Machine.execFrameSwap p die s
  | .ringFlitHop k => Sys2Proof.Machine.execRingFlitHop k s
  | .fenceTokenForward k => Sys2Proof.Machine.execFenceTokenForward k s
  | .linkFlitReplay p l good => Sys2Proof.Machine.execLinkFlitReplay p l good s
  | .linkDown p l => Sys2Proof.Machine.execLinkDown p l s
  | .inboundChunk k => Sys2Proof.Machine.execInboundChunk k s
  | .chunkResendTimeout k => Sys2Proof.Machine.execChunkResendTimeout k s
  | .fsub p f v => Sys2Proof.Machine.execFsub p f v s
  | .msixIntervalEnd p f v => Sys2Proof.Machine.execMsixIntervalEnd p f v s
  | .functionLevelReset p f => Sys2Proof.Machine.execFunctionLevelReset p f s
  | .hostBar2Access p f off w n => Sys2Proof.Machine.execHostBar2Access p f off w n s
  | .spdmRequest p req => Sys2Proof.Machine.execSpdmRequest p req s
  | .lockInterfaceRequest p f => Sys2Proof.Machine.execLockInterfaceRequest p f s
  | .startInterfaceRequest p f => Sys2Proof.Machine.execStartInterfaceRequest p f s
  | .getDeviceInterfaceReport p f => Sys2Proof.Machine.execGetDeviceInterfaceReport p f s
  | .stopInterfaceRequest p f => Sys2Proof.Machine.execStopInterfaceRequest p f s
  | .ideStreamFailure p f => Sys2Proof.Machine.execIdeStreamFailure p f s
  | .dctlHalt c => Sys2Proof.Machine.execDctlHalt c s
  | .dctlResume c => Sys2Proof.Machine.execDctlResume c s
  | .ddataWrite c v => Sys2Proof.Machine.execDdataWrite c v s
  | .dqctlClearfault c => Sys2Proof.Machine.execDqctlClearfault c s
  | .powerEpoch p => Sys2Proof.Machine.execPowerEpoch p s
  | .trimWindow p h => Sys2Proof.Machine.execTrimWindow p h s
  | .trimUe p h => Sys2Proof.Machine.execTrimUe p h s
  | .hamletGate p h => Sys2Proof.Machine.execHamletGate p h s
  | .hamletWake p h => Sys2Proof.Machine.execHamletWake p h s
  | .thermalSample p die r => Sys2Proof.Machine.execThermalSample p die r s
  | .thermalTrip4 p => Sys2Proof.Machine.execThermalTrip4 p s
  | .coldStart p => Sys2Proof.Machine.execColdStart p s
  | .powerDown p => Sys2Proof.Machine.execPowerDown p s
  | .registerWrite p f off v => Sys2Proof.Machine.execRegisterWrite p f off v s
  | .storePerformedAtHome k => Sys2Proof.Machine.execStorePerformedAtHome k s
  | .zeroLengthReadCompletion k => Sys2Proof.Machine.execZeroLengthReadCompletion k s
  | .routeTableUpdate p node live => Sys2Proof.Machine.execRouteTableUpdate p node live s
  | .nodeidWrite p v => Sys2Proof.Machine.execNodeidWrite p v s
  | .powerCapWrite p t v => Sys2Proof.Machine.execPowerCapWrite p t v s
  | .vfBarWrite p f bar v => Sys2Proof.Machine.execVfBarWrite p f bar v s

end Sys2Proof.Machine
end

