-- ==== Sys2Proof/Machine/Fetch.lean ====
section
/-! DEFINITION. A core's cycle but for what its words do: fetch (R44, R185), the start of a cycle with what lands and what is ready
(R46, R89, R94, R363), and its end with every count (R47, R48, R50, R55, R88, R176, R178). -/
namespace Sys2Proof.Machine

/-! ## Fetch -/

/-- A word fetched: what memory holds, or a word that a store of this launch has replaced (R44). A poisoned word cannot be used. -/
def State.fetchWord (s : State) (c : Nat) (pc : Word) : State × Except Trap Word :=
  match s.translate c pc 8 .fetch (s.core c).ctl.kernel with
  | (s1, .absent node) => (s1, .error (nodeTrap node))
  | (s1, .trap cause) => (s1, .error { cause := cause, info := pc })
  | (s1, .ok k _) =>
    if s1.poisoned k 8 then (s1, .error { cause := .ue, info := pc - BitVec.ofNat 64 (k % granuleSize k) })
    else
      let s1 := s1.countFrame k 8
      let now := s1.readWord k
      let old := (s1.oldWords.filter fun o => o.1 == k && decide ((s1.core c).start ≤ o.2.2)).map (·.2.1)
      if old.isEmpty then (s1, .ok now)
      else ({ s1 with draws := s1.draws + 1 },
        .ok ((now :: old).getD (Config.freeChoice s1.draws (old.length + 1) % (old.length + 1)) now))
/-- The words after a head word. -/
def State.fetchWords (s : State) (c : Nat) (pc : Word) : Nat → State × Except Trap (List Word)
  | 0 => (s, .ok [])
  | n + 1 => match s.fetchWord c pc with
    | (s1, .error t) => (s1, .error t)
    | (s1, .ok w) => match s1.fetchWords c (pc + 8) n with
      | (s2, .error t) => (s2, .error t)
      | (s2, .ok l) => (s2, .ok (w :: l))

/-- IDLE of a word (R22). -/
def idleOf (w : Word) : Nat := (bits w 54 10).toNat
/-- SYNC of a word (R22). -/
def syncOf (w : Word) : Bool := w.getLsbD 53
/-- Does the vector stream issue words (R87, R369)? -/
def Vec.goes (v : Vec) : Bool := v.run == .running || v.run == .kernelRun
/-- A stream's next word fetched once its IDLE count is to begin: the control stream's, with the trap of a fetch that fails. -/
def State.latchCtl (s : State) (c : Nat) : State × Option Trap :=
  let x := (s.core c).ctl
  if !x.running || x.blk.isSome || !x.words.isEmpty then (s, none)
  else match s.fetchWord c x.pc with
    | (s1, .ok w) =>
      (s1.modCore c fun y => y.withCtl fun t => { t with words := [w], idle := some (t.idle.getD (idleOf w)) }, none)
    | (s1, .error t) => (s1, if x.idle.getD 0 = 0 then some t else none)
/-- The vector stream's next word. -/
def State.latchVec (s : State) (c : Nat) : State × Option Trap :=
  let x := (s.core c).vec
  if !x.goes || !x.words.isEmpty then (s, none)
  else match s.fetchWord c x.pc with
    | (s1, .ok w) =>
      (s1.modCore c fun y => y.withVec fun t => { t with words := [w], idle := some (t.idle.getD (idleOf w)) }, none)
    | (s1, .error t) => (s1, if x.idle.getD 0 = 0 then some t else none)
/-- Both streams' next words. -/
def State.latch (s : State) (c : Nat) : State := ((s.latchVec c).1.latchCtl c).1
/-- The control stream offers a word in this cycle (R22). -/
def Ctl.offers (x : Ctl) : Bool := x.running && x.blk.isNone && !x.words.isEmpty && x.idle == some 0
/-- The vector stream offers a word in this cycle (R22). -/
def Vec.offers (v : Vec) : Bool := v.goes && !v.words.isEmpty && v.idle == some 0

/-! ## The start of a cycle -/

/-- Counts of a core whose streams do not run: its clock, its address queues, the pacing of its engines. ELAPSED does not count while
a core is halted by debug (DESIGN CHOICE, entry 115; R176). -/
def Core.idleCycle (x : Core) (c : Nat) : Core :=
  { x with
    landed := 0, fresh := 0, landedMem := 0, corrected := false
    csr := { x.csr with cycle := x.csr.cycle + 1, euse := x.csr.euse + Config.freeEnergy c x.csr.cycle.toNat }
    vec := { x.vec with aq := Vector.ofFn fun q => x.vec.aq[q].map fun e => { e with left := e.left - 1 } }
    queues := Vector.ofFn fun q => { x.queues[q] with since := x.queues[q].since.map (· + 1) } }
/-- The marks of the last cycle taken away. A wait that a return left has done its work (R372). -/
def Core.newCycle (x : Core) : Core :=
  { x with
    corrected := false
    ctl := { x.ctl with offer := .idle }
    vec := { x.vec with offer := .idle, ports := [], wait := if x.vec.words.isEmpty then none else x.vec.wait } }
/-- What is due at the start of a cycle: vector results, scalar results, entries of the address queues (R46, R89, R94). The control
stream's stores of the cycle come after its vector word (R151). -/
def State.due (s : State) (c : Nat) : State := ((s.landVec c).scalarReady c).aqPoppable c
/-- Is a queue's next start held by the imposed interval (R409)? -/
def State.heldByPower (s : State) (c q : Nat) : Bool :=
  let e := (s.core c).equeue q
  !e.entries.isEmpty && e.run.isNone && (match e.since with
    | some n => decide (n < s.imposed c ∧ ((s.core c).csr.pace.toList.getD q 0).toNat ≤ n)
    | none => false)
/-- A cycle in which the imposed interval holds a queue of a core raises its tier's demand (R409). -/
def State.noteHeld (s : State) (c : Nat) : State :=
  match s.tierOf c with
  | some i => if (upto 6).any (s.heldByPower c) then s.modPkg (pkgOf c) fun x => { x with held := x.held.set i true } else s
  | none => s
/-- A core's cycle begins: a freeze passes one of its cycles, a core that stands still only counts, a halted one that resumes acts
as `kret` (R47, R407); otherwise what is due lands, the next words are fetched, and the first pending event is taken (R363). -/
def State.landPhase (s : State) (c : Nat) : State :=
  let x := s.core c
  match x.mode with
  | .gated => s
  | .resuming =>
    if x.freeze ≠ 0 then s.modCore c fun y => y.frozenCycle c else
    let t := s.modCore c fun y => { y with mode := if y.events.debug then .haltPending else .normal }
    match t.returnKernel c with
    | .ok u => u.modCore c fun y => { y with phase := .tick }
    | .error e => (t.take c (.sync e false)).modCore c fun y => { y with phase := .tick }
  | .saving _ | .saved | .halted | .stopped =>
    if x.freeze ≠ 0 then s.modCore c fun y => y.frozenCycle c
    else (if x.engineRuns then s.noteHeld c else s).modCore c fun y => y.idleCycle c
  | .normal | .haltPending =>
    if x.freeze ≠ 0 then s.modCore c fun y => y.frozenCycle c
    else
      let t := (((s.modCore c Core.newCycle).due c).latch c).modCore c fun y => { y with phase := .offer }
      match (t.core c).pending with
      | some e => t.deliverEvent c e
      | none => t

/-! ## The end of a cycle -/

/-- One cycle of the results and stores of the control stream: those that wait for a port do not advance (R46, R50). -/
def Ctl.advance (x : Ctl) (won : List Nat) : Ctl :=
  { x with
    busy := x.busy.map fun b => if b.waits.isSome then b else { b with left := b.left - 1 }
    stores := x.stores.map fun st =>
      if st.bank.isSome && !won.contains st.seq then st else { st with left := st.left - 1, bank := none } }
/-- The cycles of a stream on each queue operation on which it is blocked in this cycle: one more than before, and 1 for an operation on
which it was not blocked in the cycle before (R48, R103). -/
def stallCounts (o : Offer) (w : Option Wait) (n : Tab Nat) : Tab Nat :=
  match o with
  | .held => (waitOps w).foldl (fun t code => t.put code ((n.find code).getD 0 + 1)) []
  | _ => []
/-- The counts of the control stream (R22, R45, R46, R48). -/
def Ctl.tick (x : Ctl) (won : List Nat) : Ctl :=
  { x.advance won with
    idle := if x.offer == .issued then x.idle else x.idle.map (· - 1)
    div := x.div - 1, blk := x.blk.map fun b => { b with left := b.left - 1 }
    acquire := match x.acquire with | some (n + 2) => some (n + 1) | _ => none
    qcnt := stallCounts x.offer x.wait x.qcnt }
/-- The counts of the vector stream: stream time passes unless the stream is stalled, or held with nothing in flight (R88,
R369). -/
def Vec.tick (v : Vec) : Vec :=
  let go := v.wait.isNone && (v.run != .held || !v.pend.isEmpty)
  { v with
    now := if go then v.now + 1 else v.now
    idle := if go then v.idle.map (· - 1) else v.idle
    aq := Vector.ofFn fun q => v.aq[q].map fun e => { e with left := if 1 < e.left then e.left - 1 else e.left }
    qcnt := stallCounts v.offer v.wait v.qcnt }
/-- ELAPSED counts on while a task runs under a request; it saturates (R176). -/
def Core.countElapsed (x : Core) : Core :=
  if x.req && x.task then
    let n := elapsedOf x.csr.preempt
    if n + 1 < 2 ^ 32 then x.withCsr fun r => { r with preempt := r.preempt + 256 } else x
  else x
/-- The watchdog becomes pending once ELAPSED reaches its limit (R178). -/
def Core.watch (x : Core) : Core :=
  if x.task && x.req && !x.elapsed && decide (Config.watchdogLimit ≤ elapsedOf x.csr.preempt) then
    { x with elapsed := true, events := { x.events with watchdog := true } }
  else x
/-- Every count of a core at the end of a cycle. -/
def Core.tick (x : Core) (c : Nat) (won : List Nat) : Core :=
  let y : Core := { x with
    phase := .land, landed := 0, fresh := 0, landedMem := 0
    ctl := x.ctl.tick won
    vec := x.vec.tick
    csr := { x.csr with cycle := x.csr.cycle + 1, euse := x.csr.euse + Config.freeEnergy c x.csr.cycle.toNat }
    queues := Vector.ofFn fun q => { x.queues[q] with since := x.queues[q].since.map (· + 1) } }
  y.countElapsed.watch
/-- A core's cycle ends: its local accesses have their ports, then everything counts on. -/
def State.tickPhase (s0 : State) (c : Nat) : State :=
  let s := s0.noteHeld c
  let won := (grantPorts (s.core c).vec.ports (s.core c).ctl.portWaits).map (·.1)
  (s.grantLoads c won).modCore c fun x => x.tick c won

end Sys2Proof.Machine
end

