-- ==== Sys2Proof/Machine/Cycle.lean ====
section
/-! DEFINITION. The words of a cycle: each stream's unit decoded and executed, the trap that is taken when both have one (R363),
the rendezvous (R22, R39, R93). -/
namespace Sys2Proof.Machine

/-- The cause of a word that does not decode (R38). -/
def rejectCause : Reject → Cause
  | .illegal => .illegal
  | .wrongStream => .wrongStream
/-- The words that a head word asks for. A follow-on command that fails its checks has no parameter block: nothing is fetched for it
(R34, R36). -/
def State.fetchTail (s : State) (c : Nat) (pc : Word) (n : Nat) : State × Except Trap (List Word) :=
  match s.fetchWords c pc (minN n 5) with
  | (s1, .ok l) =>
    if n ≤ 5 ∨ (decFollow (l.getD 4 0) { p0 := 0, p1 := 0, p2 := 0, p3 := 0 }).isNone then (s1, .ok l)
    else match s1.fetchWords c (pc + 40) (n - 5) with
      | (s2, .ok m) => (s2, .ok (l ++ m))
      | (s2, .error t) => (s2, .error t)
  | (s1, .error t) => (s1, .error t)
/-- The unit that a stream offers, its head word fetched: the words after it are fetched now, and it is decoded (R23, R38). -/
noncomputable def State.unitAt (s : State) (c : Nat) (st : Stream) (w pc : Word) : State × Except Trap Slot :=
  let n := match decodeHead st w with | .ok (.more n _) => n | _ => 0
  match s.fetchTail c (pc + 8) n with
  | (s1, .error t) => (s1, .error t)
  | (s1, .ok l) => match decodeUnit st w l with
    | .ok u => (s1, .ok u)
    | .error r => (s1, .error { cause := rejectCause r, info := w })
/-- The control stream's part of a cycle: a NANTRAP before its next word (R56), a failed fetch, a queue stall, or its word. -/
noncomputable def State.offerCtl (s : State) (c : Nat) : Out :=
  let trap (s : State) (t : Trap) : Out := .next (s.take c (.sync t false))
  match (s.core c).ctl.nan, (s.core c).ctl.past with
  | some i, false => trap s { cause := .nanTrap, info := i }
  | _, _ => match s.latchCtl c with
    | (s1, some t) => trap s1 t
    | (s1, none) =>
      let x := (s1.core c).ctl
      if !x.offers then .next s1
      else match if x.past then none else stallTrap x.wait x.qcnt with
        | some t => trap s1 t
        | none => match s1.unitAt c .control x.offered x.pc with
          | (s2, .error t) => trap s2 t
          | (s2, .ok u) => exec u.instr s2
/-- The vector stream's part of a cycle. What it has to take waits, the stream stalled, while the control stream completes a word
past its commit point (R88, R260). -/
noncomputable def State.offerVec (s : State) (c : Nat) : Out :=
  let trap (s : State) (t : Trap) : Out := .next (s.vecTrap c t)
  match (s.core c).vec.nan, (s.core c).vec.trap with
  | some i, _ => trap s { cause := .nanTrap, info := i }
  | none, some t => trap s t
  | none, none => match s.latchVec c with
    | (s1, some t) => trap s1 t
    | (s1, none) =>
      let x := (s1.core c).vec
      if !x.offers then .next s1
      else match stallTrap x.wait x.qcnt with
        | some t => trap s1 t
        | none => match s1.unitAt c .vector x.offered x.pc with
          | (s2, .error t) => trap s2 t
          | (s2, .ok u) => exec u.instr s2

/-- Has a core taken a trap in this cycle? -/
def State.trapped (s : State) (c : Nat) : Bool := (s.core c).ctl.offer == .trapped || (s.core c).mode == .stopped
/-- The control stream waits at its SYNC word. -/
def State.waitCtl (s : State) (c : Nat) : State := s.modCore c fun x => x.heldCtl .rendezvous
/-- The vector stream waits at its SYNC word. -/
def State.waitVec (s : State) (c : Nat) : State :=
  s.modCore c fun x => x.withVec fun v => { v with wait := some .rendezvous, offer := .held }
/-- A rendezvous has issued: it covers the vector accesses before it (R251). -/
def Out.covered (o : Out) : Out :=
  match o with
  | .next s => .next s.cover
  | o => o
/-- How the two streams' outcomes `a` and `b0`, each taken alone, combine: `cs` and `vs` say which offers a word that takes part in
a rendezvous. The control stream's local stores of the cycle come after the vector word (R39, R93, R151, R363). A SYNC word that its
own queue operation holds is blocked on that (R48). -/
noncomputable def State.combine (s : State) (c : Nat) (cs vs : Bool) (a b0 : State) : Out :=
  if a.trapped c then .next a
  else if b0.trapped c then .next b0
  else
    let b := b0.storesDue c
    let hc := (a.core c).ctl.offer == .held
    let hv := (b.core c).vec.offer == .held
    match cs, vs with
    | false, false => b.offerCtl c
    | true, false => .next (if hc then b.modCore c fun x => x.heldCtl ((a.core c).ctl.wait.getD .rendezvous) else b.waitCtl c)
    | false, true => (if hv then b else (s.waitVec c).storesDue c).offerCtl c
    | true, true => match hc, hv with
      | false, false => Out.covered (b.offerCtl c)
      | false, true => .next (b.waitCtl c)
      | true, false => .next (a.waitVec c)
      | true, true => b.offerCtl c
/-- The words of a cycle. -/
noncomputable def State.offerWords (s0 : State) (c : Nat) : Out :=
  let s := s0.latch c
  let x := s.core c
  let cs := x.ctl.offers && syncOf x.ctl.offered && x.vec.goes
  let vs := x.vec.offers && syncOf x.vec.offered
  match (s.storesDue c).offerCtl c, s.offerVec c with
  | .next a, .next b => s.combine c cs vs a b
  | .next _, o => o
  | o, _ => o
/-- What a core takes and the words of its cycle: an event that has become pending since the cycle began comes first, then a pending
NANTRAP of a frame in the first cycle after the return (R363, R372). -/
noncomputable def State.offerBoth (s : State) (c : Nat) : Out :=
  match (s.core c).pending with
  | some e => .next (s.deliverEvent c e)
  | none => match (s.core c).vec.nanNow, (s.core c).vec.nan with
    | true, some i => .next (s.vecTrap c { cause := .nanTrap, info := i })
    | _, _ => s.offerWords c
/-- The offering part of a core's cycle, after which its counts advance. -/
noncomputable def State.offerPhase (s : State) (c : Nat) : Out :=
  match s.offerBoth c with
  | .next t => .next (t.modCore c fun x => { x with phase := .tick })
  | o => o
/-- A core goes on with its cycle. -/
noncomputable def State.corePhase (s0 : State) (c : Nat) : Out :=
  let s : State := { s0 with cur := c }
  match (s.core c).phase with
  | .land => .next (s.landPhase c)
  | .offer => s.offerPhase c
  | .tick => .next (s.tickPhase c)
/-- Is an instruction an event of the machine? Those are the ones without an encoding. -/
def isEvent (i : Instr) : Bool := i.majBody.isNone
/-- Is an event one that a core's own cycle meets between its landings and its end? -/
def inCycle (i : Instr) : Bool :=
  match i with
  | .kernelTrap _ | .userLevelInterrupt _ | .debugHalt _ | .preemptWatchdog _ | .queueStall _ | .contextSave _
  | .localStorePerformed _ => true
  | _ => false
/-- Does no core stand inside a cycle? -/
def State.betweenCycles (s : State) : Bool := s.cores.all fun x => x.2.phase == .land
/-- A move: a core goes on with its cycle, or an event takes place. A word of a program runs only where a stream offers it. Every other
event comes between the cycles of the cores, so that in no cycle an access at an engine port comes before one at a stream port
(R151). -/
noncomputable def State.move (s : State) (m : Move) : Out :=
  match m with
  | .core c => s.corePhase c
  | .event i => if isEvent i && (inCycle i || s.betweenCycles) then exec i s else .next s

end Sys2Proof.Machine
end

