-- ==== Sys2Proof/Machine/Step.lean ====
section
/-! DEFINITION. The step of the machine: the next move of the agenda, or a free one (entry 4); and where a step finds its next
instruction. -/
namespace Sys2Proof.Machine

/-- One step. -/
noncomputable def step (s : State) : Host.Outcome State Fault Refusal :=
  match s.agenda with
  | m :: r => State.move { s with agenda := r } m
  | [] => State.move { s with draws := s.draws + 1 } (Config.freeMove s.draws)

/-- The bytes of an instruction's words, each little-endian, the first lowest (R2). -/
def fetchBytes (nbits w : Nat) : List Byte := (tableWords 10 nbits w).flatMap fun x => leBytes 8 x.toNat
/-- A leaf that maps the first page of a node's stacked DRAM for every access at U. -/
def fetchLeaf (member : Nat) : Word := BitVec.ofNat 64 (member * nodeSize + 0x31F)
/-- The state with an instruction placed where the running core's next step fetches it: its bytes in the first page of the
package's stacked DRAM, which the page of the PC maps; its stream runs with its IDLE count elapsed; the agenda names the core. -/
def State.withFetchWord (s : State) (nbits w : Nat) : State :=
  let c := s.cur
  let st := streamOf ((tableWords 1 nbits w).headD 0)
  let pc := match st with | .control => (s.core c).ctl.pc | .vector => (s.core c).vec.pc
  let t := s.write (key (pkgOf c) (pc.toNat % 65536)) (fetchBytes nbits w)
  let e : TlbEntry :=
    { va := pc.toNat / 65536 * 65536, bits := 16, ctx := 0, glob := true, pte := fetchLeaf (s.pkg (pkgOf c)).member }
  let u := t.modCore c fun x =>
    { x with
      mode := .normal, freeze := 0, phase := .offer, tlb := e :: x.tlb, start := t.nextId + 1
      ctl := match st with
        | .control => { x.ctl with running := true, words := [], idle := some 0 }
        | .vector => { x.ctl with running := false }
      vec := match st with
        | .vector => { x.vec with run := .running, words := [], idle := some 0 }
        | .control => x.vec }
  { u with agenda := .core c :: s.agenda }

end Sys2Proof.Machine
end

