-- ==== Sys2Proof/Safety.lean ====
section
/-! DEFINITION. What counts as a safe run of this machine: it goes on step by step, and every state it reaches has the form that the
operations on memory, tables and power settings keep. -/
namespace Sys2Proof.Safety
open Sys2Proof.Machine

/-- The canonical form of memory: keys strictly rising (entry 2). -/
def memoryWf (s : State) : Prop := Memory.wf s.mem = true
/-- The power settings of a package: a cap of at most 1650 W, and floors whose sum it covers (R408). -/
def powerWf (x : Pkg) : Prop := x.pcap.toNat ≤ 1650 ∧ sum x.floors ≤ x.pcap.toNat
/-- Every package's power settings keep to R408. -/
def powersWf (s : State) : Prop := ∀ p, powerWf (s.pkg p)
/-- A step that goes on. -/
def goesOn (s : State) : Prop := ∃ t, step s = .next t
/-- A safe state: memory in canonical form, power settings within R408, and a next state. -/
def safe (s : State) : Prop := memoryWf s ∧ powersWf s ∧ goesOn s
/-- A safe run of `n` steps: each state of it is safe. -/
def safeRun (s : State) : Nat → Prop
  | 0 => memoryWf s ∧ powersWf s
  | n + 1 => safe s ∧ ∀ t, step s = .next t → safeRun t n

/-! ## How a word ends, for the statements about one instruction -/

/-- The control word of the running core has issued, and its PC is `pc` (R43). -/
def ctlTo (pc : Word) (t : State) : State :=
  t.modCore t.cur fun x => { x with
    ctl := { x.ctl with pc := pc, words := [], idle := none, wait := none, qcnt := [], offer := .issued, reply := none
                        committed := false, asked := false, drained := [] } }
/-- The control word of the running core has issued, and the word after it follows (R43). -/
def ctlNext (t : State) : State := ctlTo (t.me.ctl.pc + 8) t
/-- The control word of the running core waits in this cycle (R45). -/
def ctlHeld (w : Wait) (t : State) : State :=
  t.modCore t.cur fun x => { x with ctl := { x.ctl with wait := some w, offer := .held } }
/-- The running core takes a trap of its control stream (R56, R364, R368). -/
def ctlTrap (c : Cause) (info : Word) (t : State) : State := t.take t.cur (.sync { cause := c, info := info } false)
/-- The vector word of the running core has issued, and its PC is `pc`, its loop levels `l` (R88, R97). -/
def vecTo (pc : Word) (l : Vector Level 4) (t : State) : State :=
  t.modCore t.cur fun x => { x with
    vec := { x.vec with pc := pc, loops := l, words := [], idle := none, wait := none, qcnt := [], offer := .issued
                        trap := none } }
/-- The vector word of the running core has issued, and the word that the loop levels name follows (R97). -/
def vecNext (t : State) : State := vecTo (loopStep t.me.vec.pc t.me.vec.loops).2 (loopStep t.me.vec.pc t.me.vec.loops).1 t
/-- The vector word of the running core waits in this cycle (R88). -/
def vecHeld (w : Wait) (t : State) : State :=
  t.modCore t.cur fun x => { x with vec := { x.vec with wait := some w, offer := .held, trap := none } }
/-- The running core takes a trap of its vector stream (R364, R368). -/
def vecTrap (c : Cause) (info : Word) (t : State) : State := t.take t.cur (.sync { cause := c, info := info } true)
/-- An access as it goes in flight: under the next number, at the era and the stream cycle of its core (R242, R251). -/
def sentAs (s : State) (a : Access) : Access :=
  { a with id := s.nextId, era := (s.core a.core).vec.era }
/-- A group load as it goes in flight. -/
def sentGroup (s : State) (g : GLoad) : GLoad := { g with id := s.nextId, era := (s.core g.core).vec.era }
/-- The running core's state replaced. -/
def withMe (s : State) (x : Core) : State := s.setCore s.cur x

/-! ## Floating-point numbers as R105 to R116 state them, for the statements about lanes -/

/-- Exponent bits, fraction bits and bias of a format (R105). -/
def layout : FF → Nat × Nat × Int
  | .f64 => (11, 52, 1023) | .f32 => (8, 23, 127) | .bf16 => (8, 7, 127) | .f16 => (5, 10, 15) | .e4m3 => (4, 3, 7)
  | .e5m2 => (5, 2, 15)
/-- The bits of a format below its sign. -/
def signAt (f : FF) : Nat := 2 ^ ((layout f).1 + (layout f).2.1)
/-- The encoding of the largest finite magnitude (R105). -/
def largestWord : FF → Nat
  | .f64 => 0x7FEF_FFFF_FFFF_FFFF | .f32 => 0x7F7F_FFFF | .bf16 => 0x7F7F | .f16 => 0x7BFF | .e4m3 => 0x7E | .e5m2 => 0x7B
/-- The encoding of infinity; E4M3 has none (R105). -/
def infWord : FF → Option Nat
  | .f64 => some 0x7FF0_0000_0000_0000 | .f32 => some 0x7F80_0000 | .bf16 => some 0x7F80 | .f16 => some 0x7C00
  | .e4m3 => none | .e5m2 => some 0x7C
/-- The canonical NaN (R105). -/
def nanWord : FF → Nat
  | .f64 => 0x7FF8_0000_0000_0000 | .f32 => 0x7FC0_0000 | .bf16 => 0x7FC0 | .f16 => 0x7E00 | .e4m3 => 0x7F | .e5m2 => 0x7E

/-- The sign of an encoding. -/
def fpNeg (f : FF) (b : Nat) : Bool := decide (signAt f ≤ b)
/-- An encoding without its sign. -/
def fpMag (f : FF) (b : Nat) : Nat := b % signAt f
/-- An encoding of a sign and a magnitude. -/
def fpWord (f : FF) (neg : Bool) (mag : Nat) : Nat := mag + if neg then signAt f else 0
/-- The encoding of a finite number. -/
def fpFin (f : FF) (b : Nat) : Prop := fpMag f b ≤ largestWord f
/-- The encoding of an infinity. -/
def fpInf (f : FF) (b : Nat) : Prop := infWord f = some (fpMag f b)
/-- The encoding of a NaN. -/
def fpNan (f : FF) (b : Nat) : Prop := largestWord f < fpMag f b ∧ infWord f ≠ some (fpMag f b)
/-- The value of a finite magnitude: 0.F × 2^(1−bias) for an exponent field of 0, else 1.F × 2^(E−bias) (R105). -/
noncomputable def fpAbs (f : FF) (mag : Nat) : ℝ :=
  let (_, mb, bias) := layout f
  let ex := mag / 2 ^ mb
  let frac := mag % 2 ^ mb
  if ex = 0 then (frac : ℝ) * 2 ^ (1 - bias - (mb : ℤ)) else ((2 ^ mb + frac : Nat) : ℝ) * 2 ^ ((ex : ℤ) - bias - (mb : ℤ))
/-- The value of a finite encoding. -/
noncomputable def fpReal (f : FF) (b : Nat) : ℝ := if fpNeg f b then -fpAbs f (fpMag f b) else fpAbs f (fpMag f b)
/-- The order of encodings that are not NaN by value, −0 just below +0 (R133). -/
def fpKey (f : FF) (b : Nat) : Int := if fpNeg f b then -(fpMag f b : Int) - 1 else fpMag f b
/-- The order of encodings that are not NaN by value, zeros equal (R136). -/
def fpOrder (f : FF) (b : Nat) : Int := if fpNeg f b then -(fpMag f b : Int) else fpMag f b

/-- Does a magnitude go to the candidate away from zero (R112, R113)? `k` is the candidate nearer zero in units of the spacing,
`frac` how far above it the magnitude is, `n` the element's index. -/
def goesUp (mode : RM) (n : Nat) (neg : Bool) (k : Nat) (frac : ℝ) : Prop :=
  match mode with
  | .rne => 1 / 2 < frac ∨ (frac = 1 / 2 ∧ k % 2 = 1)
  | .rtz => False
  | .rup => neg = false ∧ 0 < frac
  | .rdn => neg = true ∧ 0 < frac
  | .dither => (ditherD n : ℝ) < frac * 256
/-- A magnitude rounded to `j` times the spacing 2^q (R112). -/
def onGrid (mode : RM) (n : Nat) (neg : Bool) (x : ℝ) (q : ℤ) (j : Nat) : Prop :=
  ∃ k : Nat, (k : ℝ) * 2 ^ q ≤ x ∧ x < ((k : ℝ) + 1) * 2 ^ q ∧
    ((goesUp mode n neg k (x / 2 ^ q - k) ∧ j = k + 1) ∨ (¬ goesUp mode n neg k (x / 2 ^ q - k) ∧ j = k))
/-- Tiny after rounding: at an unbounded exponent the magnitude rounds to less than the smallest normal number (R116). -/
def tiny (f : FF) (mode : RM) (n : Nat) (neg : Bool) (x : ℝ) : Prop :=
  ∃ (q : ℤ) (j : Nat), 2 ^ (q + (layout f).2.1) ≤ x ∧ x < 2 ^ (q + (layout f).2.1 + 1) ∧ onGrid mode n neg x q j ∧
    (j : ℝ) * 2 ^ q < 2 ^ (1 - (layout f).2.2)
/-- round_mode of R114 for a sign and a magnitude, with the flags of R116: the neighbour that the mode chooses on the spacing of the
magnitude's binade, the subnormal one at least, and beyond the largest finite number the overflow result with OF and NX. -/
def roundsTo (f : FF) (mode : RM) (sat : Bool) (n : Nat) (neg : Bool) (x : ℝ) (bits : Nat) (fl : Fl) : Prop :=
  let (_, mb, bias) := layout f
  ∃ (q : ℤ) (j : Nat), 1 - bias - (mb : ℤ) ≤ q ∧ x < 2 ^ (q + mb + 1) ∧ (q = 1 - bias - (mb : ℤ) ∨ 2 ^ (q + mb) ≤ x) ∧
    onGrid mode n neg x q j ∧
    ((j : ℝ) * 2 ^ q ≤ fpAbs f (largestWord f) → ∃ mag, bits = fpWord f neg mag ∧ mag ≤ largestWord f ∧
      fpAbs f mag = (j : ℝ) * 2 ^ q ∧ (fl.getLsbD 0 = true ↔ x ≠ (j : ℝ) * 2 ^ q) ∧
      (fl.getLsbD 1 = true ↔ x ≠ (j : ℝ) * 2 ^ q ∧ tiny f mode n neg x) ∧ fl &&& 0b11100 = 0) ∧
    (fpAbs f (largestWord f) < (j : ℝ) * 2 ^ q → fl = 0b00101 ∧
      let toMax := sat = true ∨ mode = .rtz ∨ (mode = .rup ∧ neg = true) ∨ (mode = .rdn ∧ neg = false)
      (toMax → bits = fpWord f neg (largestWord f)) ∧
      (¬ toMax → (∀ w, infWord f = some w → bits = fpWord f neg w) ∧ (infWord f = none → bits = nanWord f)))
/-- round_mode of a real number; `z` is the sign of an exact zero (R114, R119). -/
def roundsReal (f : FF) (mode : RM) (sat : Bool) (n : Nat) (z : Bool) (x : ℝ) (bits : Nat) (fl : Fl) : Prop :=
  ∃ neg : Bool, (x < 0 → neg = true) ∧ (0 < x → neg = false) ∧ (x = 0 → neg = z) ∧ roundsTo f mode sat n neg |x| bits fl
/-- A lane that holds the canonical NaN. -/
def nanLaneIs (f : FF) (fl : Fl) (made : Bool) (r : Lane) : Prop := r.v.toNat = nanWord f ∧ r.fl = fl ∧ r.nan = made
/-- A lane that holds an infinity. -/
def infLaneIs (f : FF) (neg : Bool) (fl : Fl) (r : Lane) : Prop :=
  (∀ w, infWord f = some w → r.v.toNat = fpWord f neg w) ∧ r.fl = fl ∧ r.nan = false
/-- A lane that holds an exact result rounded once, `z` the sign of an exact zero (R119). -/
def realLaneIs (f : FF) (mode : RM) (z : Bool) (x : ℝ) (r : Lane) : Prop :=
  roundsReal f mode false 0 z x r.v.toNat r.fl ∧ r.nan = false

/-! ## Translation as R185 to R192 state it -/

/-- The number of the entry that a walk reads in a table of a level (R188). -/
def walkIndex (level va : Nat) : Nat :=
  match level with
  | 1 => va / 2 ^ 46 % 2048 | 2 => va / 2 ^ 36 % 1024 | 3 => va / 2 ^ 26 % 1024 | _ => va / 2 ^ 16 % 1024
/-- The bits of a page that a leaf of a level maps (R188). -/
def pageBits (level : Nat) : Nat := match level with | 2 => 36 | 3 => 26 | _ => 16
/-- PA[55:16] of an entry, as an address (R189). -/
def entryPa (e : Word) : Nat := e.toNat / 65536 % 2 ^ 40 * 65536
/-- V is set and the fields that must be zero are (R190). -/
def entryValid (e : Word) : Prop := e.getLsbD 0 = true ∧ e.toNat / 2 ^ 12 % 16 = 0 ∧ e.toNat / 2 ^ 56 = 0
/-- An entry that names the next table: V alone beside the address, above level 4 (R190). -/
def entryPoints (level : Nat) (e : Word) : Prop := entryValid e ∧ level < 4 ∧ e.toNat % 2 ^ 12 = 1
/-- The TIER that R190 requires of a leaf whose page lies at an offset of its node. -/
def tierFits (tier o : Nat) : Prop :=
  (tier = 0 ∧ 0x400_0000_0000 ≤ o ∧ o < 0x800_0000_0000) ∨ (tier = 1 ∧ o < 0x20_4000_0000) ∨
  (tier = 2 ∧ 0x100_0000_0000 ≤ o ∧ o < 0x280_0000_0000) ∨ (tier = 3 ∧ 0x800_0000_0000 ≤ o)
/-- An entry that maps a page (R190). -/
def entryMaps (level : Nat) (e : Word) : Prop :=
  entryValid e ∧ e.getLsbD 8 = true ∧ 2 ≤ level ∧ (e.getLsbD 2 = true → e.getLsbD 1 = true) ∧
  entryPa e % 2 ^ pageBits level = 0 ∧ tierFits (e.toNat / 2 ^ 9 % 4) (entryPa e % 2 ^ 44)
/-- The memory key of the entry that a walk reads in the table at an address of package `q`. -/
def entryKey (q table level va : Nat) : Nat := q * 2 ^ 44 + (table % 2 ^ 44 + 8 * walkIndex level va)
/-- A walk from PTBASE comes to the table at an address, as that of a level: each entry before is reached, whole, and names the next
table (R188). -/
def walkComesTo (s : State) (p : Nat) (ptbase : Word) (va : Nat) : Nat → Nat → Prop
  | 0, _ => False
  | 1, table => table = entryPa ptbase
  | l + 1, table => ∃ before q, walkComesTo s p ptbase va l before ∧ s.nodePkg p (before / 2 ^ 44) = some q ∧
      (let k := entryKey q before l va
       s.reserved q (k % 2 ^ 44) 8 = none ∧ s.poisoned k 8 = false ∧ entryPoints l (s.readWord k) ∧ table = entryPa (s.readWord k))
/-- What a leaf gives an access of `n` bytes: an unbacked or unpopulated place is PAGE_FAULT; R, W or X, then U, a frame of a pool or
a live kernel frame PERM; ORD = 11 ORD_FAULT; an unreachable node absence; else the key of the byte (R186, R190, R196, R369). -/
def leafGives (s : State) (p va n bits : Nat) (e : Word) (need : Need) (kernel guard : Bool) (o : Xlate) : Prop :=
  let pa := entryPa e + va % 2 ^ bits
  let at_ := pa % 2 ^ 44
  let denied := (need.r = true ∧ e.getLsbD 1 = false) ∨ (need.w = true ∧ e.getLsbD 2 = false) ∨
    (need.x = true ∧ e.getLsbD 3 = false) ∨ (kernel = false ∧ e.getLsbD 4 = false)
  let ord := e.toNat / 2 ^ 5 % 4 = 3 ∧ need.x = false
  match s.nodePkg p (pa / 2 ^ 44) with
  | none => (denied → o = .trap .perm) ∧ (¬ denied → ord → o = .trap .ordFault) ∧ (¬ denied → ¬ ord → o = .absent (pa / 2 ^ 44))
  | some q =>
    let off := (at_ - 0x20_0000_0000) % 2 ^ 21
    let frame := (guard = true ∨ need.w = true) ∧ 0x20_0000_0000 ≤ at_ ∧ at_ < 0x20_4000_0000 ∧
      ∃ b ∈ (s.core (q * 512 + (at_ - 0x20_0000_0000) / 2 ^ 21)).live, b < off + n ∧ off < b + 20480
    (s.reserved q at_ n = some .pageFault → o = .trap .pageFault) ∧ (s.reserved q at_ n = some .perm → o = .trap .perm) ∧
    (s.reserved q at_ n = none → (frame ∨ denied → o = .trap .perm) ∧ (¬ frame → ¬ denied → ord → o = .trap .ordFault) ∧
      (¬ frame → ¬ denied → ¬ ord → o = .ok (q * 2 ^ 44 + at_) e))
/-- A cache of translations takes an entry; at its capacity one that was there leaves it (R192). -/
def cacheTakes (cap : Nat) (e : TlbEntry) (l l' : List TlbEntry) : Prop :=
  ∃ r, l' = e :: r ∧ (l.length < cap → r = l) ∧ (cap ≤ l.length → r.Sublist l ∧ r.length + 1 = l.length)

/-! ## Pushes and completions, for the statements about the engines -/

/-- An instruction pushes unit `u0`, of `words` words, as an entry of operation `op` into its queue (R35, R293, R333): a full
queue holds it, and otherwise the entry stands last in the queue with the next number of it, the fill handle that it references
leaves its register and a see handle stays with one see reference more. -/
def pushes (i : Instr) (u0 : EUnit) (words : Nat) (op : Core → Params → CmdOp) : Prop :=
  ∀ (s : State) (u : EUnit) (fill see : Option TileRef),
    s.me.ctl.resolveUnit u0 = .ok u → u.check (s.me.csr.mitl.setWidth 16) = .ok () → s.checkRefs u = .ok (fill, see) →
    s.me.checkForward u = .ok () → s.me.lost = none → s.me.accessReady = true →
    let depth := if u0.q.val < 4 then 16 else 8
    let before := s.me.queues[u0.q].entries
    (depth ≤ before.length → exec i s = .next (ctlHeld (.queue u0.q.val) s)) ∧
    (before.length < depth → ∃ t k, exec i s = .next t ∧ t.me.ctl.pc = s.me.ctl.pc + BitVec.ofNat 64 (8 * words) ∧
      t.mem = s.mem ∧ t.me.queues[u0.q].entries = before ++ [.cmd k] ∧
      t.me.csr.pseq[u0.q] = s.me.csr.pseq[u0.q] + 1 ∧ k.num = s.me.csr.pseq[u0.q] + 1 ∧ k.op = op s.me u.p ∧ k.p = u.p ∧
      k.i = u0.i ∧ k.w = u0.w ∧ k.follow = u.follow ∧ k.issuer = s.cur ∧ k.cap = s.me.capture s.me.ctl.kernel ∧
      k.hfill = fill ∧ k.hsee = see ∧ (fill ≠ none → t.me.ctl.h[u.h] = .null) ∧
      (∀ r, see = some r → (t.tileOf r).see = (s.tileOf r).see + 1))

/-- Command `x` at the head of queue `q` of core `c`, without a follow-on or handles, has completed between two states (R307):
SEQ has gone forward to its number, it has left the queue, W has written the completion word and nothing else, I has raised ENGINE_DONE. -/
def completed (s t : State) (c : Nat) (q : Fin 6) (x : Cmd) (status : Bool) (flags : BitVec 5) : Prop :=
  let word : Word := BitVec.ofNat 64 (x.num.toNat + q.val * 2 ^ 32 + if status then 2 ^ 40 else 0)
  let slot := spadKey x.issuer (0x1F_FFC0 + 8 * q.val)
  (t.core c).csr.seq[q] = seqAfter (s.core c).csr.seq[q] x.num ∧ (t.core c).queues[q].entries = (s.core c).queues[q].entries.tail ∧
  (t.core c).queues[q].run = none ∧
  (x.w = true → t.readWord slot = word ∧ ∀ a, ¬ (slot ≤ a ∧ a < slot + 8) → t.readByte a = s.readByte a) ∧
  (x.w = false → t.mem = s.mem) ∧
  (x.i = true → bitOf (t.core x.issuer).csr.uie 32 = true ∧ (t.core x.issuer).events.vals[(0 : Fin 4)] = word) ∧
  (t.core x.issuer).csr.fsr &&& 0x1F = ((s.core x.issuer).csr.fsr ||| flags.setWidth 64) &&& 0x1F

/-! ## Vector words, for their statements -/

/-- A lane-by-lane word has issued (R89, R99): its results of the lanes that mask `k` enables are in flight to `d`, and they land
after `lat` stream cycles. -/
def lanesTo (s : State) (d : Fin 32) (k : Fin 8) (ty : Ty) (lat : Nat) (f : Nat → Lane) : State :=
  vecNext (withMe s (s.me.putV d lat ty (s.me.vec.mask k) f))
/-- The registers that a lane-by-lane word names may be named, and no active lane of its sources is poisoned (R102, R130). -/
def readable (s : State) (d : Fin 32) (srcs : List (Fin 32)) (k : Fin 8) : Prop :=
  s.me.checkLent (d :: srcs) = .ok () ∧ s.me.checkUes (s.me.vec.mask k) srcs = .ok ()

/-- The entries that a local vector word puts in flight after `l`: the new base register's last, where its form has one (R147). -/
def inFlight (s t : State) (base : Option (Fin 12 × Word)) (l : List PEntry) : Prop :=
  match base with
  | none => t.me.vec.pend = s.me.vec.pend ++ l
  | some (r, v) => ∃ b, t.me.vec.pend = s.me.vec.pend ++ l ++ [b] ∧ b.kind = .a ∧ b.reg = r.val ∧ b.word = v ∧
      b.due = s.me.vec.now + 1
/-- A local vector load whose checks pass has issued (R148, R149), with no atomic of its own stream under way to its bytes (R242): memory is as before, and the active lanes are in flight, each
with its element decoded from the bank, or with its poison. -/
def loads (i : Instr) (ty : Ty) (d : Fin 32) {n : Nat} (a : VAddr n) (idx : Option (Fin 32)) (k : Fin 8) (lat : Nat) : Prop :=
  ∀ (s : State) (loc : VLoc), s.me.vaddr a = .ok loc → s.me.checkLent (d :: idx.toList) = .ok () →
    (idx ≠ none → ∀ n, s.me.vec.idxAt = some n → n + 4 ≤ s.me.vec.now) →
    s.me.checkUes (s.me.vec.mask k) idx.toList = .ok () → s.me.csr.errinj.toNat % 2 = 0 →
    let e := s.velems loc.addr ty (idx.map fun r => s.me.vec.lane r)
    s.checkElems loc.addr e (s.me.vec.mask k) true false = .ok () →
    s.ownAtomics s.cur s.nextId (e.runs s.cur (s.me.vec.mask k)) = [] →
    ∃ t p, exec i s = .next t ∧ t.me.vec.pc = (loopStep s.me.vec.pc s.me.vec.loops).2 ∧ t.mem = s.mem ∧
      inFlight s t loc.base [p] ∧ p.kind = .v ∧ p.reg = d.val ∧ p.due = s.me.vec.now + lat ∧ p.lanes = s.me.vec.mask k ∧
      ∀ i, i < 64 → active (s.me.vec.mask k) i = true →
        let num := e.lay.first (loc.addr.toNat % 131072) + match idx with | some r => (s.me.vec.lane r i).toNat | none => i
        p.poison.getLsbD i = s.elemPoisoned (bankKey s.cur e.bank) e.lay num ∧
        (p.poison.getLsbD i = false → p.value.toList[i]? = some (s.elemAs (bankKey s.cur e.bank) e.lay num ty).v)
/-- A local vector store or reduction whose checks pass has issued (R148, R150, R155): memory is as before, and its data are in
flight, to be performed three stream cycles later; the entry of an indexed store names the offset of lane 0's element (R371). -/
def stores (i : Instr) (kind : PKind) (op : Nat) (ty : Ty) (d : Fin 32) {n : Nat} (a : VAddr n) (idx : Option (Fin 32)) (k : Fin 8)
    (bankOk : Layout → Bool) : Prop :=
  ∀ (s : State) (loc : VLoc), s.me.vaddr a = .ok loc → s.me.checkLent (d :: idx.toList) = .ok () →
    (idx ≠ none → ∀ n, s.me.vec.idxAt = some n → n + 4 ≤ s.me.vec.now) →
    s.me.checkUes (s.me.vec.mask k) (d :: idx.toList) = .ok () →
    let e := s.velems loc.addr ty (idx.map fun r => s.me.vec.lane r)
    s.checkElems loc.addr e (s.me.vec.mask k) (bankOk e.lay) true = .ok () →
    ∃ t p l, exec i s = .next t ∧ t.me.vec.pc = (loopStep s.me.vec.pc s.me.vec.loops).2 ∧ t.mem = s.mem ∧
      inFlight s t loc.base (p :: l) ∧ p.kind = kind ∧ p.op = op ∧ p.due = s.me.vec.now + 3 ∧
      p.lanes = s.me.vec.mask k ∧ p.value = s.me.vec.v[d] ∧ p.ty = ty ∧
      p.bank = (s.bankWord s.cur e.bank).setWidth 24 ∧
      (idx = none → l = [] ∧ p.offset = loc.addr) ∧
      ∀ r, idx = some r → p.offset = loc.addr + BitVec.ofNat 64 (e.lay.size * (s.me.vec.lane r 0).toNat) ∧
        ∃ n, l = [n] ∧ n.kind = .elems ∧ n.due = s.me.vec.now + 3 ∧
        ∀ i, i < 64 → n.value.toList[i]? =
          some (BitVec.ofNat 64 (e.lay.first (loc.addr.toNat % 131072) + (s.me.vec.lane r i).toNat))

end Sys2Proof.Safety
end

