-- ==== Sys2Proof/Certificates/Slice0/Obligations.lean ====
section
/-! DEFINITION. The statements for the provers: what the instructions and events of the spec do, what they leave unchanged, that
decoding reads what encoding writes, and the invariants that every step keeps. -/
open Sys2Proof Sys2Proof.Machine Sys2Proof.Safety

/-- R63, R64. Each alu word, once its destination can take a result and its sources answer `a` and `b`, issues with its
row's result of latency 1. `sel` takes a where c is not zero and b where it is; c waits and is read as the other sources are.
Each immediate form computes the alu operation of its name on a and the sign-extended immediate, with latency 1; a shift takes
the immediate's low six bits. -/
def Obligations.AluWords : Prop :=
  (∀ (s : State) (o : Rrr) (a b : Word) (y : Core),
     s.me.awaitDst o.d = .ok () → s.me.src2 o.a o.b = .ok (a, b, y) →
     let done (v : Word) : Out := .next (ctlNext (withMe s (y.putDst o.d v 1)))
     let n := b.toNat % 64
     exec (.add o) s = done (a + b) ∧ exec (.sub o) s = done (a - b) ∧ exec (.and o) s = done (a &&& b) ∧
     exec (.or o) s = done (a ||| b) ∧ exec (.xor o) s = done (a ^^^ b) ∧ exec (.andn o) s = done (a &&& ~~~b) ∧
     exec (.shl o) s = done (a <<< n) ∧ exec (.shr o) s = done (a >>> n) ∧ exec (.sra o) s = done (a.sshiftRight n) ∧
     exec (.rot o) s = done ((a >>> n) ||| (a <<< (64 - n))) ∧
     exec (.min o) s = done (if a.toInt < b.toInt then a else b) ∧
     exec (.max o) s = done (if a.toInt < b.toInt then b else a) ∧
     exec (.minu o) s = done (if a.toNat < b.toNat then a else b) ∧
     exec (.maxu o) s = done (if a.toNat < b.toNat then b else a) ∧
     exec (.slt o) s = done (if a.toInt < b.toInt then 1 else 0) ∧
     exec (.sltu o) s = done (if a.toNat < b.toNat then 1 else 0) ∧ exec (.seq o) s = done (if a = b then 1 else 0)) ∧
  (∀ (s : State) (o : Rrr) (r : Fin 32) (a b c : Word) (y : Core),
     s.me.awaitDst o.d = .ok () → s.me.srcs [o.a, o.b, .reg r] = .ok ([a, b, c], y) →
     exec (.sel o r) s = .next (ctlNext (withMe s (y.putDst o.d (if c = 0 then b else a) 1)))) ∧
  (∀ (s : State) (o : Rri) (a : Word) (y : Core),
     s.me.awaitDst o.d = .ok () → s.me.src1 o.a = .ok (a, y) →
     let done (v : Word) : Out := .next (ctlNext (withMe s (y.putDst o.d v 1)))
     let b : Word := BitVec.ofInt 64 o.imm.toInt
     let n := o.imm.toNat % 64
     exec (.addImmediate o) s = done (a + b) ∧ exec (.andImmediate o) s = done (a &&& b) ∧
     exec (.orImmediate o) s = done (a ||| b) ∧ exec (.xorImmediate o) s = done (a ^^^ b) ∧
     exec (.shlImmediate o) s = done (a <<< n) ∧ exec (.shrImmediate o) s = done (a >>> n) ∧
     exec (.sraImmediate o) s = done (a.sshiftRight n) ∧
     exec (.sltImmediate o) s = done (if a.toInt < o.imm.toInt then 1 else 0) ∧
     exec (.sltuImmediate o) s = done (if a.toNat < b.toNat then 1 else 0))

/-- R65, R66. Products of 128 bits with latency 3; quotients towards zero and remainders with the sign of a, latency 24, on a
divider that a second word waits for. A divisor of 0 gives all ones and a; −2^63 by −1 gives −2^63 and 0. -/
def Obligations.MultiplyAndDivide : Prop :=
  ∀ (s : State) (o : Rrr) (a b : Word) (y : Core),
    s.me.awaitDst o.d = .ok () → s.me.src2 o.a o.b = .ok (a, b, y) →
    let done (v : Word) : Out := .next (ctlNext (withMe s (y.putDst o.d v 3)))
    let divided (v : Word) : Out :=
      .next (ctlNext (withMe s ((y.putDst o.d v 24).withCtl fun c => { c with div := 24 })))
    exec (.mul o) s = done (a * b) ∧
    (∃ v : Word, exec (.mulh o) s = done v ∧ v.toInt = a.toInt * b.toInt / 2 ^ 64) ∧
    (∃ v : Word, exec (.mulhu o) s = done v ∧ v.toNat = a.toNat * b.toNat / 2 ^ 64) ∧
    (s.me.ctl.div = 0 →
      (exec (.div o) s = divided (if b = 0 then BitVec.allOnes 64 else a.sdiv b) ∧
       exec (.divu o) s = divided (if b = 0 then BitVec.allOnes 64 else a / b) ∧
       exec (.rem o) s = divided (if b = 0 then a else a.srem b) ∧
       exec (.remu o) s = divided (if b = 0 then a else a % b))) ∧
    (s.me.ctl.div ≠ 0 →
      (exec (.div o) s = .next (ctlHeld .other s) ∧ exec (.divu o) s = .next (ctlHeld .other s) ∧
       exec (.rem o) s = .next (ctlHeld .other s) ∧ exec (.remu o) s = .next (ctlHeld .other s)))

/-- R67, R68, R62, R69, R70, R71, R80. The bit family: leading and trailing zeros, one bits, the bytes reversed, sign and zero
extension from bit n. `bfx` reads the field of w bits at lo with zeros above it; `bfi` replaces it in d, which is a source too.
Bits above bit 63 read as zero and are dropped. `nop`; the constants of `li` and `lih`; the sum of `lea`; the window address of
`gaddr`, which traps PERM with the value that is out of range; F.count. -/
def Obligations.BitAndConstantWords : Prop :=
  (∀ (s : State) (d : Dst) (r : Src) (a : Word) (y : Core) (n : Fin 64),
     s.me.awaitDst d = .ok () → s.me.src1 r = .ok (a, y) →
     let done (v : Word) : Out := .next (ctlNext (withMe s (y.putDst d v 1)))
     (∃ v : Word, exec (.clz d r) s = done v ∧ v.toNat ≤ 64 ∧ (∀ i < v.toNat, a.getMsbD i = false) ∧
       (v.toNat < 64 → a.getMsbD v.toNat = true)) ∧
     (∃ v : Word, exec (.ctz d r) s = done v ∧ v.toNat ≤ 64 ∧ (∀ i < v.toNat, a.getLsbD i = false) ∧
       (v.toNat < 64 → a.getLsbD v.toNat = true)) ∧
     (∃ v : Word, exec (.popc d r) s = done v ∧ v.toNat = (List.finRange 64).countP fun i => a.getLsbD i.val) ∧
     (∃ v : Word, exec (.bswap d r) s = done v ∧ ∀ i < 8, v.extractLsb' (8 * i) 8 = a.extractLsb' (56 - 8 * i) 8) ∧
     (∃ v : Word, exec (.sext d r n) s = done v ∧
       ∀ i < 64, v.getLsbD i = if i ≤ n.val then a.getLsbD i else a.getLsbD n.val) ∧
     (∃ v : Word, exec (.zext d r n) s = done v ∧
       ∀ i < 64, v.getLsbD i = if i ≤ n.val then a.getLsbD i else false)) ∧
  (∀ (s : State) (r : Src) (lo wm1 : Fin 64) (a old : Word) (y : Core),
     (∀ d : Dst, s.me.awaitDst d = .ok () → s.me.src1 r = .ok (a, y) →
       ∃ v : Word, exec (.bfx d r lo wm1) s = .next (ctlNext (withMe s (y.putDst d v 1))) ∧
         ∀ i < 64, v.getLsbD i = (decide (i ≤ wm1.val) && a.getLsbD (lo.val + i))) ∧
     (∀ d : Fin 32, s.me.src2 r (.reg d) = .ok (a, old, y) →
       ∃ v : Word, exec (.bfi d r lo wm1) s = .next (ctlNext (withMe s (y.putReg d v 1))) ∧
         ∀ i < 64, v.getLsbD i = if lo.val ≤ i ∧ i ≤ lo.val + wm1.val then a.getLsbD (i - lo.val) else old.getLsbD i)) ∧
  (∀ s : State,
     exec .nop s = .next (ctlNext s) ∧
     (∀ (d : Dst) (imm : BitVec 39), s.me.awaitDst d = .ok () →
       exec (.li d imm) s = .next (ctlNext (withMe s (s.me.putDst d (BitVec.ofInt 64 imm.toInt) 1)))) ∧
     (∀ (d : Fin 32) (imm : BitVec 25) (v : Word) (y : Core), s.me.src1 (.reg d) = .ok (v, y) →
       exec (.lih d imm) s = .next (ctlNext (withMe s (y.putReg d (BitVec.ofNat 64 (imm.toNat * 2 ^ 39 + v.toNat % 2 ^ 39)) 1)))) ∧
     (∀ (o : Rrr) (sh : Fin 8) (disp : BitVec 15) (a b : Word) (y : Core),
       s.me.awaitDst o.d = .ok () → s.me.src2 o.a o.b = .ok (a, b, y) →
       exec (.lea o sh disp) s =
         .next (ctlNext (withMe s (y.putDst o.d (a + b * BitVec.ofNat 64 (2 ^ sh.val) + BitVec.ofInt 64 disp.toInt) 1)))) ∧
     (∀ (o : Rrr) (a b : Word) (y : Core), s.me.awaitDst o.d = .ok () → s.me.src2 o.a o.b = .ok (a, b, y) →
       (0x20_0000 ≤ a.toNat → exec (.gaddr o) s = .next (ctlTrap .perm a s)) ∧
       (a.toNat < 0x20_0000 → s.me.csr.ncores.toNat ≤ b.toNat → exec (.gaddr o) s = .next (ctlTrap .perm b s)) ∧
       (a.toNat < 0x20_0000 → b.toNat < s.me.csr.ncores.toNat →
         exec (.gaddr o) s =
           .next (ctlNext (withMe s (y.putDst o.d (0x00E0_0000_0000_0000 + b * 0x20_0000 + a) 1))))) ∧
     (∀ d : Dst, s.me.awaitDst d = .ok () →
       exec (.fget d) s = .next (ctlNext (withMe s (s.me.putDst d (BitVec.ofNat 64 s.me.ctl.f.count) 1)))))

/-- R25, R72, R43, R73. Each branch is taken under its condition, to PC + 8 × DISP29, and continues at PC + 8 otherwise;
its pops are made either way. `call` leaves PC + 8 in s30; `jr` leaves it in d and goes to a, read before; a target that is not
aligned traps MISALIGN with no link written. -/
def Obligations.ControlTransfers : Prop :=
  (∀ (s : State) (o : Bcc) (a b : Word) (y : Core),
     s.me.src2 o.a o.b = .ok (a, b, y) →
     let target : Word := s.me.ctl.pc + BitVec.ofInt 64 (8 * o.disp.toInt)
     target.toNat % 8 = 0 →
     let go (taken : Prop) [Decidable taken] : Out :=
       .next (if taken then ctlTo target (withMe s y) else ctlNext (withMe s y))
     let goF (taken : Bool) : Out := .next (if taken then ctlTo target s else ctlNext s)
     exec (.bEq o) s = go (a = b) ∧ exec (.bNe o) s = go (a ≠ b) ∧ exec (.bLt o) s = go (a.toInt < b.toInt) ∧
     exec (.bGe o) s = go (b.toInt ≤ a.toInt) ∧ exec (.bLtu o) s = go (a.toNat < b.toNat) ∧
     exec (.bGeu o) s = go (b.toNat ≤ a.toNat) ∧ exec (.bAl o.disp) s = goF true ∧
     exec (.bFany o.disp) s = goF s.me.ctl.f.any ∧ exec (.bFall o.disp) s = goF s.me.ctl.f.all ∧
     exec (.bFnone o.disp) s = goF s.me.ctl.f.none) ∧
  (∀ s : State,
     (∀ disp : BitVec 29,
       let target : Word := s.me.ctl.pc + BitVec.ofInt 64 (8 * disp.toInt)
       target.toNat % 8 = 0 →
       exec (.call disp) s = .next (ctlTo target (withMe s (s.me.putReg 30 (s.me.ctl.pc + 8) 1)))) ∧
     (∀ (d : Fin 32) (r : Src) (a : Word) (y : Core), s.me.src1 r = .ok (a, y) →
       (a.toNat % 8 = 0 → exec (.jr d r) s = .next (ctlTo a (withMe s (y.putReg d (s.me.ctl.pc + 8) 1)))) ∧
       (a.toNat % 8 ≠ 0 → exec (.jr d r) s = .next (ctlTrap .misalign a s))))

/-- R74, R369. `vgo` starts a stopped and drained vector stream at PC + 8 × DISP29 and `vjoin` issues; both wait while it runs
or drains; inside a handler at K `vgo` starts a kernel vector run, and in a user-level interrupt handler both are ILLEGAL. -/
def Obligations.VectorStartAndJoin : Prop :=
  ∀ (s : State) (disp : BitVec 29),
    let x := s.me
    (x.vec.run = .held → x.ctl.kernel = false →
      exec (.vgo disp) s = .next (ctlTrap .illegal x.ctl.offered s) ∧
      exec .vjoin s = .next (ctlTrap .illegal x.ctl.offered s)) ∧
    ((x.vec.run = .stopped ∨ (x.vec.run = .held ∧ x.ctl.kernel = true)) → x.vec.offer ≠ .issued → x.vec.pend = [] →
      exec (.vgo disp) s = .next (ctlNext (withMe s { x with vec := { x.vec with
        pc := x.ctl.pc + BitVec.ofInt 64 (8 * disp.toInt), words := [], idle := none
        run := if x.vec.run = .held then .kernelRun else .running } })) ∧
      exec .vjoin s = .next (ctlNext s.cover)) ∧
    ((x.vec.run = .running ∨ x.vec.run = .kernelRun ∨ (x.vec.run = .stopped ∧ x.vec.pend ≠ [])) →
      exec (.vgo disp) s = .next (ctlHeld .other s) ∧ exec .vjoin s = .next (ctlHeld .other s))

/-- R75, R76. `halt` waits for the vector stream and for this task's commands; it drops the see handles; with no fill handle
left the core becomes idle, with every handle register null; a fill handle left over is abandoned and the word traps
ABANDONED_FILL with the lowest register that held one. `trap` raises SWT and `sys` raises SYS, each with its
sign-extended immediate as INFO, at the word's own PC. That a held vector stream counts as stopped for `halt` is the model's choice
(entry 23), and so is that `halt` waits only for the commands up to the last number that this stream's own pushes reached (entry 52). -/
def Obligations.HaltAndTraps : Prop :=
  (∀ s : State,
     let x := s.me
     let drained := (x.vec.run = .stopped ∨ x.vec.run = .held) ∧ x.vec.offer ≠ .issued ∧ x.vec.pend = []
     let reached := ∀ q : Fin 6, (x.csr.seq[q] - x.lastPush[q]).toNat < 2 ^ 31
     (drained → reached → (∀ i : Fin 16, ∀ t, x.ctl.h[i] ≠ .fill t) →
       ∃ t, exec .halt s = .next t ∧ t.me.ctl.running = false ∧ t.me.task = false ∧ t.me.ctl.pc = x.ctl.pc + 8 ∧
         (∀ i : Fin 16, t.me.ctl.h[i] = .null) ∧
         t.msgs = s.msgs ++ x.ctl.h.toList.flatMap fun h => h.sees.map fun r => Msg.seeDrop r s.cur s.nextId) ∧
     (drained → reached → ∀ i : Fin 16, (∃ t, x.ctl.h[i] = .fill t) → (∀ j < i, ∀ t, x.ctl.h[j] ≠ .fill t) →
       exec .halt s = .next (ctlTrap .abandonedFill (BitVec.ofNat 64 i.val) s.dropSees.abandonFills)) ∧
     (¬ drained ∨ ¬ reached → exec .halt s = .next (ctlHeld .other s))) ∧
  (∀ (s : State) (imm : BitVec 33),
     exec (.trap imm) s = .next (ctlTrap .swt (BitVec.ofInt 64 imm.toInt) s) ∧
     exec (.sys imm) s = .next (ctlTrap .sys (BitVec.ofInt 64 imm.toInt) s))

/-- R364, R362. A delegable cause whose bit of UDELEG is 1, at U with no handler of a user-level interrupt running, is taken as
a user-level interrupt; every other one as a kernel trap. UIE's enables have no part in it. The causes that can be delegated:
those of code 0 to 24 but PRIV, and SWT. -/
def Obligations.Delegation : Prop :=
  (∀ (s : State) (c : Nat) (e : Event),
     let x := s.core c
     (e.trap.cause.delegable = true → x.csr.udeleg.getLsbD e.trap.cause.code = true → x.ctl.kernel = false →
       x.csr.uie.getLsbD 1 = false → s.take c e = s.enterUli c e) ∧
     (e.trap.cause.delegable = false ∨ x.csr.udeleg.getLsbD e.trap.cause.code = false ∨ x.ctl.kernel = true ∨
       x.csr.uie.getLsbD 1 = true → s.take c e = s.enterKernel c e)) ∧
  (∀ c : Cause, c.delegable = true ↔ (c.code ≤ 24 ∧ c.code ≠ 2) ∨ c.code = 27)

/-- R367, R368, R370. Kernel entry of a core whose frame fits: the frame at KFRAME.BASE × 64 holds both PCs, the cause, its
information and the saved level in STATE[15]; KCAUSE and KINFO are set, the level is K, KFRAME.BASE grows by 320, the PC is
KVEC; the vector stream is held with nothing in flight; the scalar registers are those that the local accesses under way leave,
and the registers of every other core stay. A frame that does not fit stops the core. -/
def Obligations.KernelEntry : Prop :=
  ∀ (s : State) (c : Nat) (e : Event),
    let x := s.core c
    let off := x.csr.kframe.toNat / 64 % 2 ^ 15 * 64
    let t := s.enterKernel c e
    let y := t.core c
    (off + 20480 ≤ 0x1F_FFC0 →
      y.ctl.kernel = true ∧ y.ctl.running = true ∧ y.ctl.pc = x.csr.kvec &&& ~~~7 ∧ y.csr.kcause = e.causeWord ∧
      y.csr.kinfo = e.trap.info ∧ y.csr.kframe = x.csr.kframe + 320 * 64 ∧
      y.ctl.s = ((s.performLocal c).core c).ctl.s ∧ (x.ctl.loads = [] → y.ctl.s = x.ctl.s) ∧ y.vec.run = .held ∧
      (∀ d, d ≠ c → (t.core d).ctl.s = (s.core d).ctl.s ∧ (t.core d).vec.v = (s.core d).vec.v ∧
        (t.core d).csr = (s.core d).csr ∧ (t.core d).ctl.pc = (s.core d).ctl.pc) ∧
      y.vec.pend = [] ∧ y.vec.v = x.vec.v ∧
      t.readWord (spadKey c off) = x.ctl.pc ∧ t.readWord (spadKey c (off + 8)) = x.vec.pc ∧
      (t.readWord (spadKey c (off + 0x10))).getLsbD 15 = x.ctl.kernel ∧
      t.readWord (spadKey c (off + 0x20)) = e.causeWord ∧ t.readWord (spadKey c (off + 0x28)) = e.trap.info ∧
      t.readWord (spadKey c (off + 0x30)) = e.info2 ∧ t.readWord (spadKey c (off + 0x38)) = e.info3) ∧
    (0x1F_FFC0 < off + 20480 → y.mode = .stopped ∧ t.mem = s.mem)

/-- R367, R368. A user-level interrupt whose frame fits: the frame at UFRAME.BASE × 64, UCAUSE and UINFO, ACTIVE set, s24 to s29
exchanged with the shadow set, on at UVEC with the level as it is, once the local accesses under way are performed. One whose frame does not fit is a kernel trap PERM with the
UFRAME value. -/
def Obligations.UserInterruptEntry : Prop :=
  ∀ (s : State) (c : Nat) (e : Event),
    let x := s.core c
    let before := ((s.performLocal c).core c).ctl
    let off := x.csr.uframe.toNat / 64 % 2 ^ 15 * 64
    let t := s.enterUli c e
    let y := t.core c
    (off + 20480 ≤ 0x1F_FFC0 →
      y.ctl.kernel = x.ctl.kernel ∧ y.ctl.running = true ∧ y.ctl.pc = x.csr.uvec &&& ~~~7 ∧ y.csr.ucause = e.causeWord ∧
      y.csr.uinfo = e.trap.info ∧ y.csr.uie.getLsbD 1 = true ∧ y.csr.uframe = x.csr.uframe ∧
      (x.ctl.loads = [] → before.s = x.ctl.s) ∧
      (∀ i : Fin 6, y.ctl.s[24 + i.val]'(by omega) = x.ctl.shadow[i] ∧
        y.ctl.shadow[i] = before.s[24 + i.val]'(by omega)) ∧
      (∀ i : Fin 32, i.val < 24 ∨ 30 ≤ i.val → y.ctl.s[i] = before.s[i]) ∧ y.vec.run = .held ∧ y.vec.pend = [] ∧
      t.readWord (spadKey c off) = x.ctl.pc ∧ t.readWord (spadKey c (off + 8)) = x.vec.pc ∧
      t.readWord (spadKey c (off + 0x20)) = e.causeWord ∧ t.readWord (spadKey c (off + 0x28)) = e.trap.info) ∧
    (0x1F_FFC0 < off + 20480 → t = s.enterKernel c { e with trap := { cause := .perm, info := x.csr.uframe } })

/-- R43, R78, R368, R370, R51, R377. `uret` outside a handler is ILLEGAL, and so is one whose frame does not fit or does
not read as a frame; otherwise both PCs, F and the loop levels are the frame's, ACTIVE is clear, s24 to s29 are exchanged with
the shadow set and the level stays; a frame whose PC is not aligned is MISALIGN. `kret` at U is PRIV; below 320 in KFRAME.BASE it is ILLEGAL, after a kernel vector run has
ended; otherwise both PCs, F, the loop levels and the level are those of the frame below KFRAME.BASE, which shrinks by 320. From a watchdog's
frame with REQ and WDOG set it starts a context save instead. MISALIGN at a return, and the vector PC taken with its low bits cleared,
are the model's choice (entry 74). -/
def Obligations.ReturnsFromHandlers : Prop :=
  (∀ (s : State) (f : Frame),
     let x := s.me
     let off := x.csr.uframe.toNat / 64 % 2 ^ 15 * 64
     (x.csr.uie.getLsbD 1 = false ∨ 0x1F_FFC0 < off + 20480 ∨ s.frameAt s.cur off = none →
       exec .uret s = .next (ctlTrap .illegal x.ctl.offered s)) ∧
     (x.csr.uie.getLsbD 1 = true → off + 20480 ≤ 0x1F_FFC0 → s.frameAt s.cur off = some f → f.cpc.toNat % 8 = 0 →
       ∃ t, exec .uret s = .next t ∧ t.me.ctl.pc = f.cpc ∧ t.me.vec.pc = f.vpc &&& ~~~7 ∧ t.me.ctl.f = f.f ∧
         t.me.ctl.kernel = x.ctl.kernel ∧ t.me.csr.uie.getLsbD 1 = false ∧
         t.me.vec.pend = f.pending (x.vec.frames.find off) t.me.vec.now ∧
         (∀ (i : Fin 4) (l : Level), f.loops[i.val]? = some l → t.me.vec.loops[i] = l) ∧
         (∀ i : Fin 6, t.me.ctl.s[24 + i.val]'(by omega) = x.ctl.shadow[i] ∧
           t.me.ctl.shadow[i] = x.ctl.s[24 + i.val]'(by omega)) ∧
         (∀ i : Fin 32, i.val < 24 ∨ 30 ≤ i.val → t.me.ctl.s[i] = x.ctl.s[i])) ∧
     (x.csr.uie.getLsbD 1 = true → off + 20480 ≤ 0x1F_FFC0 → s.frameAt s.cur off = some f → f.cpc.toNat % 8 ≠ 0 →
       exec .uret s = .next (ctlTrap .misalign f.cpc s))) ∧
  (∀ (s : State) (f : Frame),
     let x := s.me
     let off := x.csr.kframe.toNat / 64 % 2 ^ 15 * 64 - 20480
     let saves := f.cause.toNat % 256 = 30 ∧ x.csr.preempt.getLsbD 0 = true ∧ x.csr.preempt.getLsbD 2 = true
     (x.ctl.kernel = false → exec .kret s = .next (ctlTrap .priv x.ctl.offered s)) ∧
     (x.ctl.kernel = true → x.vec.run = .kernelRun ∨ (x.vec.run = .held ∧ x.vec.pend ≠ []) →
       exec .kret s = .next (ctlHeld .other s)) ∧
     (x.ctl.kernel = true → x.vec.run ≠ .kernelRun → (x.vec.run = .held → x.vec.pend = []) →
       (x.csr.kframe.toNat / 64 % 2 ^ 15 < 320 → exec .kret s = .next (ctlTrap .illegal x.ctl.offered s)) ∧
       (320 ≤ x.csr.kframe.toNat / 64 % 2 ^ 15 → s.frameAt s.cur off = some f → f.cpc.toNat % 8 ≠ 0 →
         exec .kret s = .next (ctlTrap .misalign f.cpc s)) ∧
       (320 ≤ x.csr.kframe.toNat / 64 % 2 ^ 15 → s.frameAt s.cur off = some f → f.cpc.toNat % 8 = 0 →
         (¬ saves → ∃ t, exec .kret s = .next t ∧ t.me.ctl.pc = f.cpc ∧ t.me.vec.pc = f.vpc &&& ~~~7 ∧ t.me.ctl.f = f.f ∧
           t.me.ctl.kernel = f.savedK ∧ t.me.csr.kframe = x.csr.kframe - 320 * 64 ∧ t.me.ctl.s = x.ctl.s ∧
           (∀ (i : Fin 4) (l : Level), f.loops[i.val]? = some l → t.me.vec.loops[i] = l) ∧
           t.me.vec.pend = f.pending (x.vec.frames.find off) t.me.vec.now) ∧
         (saves → exec .kret s = .next (withMe s { x with mode := .saving .preemptWatchdog })))))

/-- R52, R77, R4, R38, R51, R53, R117, R254. A CSR word that may access its CSR: `csrr`, `csrs` and `csrc` return the old value;
`csrw` writes its source, `csrs` sets RW bits and clears the W1C bits it names, `csrc` clears RW bits; the write comes before
the flags that a popped entry merges, and the bits that hardware has merged in this cycle stand after it. What a write leaves in a CSR whose fields can hold every value: RW bits take the value
written, W1C bits written as 1 are cleared, every other bit keeps its value. FSR, BANKFMT and ERRINJ, which have fields that
cannot, take it too where they can. A CSR number from 0x800 at U is PRIV for every CSR word; below that, or at K, an unassigned
number is ILLEGAL, and so is a write to a number from 0x400 to 0x7FF. -/
def Obligations.CsrAccess : Prop :=
  (∀ (s : State) (n : BitVec 12) (old : Word),
     (n.toNat < 0x800 ∨ s.me.ctl.kernel = true) → s.csrGet s.cur n.toNat = some old →
     (∀ d : Fin 32, exec (.csrr d n) s = .next (ctlNext (withMe s (s.me.putReg d old 1)))) ∧
     (n.toNat < 0x400 ∨ 0x800 ≤ n.toNat →
       ∀ (r : Src) (v : Word) (y : Core), s.me.src1 r = .ok (v, y) →
         let written (rw w1 : Word) : State := s.csrPut s.cur n.toNat (csrValue n.toNat old rw w1 ||| s.me.merged n.toNat)
         exec (.csrw n r) s = .next (ctlNext ((written v v).onMe fun x => x.commitPops [r])) ∧
         ∀ d : Fin 32,
           exec (.csrs d n r) s =
             .next (ctlNext ((written (old ||| v) v).onMe fun x => (x.commitPops [r]).putReg d old 1)) ∧
           exec (.csrc d n r) s =
             .next (ctlNext ((written (old &&& ~~~v) 0).onMe fun x => (x.commitPops [r]).putReg d old 1)))) ∧
  (∀ (n : Nat) (old rw w1 : Word) (i : Nat), i < 64 →
     (n ≠ 0x001 ∧ ¬ (0x010 ≤ n ∧ n ≤ 0x01F) ∧ n ≠ 0x810) ∨
       (n = 0x001 ∧ rw.toNat / 256 % 8 < 5) ∨
       ((0x010 ≤ n ∧ n ≤ 0x01F) ∧ rw.toNat % 16 < 13 ∧ rw.toNat / 16 % 8 < 5) ∨
       (n = 0x810 ∧ rw.toNat / 8 % 8 < 4 ∧ rw.toNat / 2 % 4 < 2) →
     (csrValue n old rw w1).getLsbD i =
       if (rwMask n).getLsbD i then rw.getLsbD i
       else if (w1cMask n).getLsbD i && w1.getLsbD i then false else old.getLsbD i) ∧
  (∀ (s : State) (n : BitVec 12) (d : Fin 32) (r : Src),
     let all (c : Cause) : Prop :=
       exec (.csrw n r) s = .next (ctlTrap c s.me.ctl.offered s) ∧
       exec (.csrs d n r) s = .next (ctlTrap c s.me.ctl.offered s) ∧
       exec (.csrc d n r) s = .next (ctlTrap c s.me.ctl.offered s)
     (0x800 ≤ n.toNat → s.me.ctl.kernel = false →
       all .priv ∧ exec (.csrr d n) s = .next (ctlTrap .priv s.me.ctl.offered s)) ∧
     ((n.toNat < 0x800 ∨ s.me.ctl.kernel = true) → s.csrGet s.cur n.toNat = none →
       all .illegal ∧ exec (.csrr d n) s = .next (ctlTrap .illegal s.me.ctl.offered s)) ∧
     (0x400 ≤ n.toNat → n.toNat < 0x800 → all .illegal) ∧
     (∀ c, s.csrGet c n.toNat = none ↔
       n.toNat ∉ ([1, 2, 3, 4, 5, 6] ++ (List.range 16).map (0x10 + ·) ++ (List.range 6).map (0x20 + ·) ++
         (List.range 8).map (0x30 + ·) ++ [0x40, 0x400, 0x401, 0x402, 0x403] ++ (List.range 6).map (0x410 + ·) ++
         (List.range 6).map (0x418 + ·) ++ [0x420, 0x421, 0x422, 0x430, 0x431, 0x432] ++ (List.range 10).map (0x800 + ·) ++
         [0x810])))

/-- R79, R81, R185, R188, R190, R192. `uie` sets the master enable, UIE.EN, and `uid` clears it; both leave the old enable in d. `tlbi`
at U is PRIV; at K it waits for the earlier stores of its stream and then removes, from the TLB of every core of its die and the die's
cache, the page that holds a in context b or global, the entries of context a that are not global, or every entry. A translation: the
window checks of R185; an entry of the core's TLB, or of the die's cache, serves without a walk; else the walk from PTBASE, whose first
bad entry is PAGE_FAULT, a place that may not be read its cause, a poisoned entry UE and an unreachable node absence, and whose leaf
both caches take and which gives the page; it writes no memory, and a trap's INFO is the address. That a fetch raises no ORD_FAULT is
the model's choice (entry 109), so are the entry that a full cache drops (entry 12) and the walk as one whole at issue, with the UE of
a poisoned entry (entry 15). -/
def Obligations.MasterEnableAndTlb : Prop :=
  (∀ (s : State) (d : Fin 32),
     let old : Word := if s.me.csr.uie.getLsbD 0 then 1 else 0
     let with_ (v : Word) : State :=
       withMe s ((s.me.putReg d old 1).withCsr fun r => { r with uie := v })
     (∃ v, exec (.uie d) s = .next (ctlNext (with_ v)) ∧
       ∀ i < 64, v.getLsbD i = if i = 0 then true else s.me.csr.uie.getLsbD i) ∧
     (∃ v, exec (.uid d) s = .next (ctlNext (with_ v)) ∧
       ∀ i < 64, v.getLsbD i = if i = 0 then false else s.me.csr.uie.getLsbD i)) ∧
  (∀ (s : State) (a b : Fin 32),
     let every (o : Out) : Prop := exec (.tlbiPage a b) s = o ∧ exec (.tlbiContext a) s = o ∧ exec .tlbiAll s = o
     let clear := (∀ x ∈ s.flight, x.core = s.cur → x.vec = false → x.isWrite = false) ∧ s.me.ctl.stores = []
     (s.me.ctl.kernel = false → every (.next (ctlTrap .priv s.me.ctl.offered s))) ∧
     (s.me.ctl.kernel = true → s.me.ctl.ready a = true → s.me.ctl.ready b = true →
       s.me.ctl.poison[a] = none → s.me.ctl.poison[b] = none →
       (¬ clear → every (.next (ctlHeld .other s))) ∧
       (clear →
         let va := (s.me.ctl.reg a).toNat
         let page (e : TlbEntry) : Bool :=
           !(decide (e.va = va / 2 ^ e.bits * 2 ^ e.bits) && (e.glob || e.ctx == (s.me.ctl.reg b).setWidth 16))
         let context (e : TlbEntry) : Bool := e.glob || e.ctx != (s.me.ctl.reg a).setWidth 16
         let left (t : State) (keep : TlbEntry → Bool) : Prop :=
           (∀ d, d / 128 = s.cur / 128 → (t.core d).tlb = (s.core d).tlb.filter keep) ∧ (t.die s.cur).cache = (s.die s.cur).cache.filter keep ∧
           t.me.ctl.pc = s.me.ctl.pc + 8 ∧ t.mem = s.mem
         ∃ t1 t2 t3, exec (.tlbiPage a b) s = .next t1 ∧ exec (.tlbiContext a) s = .next t2 ∧
           exec .tlbiAll s = .next t3 ∧ left t1 page ∧ left t2 context ∧ left t3 fun _ => false))) ∧
  -- places that no access reaches
  (∀ (s : State) (q o n : Nat), o < 2 ^ 44 →
     let pool := ∃ f ∈ (s.pkg q).funcs, f.2.part.valid = true ∧
       (let b := f.2.part.poolbase.toNat % 2 ^ 44
        o < b + 65536 * f.2.part.poolframes.toNat ∧ b < o + n)
     let r := s.reserved q o n
     (0x20_4000_0000 ≤ o → o < 0x100_0000_0000 → r = some .pageFault) ∧
     (0x280_0000_0000 ≤ o → o < 0x400_0000_0000 → r = some .pageFault) ∧
     (0x400_0000_0000 ≤ o → o < 0x800_0000_0000 →
       let f := o / 65536 % 2 ^ 26
       r = if ((s.frameDie q f).place.find f).isSome then none else some .pageFault) ∧
     (o < 0x20_0000_0000 ∨ (0x100_0000_0000 ≤ o ∧ o < 0x280_0000_0000) →
       (pool → r = some .perm) ∧ (¬ pool → r = none)) ∧
     (0x800_0000_0000 ≤ o ∨ (0x20_0000_0000 ≤ o ∧ o < 0x20_4000_0000) → r = none)) ∧
  -- translation
  (∀ (s : State) (c : Nat) (a : Word) (n : Nat) (need : Need) (kernel guard : Bool),
     let r := s.translate c a n need kernel guard
     let x := s.core c
     let va := a.toNat
     let p := c / 512
     let hit (e : TlbEntry) : Bool := e.va == va - va % 2 ^ e.bits && (e.glob || e.ctx == x.csr.ctxid.setWidth 16)
     let found := x.tlb.find? hit
     let cached := (s.die c).cache.find? hit
     let frame (t : State) : Prop := t.mem = s.mem ∧ t.poison = s.poison ∧ t.flight = s.flight ∧ (t.core c).ctl = x.ctl ∧
       (t.core c).vec = x.vec ∧ (t.core c).csr = x.csr ∧ ∀ d, d ≠ c → t.core d = s.core d
     (2 ^ 57 ≤ va → r = (s, .trap .pageFault)) ∧ (va / 2 ^ 56 = 1 → r = (s, .trap .perm)) ∧
     (va < 2 ^ 56 → frame r.1 ∧
       (∀ e, found = some e → r.1 = s ∧ leafGives s p va n e.bits e.pte need kernel guard r.2) ∧
       (∀ e, found = none → cached = some e →
         cacheTakes 128 e x.tlb (r.1.core c).tlb ∧ leafGives r.1 p va n e.bits e.pte need kernel guard r.2) ∧
       (found = none → cached = none → ∀ l table, l ≤ 4 → walkComesTo s p x.csr.ptbase va l table →
         (s.nodePkg p (table / 2 ^ 44) = none → r.2 = .absent (table / 2 ^ 44)) ∧
         ∀ q, s.nodePkg p (table / 2 ^ 44) = some q →
           let k := entryKey q table l va
           let e := s.readWord k
           let bad := s.reserved q (k % 2 ^ 44) 8
           (bad = some .pageFault → r.2 = .trap .pageFault) ∧ (bad = some .perm → r.2 = .trap .perm) ∧
           (bad = none → s.poisoned k 8 = true → r.2 = .trap .ue) ∧
           (bad = none → s.poisoned k 8 = false →
             (¬ entryPoints l e → ¬ entryMaps l e → r.2 = .trap .pageFault) ∧
             (entryMaps l e →
               let kept : TlbEntry := { va := va - va % 2 ^ pageBits l, bits := pageBits l, ctx := x.csr.ctxid.setWidth 16
                                        glob := e.getLsbD 11, pte := e }
               cacheTakes 128 kept x.tlb (r.1.core c).tlb ∧
               ((s.pkgs.find p).isSome = true → cacheTakes 16384 kept (s.die c).cache (r.1.die c).cache) ∧
               leafGives r.1 p va n (pageBits l) e need kernel guard r.2))))) ∧
  -- what the request makes of it
  (∀ (s : State) (c : Nat) (q : Req) (a info : Word), q.addr = .virt a →
     let x := s.translate c a q.ty.size q.op.need q.kernel
     let r := s.route c q info
     r.1 = x.1 ∧ (∀ cause, x.2 = .trap cause → r.2 = .error { cause := cause, info := a }) ∧
     (∀ node, x.2 = .absent node → r.2 = .error { cause := .groupAbsent, info := BitVec.ofNat 64 node }) ∧
     (∀ k e, x.2 = .ok k e → ∃ w, r.2 = .ok w ∧ w.place = .phys k ∧
       (q.ord = .plain → w.sync = false ∧ (e.toNat / 2 ^ 5 % 4 = 0 → w.kind = .un) ∧ (e.toNat / 2 ^ 5 % 4 = 1 → w.kind = .rc) ∧
         (e.toNat / 2 ^ 5 % 4 = 2 → w.kind = .so))))

/-- R46, R49, R50, R82, R83, R94, R205. A local `ld` whose base, offset and ordering let it issue: where its bank's stream port is
free, the datum of its size, extended by its sign or by zeros, is in d (with the UE of a poisoned granule, or of an injected
error) and ready after 4 cycles; where it is not, the load waits for the port and changes no register but its base; the base is
updated by the increment forms, and the next word follows; a misaligned offset is MISALIGN, one out of the scratchpad PERM. A local `st` that may issue
puts its bytes in flight, to be performed 3 cycles later, updates its base in the increment forms and changes no memory yet;
MISALIGN comes first, PERM out of the scratchpad. A scalar result whose cycles have passed is ready; the local stores whose time
has come are performed, oldest first, at their offsets and nowhere else; an address-queue entry in its last cycle can be popped.
The bank whose stream port a load waits for, the order of local accesses by their sequence, and what a load sees of the stores in
flight are the model's choice (entries 13, 14). -/
def Obligations.LocalAccesses : Prop :=
  (∀ (s : State) (d b : Fin 32) (off : BitVec 24) (sz : LdSz) (ord : Ord) (base : Word),
     s.me.regChecked b = .ok base → s.me.accessReady = true → s.localReady false ord = true →
     let n : Nat := match sz with | .b | .bu => 1 | .h | .hu => 2 | .w | .wu => 4 | .d => 8
     let sum : Word := base + BitVec.ofInt 64 off.toInt
     let form (addr : MemAddr) (lo : Word) (newBase : Option Word) : Prop :=
       (lo.toNat % n ≠ 0 → exec (.ld d addr sz ord) s = .next (ctlTrap .misalign lo s)) ∧
       (lo.toNat % n = 0 → 0x20_0000 < lo.toNat + n → exec (.ld d addr sz ord) s = .next (ctlTrap .perm lo s)) ∧
       (lo.toNat % n = 0 → lo.toNat + n ≤ 0x20_0000 → (s.me.ctl.kernel = true ∨ s.me.inLiveFrame lo.toNat n = false) →
         s.overlapAt [(spadKey s.cur lo.toNat, n)] false = none → (newBase ≠ none → d ≠ b) →
         let seq := s.me.ctl.lseq
         let free := s.me.portFree (lo.toNat / 131072) = true
         let raw := leNat (s.bytesBefore s.cur seq lo.toNat n)
         let v : Word := match sz with
           | .b => (BitVec.ofNat 8 raw).signExtend 64 | .h => (BitVec.ofNat 16 raw).signExtend 64
           | .w => (BitVec.ofNat 32 raw).signExtend 64 | _ => BitVec.ofNat 64 raw
         ∃ t, exec (.ld d addr sz ord) s = .next t ∧ t.me.ctl.pc = s.me.ctl.pc + 8 ∧ t.me.ctl.offer = .issued ∧
           (d ≠ 0 → free → (s.me.armed 0 = false → t.me.ctl.s[d] = v ∧
             t.me.ctl.poison[d] = if s.poisonBefore s.cur seq lo.toNat n then some 0 else none) ∧
             (s.me.armedUe = true → t.me.ctl.poison[d] = some 0) ∧
             ∃ e ∈ t.me.ctl.busy, e.reg = d.val ∧ e.left = 4 ∧ e.waits = none) ∧
           (¬ free → t.me.ctl.loads.map (·.seq) = s.me.ctl.loads.map (·.seq) ++ [seq] ∧ t.mem = s.mem ∧
             (d ≠ 0 → t.me.ctl.s[d] = s.me.ctl.s[d] ∧ ∃ e ∈ t.me.ctl.busy, e.reg = d.val ∧ e.waits = some seq)) ∧
           (∀ w, newBase = some w → b ≠ 0 → t.me.ctl.s[b] = w) ∧
           (∀ r : Fin 32, r ≠ d → (r ≠ b ∨ newBase = none) → t.me.ctl.s[r] = s.me.ctl.s[r]) ∧
           (s.me.armed 0 = false → t.mem = s.mem))
     form (.loc b off) sum none ∧ form (.postInc b off) base (some sum) ∧ form (.preInc b off) sum (some sum)) ∧
  (∀ (s : State) (d b : Fin 32) (off : BitVec 24) (sz : Sz) (ord : Ord) (base v : Word),
     s.me.regChecked b = .ok base → s.me.regChecked d = .ok v → s.me.accessReady = true → s.localReady true ord = true →
     let n : Nat := match sz with | .b => 1 | .h => 2 | .w => 4 | .d => 8
     let sum : Word := base + BitVec.ofInt 64 off.toInt
     let form (addr : MemAddr) (lo : Word) (newBase : Option Word) : Prop :=
       (lo.toNat % n ≠ 0 → exec (.st d addr sz ord) s = .next (ctlTrap .misalign lo s)) ∧
       (lo.toNat % n = 0 → 0x20_0000 < lo.toNat + n → exec (.st d addr sz ord) s = .next (ctlTrap .perm lo s)) ∧
       (lo.toNat % n = 0 → lo.toNat + n ≤ 0x20_0000 → (s.me.ctl.kernel = true ∨ s.me.inLiveFrame lo.toNat n = false) →
         (s.me.lost = none ∨ ord ≠ .sync) → s.overlapAt [(spadKey s.cur lo.toNat, n)] true = none →
         ∃ t, exec (.st d addr sz ord) s = .next t ∧ t.me.ctl.pc = s.me.ctl.pc + 8 ∧ t.me.ctl.offer = .issued ∧
           t.me.ctl.stores = s.me.ctl.stores ++
             [{ id := s.nextId, so := ord == .strong, off := lo.toNat, bytes := leBytes n v.toNat, left := 3
                bank := some (lo.toNat / 131072), seq := s.me.ctl.lseq }] ∧
           t.me.ctl.s = (match newBase with | some w => (s.me.ctl.setReg b w).s | none => s.me.ctl.s) ∧ t.mem = s.mem)
     form (.loc b off) sum none ∧ form (.postInc b off) base (some sum) ∧ form (.preInc b off) sum (some sum)) ∧
  (∀ (s : State) (c : Nat),
     (∃ t, exec (.scalarResultReady c) s = .next t ∧
       (t.core c).ctl.busy = (s.core c).ctl.busy.filter (fun b => decide (b.left ≠ 0)) ∧
       (t.core c).ctl.s = (s.core c).ctl.s ∧ t.mem = s.mem) ∧
     (((s.core c).phase = .land ∨ (s.core c).phase = .offer ∧ (s.core c).vec.words ≠ []) →
       exec (.localStorePerformed c) s = .next s) ∧
     (((s.core c).phase = .tick ∨ (s.core c).phase = .offer ∧ (s.core c).vec.words = []) →
       ∃ t, exec (.localStorePerformed c) s = .next t ∧
       (t.core c).ctl.stores = (s.core c).ctl.stores.filter (fun x => decide (x.left ≠ 0)) ∧
       (∀ st, (s.core c).ctl.stores.filter (fun x => decide (x.left = 0)) = [st] →
         t.readBytes (spadKey c st.off) st.bytes.length = st.bytes) ∧
       (∀ k, (∀ st ∈ (s.core c).ctl.stores, st.left = 0 → k < spadKey c st.off ∨ spadKey c st.off + st.bytes.length ≤ k) →
         t.readByte k = s.readByte k)) ∧
     (∃ t, exec (.aqEntryPoppable c) s = .next t ∧ t.mem = s.mem ∧
       ∀ q : Fin 4, (t.core c).vec.aq[q] =
         (s.core c).vec.aq[q].map fun e => { e with left := if e.left = 1 then 0 else e.left }))

/-- R58, R82, R83. A translated, handle-relative or group `ld` that passes its checks goes in flight under the next access
number and blocks its stream, the PC still at it; a failed check traps and nothing is sent. When its access can be performed the
datum enters d, poison poisons d, a fault traps at the load, and otherwise the next word follows. -/
def Obligations.BlockingLoads : Prop :=
  ∀ (s : State) (d b : Fin 32) (h : Fin 16) (off : BitVec 24) (sz : LdSz) (ord : Ord) (base : Word),
    s.me.accessReady = true →
    let va : Word := base + BitVec.ofInt 64 off.toInt
    let n : Nat := match sz with | .b | .bu => 1 | .h | .hu => 2 | .w | .wu => 4 | .d => 8
    let sent (addr : MemAddr) (a : ReqAddr) (info : Word) : Prop :=
      let r : Req := { op := .load, addr := a, ty := ldTy sz, ord := ord, zue := false, kernel := s.me.ctl.kernel }
      (∀ s1 f, s.route s.cur r info = (s1, .error f) → exec (.ld d addr sz ord) s = .next (ctlTrap f.cause f.info s)) ∧
      (∀ s1 t, s.route s.cur r info = (s1, .ok t) → s.checkRequest r = .ok () →
        ∃ u, exec (.ld d addr sz ord) s = .next u ∧ u.me.ctl.pc = s.me.ctl.pc ∧ u.mem = s.mem ∧ u.me.ctl.s = s.me.ctl.s ∧
          u.me.ctl.blk = some { id := s.nextId, d := d.val, left := 4, info := info } ∧
          u.flight = s.flight ++ [sentAs s (accessOf s.cur false r t .nowhere)])
    (s.me.regChecked b = .ok base → va.toNat % n = 0 → sent (.plain b off) (.virt va) 0) ∧
    (s.me.regChecked b = .ok base → va.toNat % n ≠ 0 →
      exec (.ld d (.plain b off) sz ord) s = .next (ctlTrap .misalign va s)) ∧
    (off.toNat % n = 0 → (∀ g, s.me.ctl.h[h] ≠ .gsee g) →
      sent (.handle h off) (.tile s.me.ctl.h[h] off.toInt) (BitVec.ofNat 64 h.val)) ∧
    (s.me.regChecked b = .ok base → va.toNat % n = 0 → ∀ g x, s.checkGroup s.cur va false (ldTy sz) = .ok (g, x) →
      s.checkLeaves (plainGroup s.cur false s.me.ctl.kernel g x (ldTy sz) .blocking) va = .ok () →
      ∃ u, exec (.ld d (.group b off) sz ord) s = .next u ∧ u.me.ctl.pc = s.me.ctl.pc ∧
        u.me.ctl.blk = some { id := s.nextId, d := d.val, left := 4, info := 0 } ∧
        u.gloads = s.gloads ++ [sentGroup s (plainGroup s.cur false s.me.ctl.kernel g x (ldTy sz) .blocking)]) ∧
    (off.toNat % n = 0 → ∀ g l, s.me.ctl.h[h] = .gsee g →
      s.seeGroup s.cur s.me.ctl.kernel g off.toInt (ldTy sz) .blocking (BitVec.ofNat 64 h.val) = .ok l →
      s.checkLeaves l (BitVec.ofInt 64 off.toInt) = .ok () →
      ∃ u, exec (.ld d (.handle h off) sz ord) s = .next u ∧ u.me.ctl.pc = s.me.ctl.pc ∧
        u.me.ctl.blk = some { id := s.nextId, d := d.val, left := 4, info := BitVec.ofNat 64 h.val } ∧
        u.gloads = s.gloads ++ [sentGroup s l]) ∧
    (∀ (c k : Nat) (x : BlkLoad) (a : Access) (s1 : State) (r : Result),
      (s.core c).ctl.blk = some x → x.left = 0 → s.findAccess x.id = some k → s.flight[k]? = some a → a.parked = false →
      s.mayPerform k a = true → s.performHome a = (s1, .done r) →
      (∀ v, r.datum = .value v → ∃ u, exec (.blockingLoadReturn c) s = .next u ∧
        (u.core c).ctl.pc = (s1.core c).ctl.pc + 8 ∧ (u.core c).ctl.blk = none ∧ u.flight = dropNth s1.flight k ∧
        (u.core c).ctl.s = ((s1.core c).ctl.setReg (Fin.ofNat 32 x.d) v).s) ∧
      (∀ i, r.datum = .poison i → ∃ u, exec (.blockingLoadReturn c) s = .next u ∧
        (u.core c).ctl.pc = (s1.core c).ctl.pc + 8 ∧ (Fin.ofNat 32 x.d ≠ 0 → (u.core c).ctl.poison[Fin.ofNat 32 x.d] = some i)) ∧
      (∀ f, r.datum = .fault f → f.cause ≠ .poisonedTile → f.cause ≠ .selfPark → f.cause ≠ .writeViaSee →
        f.cause ≠ .badHandle → exec (.blockingLoadReturn c) s =
          .next (State.take { s1 with flight := dropNth s1.flight k } c (.sync f false))))

/-- R85, R86. `ldq` takes an entry of its queue, absent as yet, under the number of the access or group load that it starts, and
issues; a full queue holds it, a misaligned address is MISALIGN. When the access can be performed its datum or fault enters that
entry and the access leaves the flight. -/
def Obligations.DecoupledLoads : Prop :=
  ∀ (s : State) (q : Fin 2) (b : Fin 32) (h : Fin 16) (off : BitVec 24) (sz : LdSz) (ord : Ord) (base : Word),
    s.me.accessReady = true → s.me.regChecked b = .ok base →
    let va : Word := base + BitVec.ofInt 64 off.toInt
    let n : Nat := match sz with | .b | .bu => 1 | .h | .hu => 2 | .w | .wu => 4 | .d => 8
    let form (addr : QAddr) (a : ReqAddr) (zue : Bool) (at_ : Word) : Prop :=
      let r : Req := { op := .load, addr := a, ty := ldTy sz, ord := ord, zue := zue, kernel := s.me.ctl.kernel }
      (s.me.ctl.lq[q].length < 16 → at_.toNat % n ≠ 0 →
        exec (.ldq q addr sz ord) s = .next (ctlTrap .misalign at_ s)) ∧
      (16 ≤ s.me.ctl.lq[q].length → exec (.ldq q addr sz ord) s = .next (ctlHeld (.queue (12 + q.val)) s)) ∧
      (s.me.ctl.lq[q].length < 16 → at_.toNat % n = 0 → s.checkRequest r = .ok () →
        ∃ t, exec (.ldq q addr sz ord) s = .next t ∧ t.me.ctl.pc = s.me.ctl.pc + 8 ∧ t.me.ctl.offer = .issued ∧
          t.me.ctl.lq[q] = s.me.ctl.lq[q] ++ [{ id := s.nextId, datum := .absent, flags := 0, nan := false, req := r }] ∧
          t.me.ctl.s = s.me.ctl.s ∧ t.mem = s.mem ∧ t.nextId = s.nextId + 1 ∧
          t.flight.length + t.gloads.length = s.flight.length + s.gloads.length + 1)
    form (.plain b off) (.virt va) false va ∧ form (.zue b off) (.virt va) true va ∧
    form (.group b off) (.group va) false va ∧
    form (.handle h off) (.tile s.me.ctl.h[h] off.toInt) false (BitVec.ofInt 64 off.toInt) ∧
    (∀ (k i : Nat) (p : Fin 2) (a : Access) (s1 : State) (r : Result),
      s.flight[k]? = some a → a.back = .lq p i → a.parked = false → a.barrier = none → s.mayPerform k a = true →
      s.performHome a = (s1, .done r) →
      ∃ t, exec (.lqEntryArrival k) s = .next t ∧ t.flight = dropNth s1.flight k ∧
        (t.core a.core).ctl.lq[p] = (s1.core a.core).ctl.lq[p].map fun e =>
          if e.id = i then { e with datum := r.datum, flags := e.flags ||| r.flags, nan := e.nan || r.nan } else e)

/-- R82, R83, R213, R241, R263. A translated or handle-relative `st` that passes its checks goes in flight and issues without
waiting; a group window address and a group see handle are refused by their traps; the store is performed at its home when the
accesses before it allow it, and leaves the flight; a load held outside a full park list is admitted or served. -/
def Obligations.RemoteStores : Prop :=
  ∀ (s : State) (d b : Fin 32) (h : Fin 16) (off : BitVec 24) (sz : Sz) (ord : Ord) (base v : Word),
    s.me.accessReady = true → s.me.lost = none → s.me.regChecked d = .ok v →
    let va : Word := base + BitVec.ofInt 64 off.toInt
    let n : Nat := match sz with | .b => 1 | .h => 2 | .w => 4 | .d => 8
    let sent (addr : MemAddr) (a : ReqAddr) (info : Word) : Prop :=
      let r : Req := { op := .store v, addr := a, ty := szTy sz, ord := ord, zue := false, kernel := s.me.ctl.kernel }
      ∀ s1 t, s.route s.cur r info = (s1, .ok t) → s.checkRequest r = .ok () →
        ∃ u, exec (.st d addr sz ord) s = .next u ∧ u.me.ctl.pc = s.me.ctl.pc + 8 ∧ u.me.ctl.offer = .issued ∧
          u.mem = s.mem ∧ u.me.ctl.s = s.me.ctl.s ∧
          u.flight = s.flight ++ [sentAs s (accessOf s.cur false r t .nowhere)]
    (s.me.regChecked b = .ok base → va.toNat % n = 0 → sent (.plain b off) (.virt va) 0) ∧
    (s.me.regChecked b = .ok base → va.toNat % n ≠ 0 →
      exec (.st d (.plain b off) sz ord) s = .next (ctlTrap .misalign va s)) ∧
    (s.me.regChecked b = .ok base → va.toNat % n = 0 →
      exec (.st d (.group b off) sz ord) s = .next (ctlTrap .perm va s)) ∧
    (off.toNat % n = 0 → (∀ g, s.me.ctl.h[h] ≠ .gsee g) →
      sent (.handle h off) (.tile s.me.ctl.h[h] off.toInt) (BitVec.ofNat 64 h.val)) ∧
    (off.toNat % n = 0 → ∀ g, s.me.ctl.h[h] = .gsee g →
      exec (.st d (.handle h off) sz ord) s = .next (ctlTrap .writeViaSee (BitVec.ofNat 64 h.val) s)) ∧
    (∀ (k : Nat) (a : Access) (w : Word) (s1 : State) (r : Result),
      s.flight[k]? = some a → a.req.op = .store w → a.back = .nowhere → a.parked = false → a.barrier = none →
      s.mayPerform k a = true → s.performHome a = (s1, .done r) →
      exec (.storePerformedAtHome k) s = .next { s1 with flight := dropNth s1.flight k }) ∧
    (∀ (k : Nat) (a : Access) (t : TileRef) (o : Nat),
      s.flight[k]? = some a → a.place = .tile t o → a.parked = true →
      ((s.live t = false ∨ (s.tileOf t).st ≠ .filling ∨ s.reaches a.core t.core = false) →
        exec (.parkedLoadRetry k) s = .next { s with flight := setNth s.flight k { a with parked := false } }) ∧
      (s.live t = true → (s.tileOf t).st = .filling → s.reaches a.core t.core = true → a.id ∉ (s.tileOf t).parked → (s.tileOf t).parked.length < 16 →
        exec (.parkedLoadRetry k) s = .next (s.modTile t fun y => { y with parked := y.parked ++ [a.id] })))

/-- R261, R262, R263, R264, R252, R254. Every `amo` and `cas` with an aligned address below the group window and a free
entry takes that entry and sends one access with its operation and element type; its pops are made and the next word follows; a
full queue holds it. Every `red` with an aligned address that translates sends one access with its operation and element type
and issues; the access is applied at its home when the accesses before it allow it, and leaves the flight. -/
def Obligations.AtomicsAndReductions : Prop :=
  (∀ (s : State) (o : Amo) (c : Fin 32) (va v w : Word),
     s.me.accessReady = true → s.me.ctl.lq[o.q].length < 16 → s.me.lost = none → va.toNat / 2 ^ 56 % 2 = 0 →
     s.me.ctl.awaitAll [] [o.a, o.b] = .ok () → s.me.ctl.readSrc [] o.a = .ok va → s.me.ctl.readSrc [o.a] o.b = .ok v →
     let sent (i : Instr) (ty : Ty) (op : AccOp) : Prop :=
       let r : Req := { op := op, addr := .virt va, ty := ty, ord := o.ord, zue := false, kernel := s.me.ctl.kernel }
       (va.toNat % ty.size ≠ 0 → exec i s = .next (ctlTrap .misalign va s)) ∧
       (va.toNat % ty.size = 0 → s.checkRequest r = .ok () →
         exec i s = .next (ctlNext (((withMe s (s.me.commitPops [o.a, o.b])).takeLq o.q r).issueQueued s.cur false r
           (.lq o.q s.nextId))))
     let int : Ty := match o.sz with | .b => .i8 | .h => .i16 | .w => .i32 | .d => .i64
     let flt : Ty := match o.sz with | .h => .f16 | .w => .f32 | _ => .f64
     sent (.amoSwap o) int (.amo .swap v) ∧ sent (.amoAdd o) int (.amo .add v) ∧ sent (.amoAnd o) int (.amo .and v) ∧
     sent (.amoOr o) int (.amo .or v) ∧ sent (.amoXor o) int (.amo .xor v) ∧ sent (.amoMin o) int (.amo .min v) ∧
     sent (.amoMax o) int (.amo .max v) ∧ sent (.amoMinu o) int (.amo .minu v) ∧ sent (.amoMaxu o) int (.amo .maxu v) ∧
     sent (.amoFadd o) flt (.amo .fadd v) ∧ sent (.amoFmin o) flt (.amo .fmin v) ∧ sent (.amoFmax o) flt (.amo .fmax v) ∧
     sent (.amoBfadd o) .bf16 (.amo .fadd v) ∧ sent (.amoBfmin o) .bf16 (.amo .fmin v) ∧
     sent (.amoBfmax o) .bf16 (.amo .fmax v) ∧
     (s.me.ctl.awaitAll [] [o.a, o.b, .reg c] = .ok () → s.me.ctl.readSrc [] (.reg c) = .ok w →
       sent (.cas o c) int (.cas v w))) ∧
  (∀ (s : State) (o : Amo) (c : Fin 32),
     s.me.accessReady = true → 16 ≤ s.me.ctl.lq[o.q].length → s.me.ctl.awaitAll [] [o.a, o.b] = .ok () →
     let held (i : Instr) : Prop := exec i s = .next (ctlHeld (.queue (12 + o.q.val)) s)
     held (.amoSwap o) ∧ held (.amoAdd o) ∧ held (.amoAnd o) ∧ held (.amoOr o) ∧ held (.amoXor o) ∧ held (.amoMin o) ∧
     held (.amoMax o) ∧ held (.amoMinu o) ∧ held (.amoMaxu o) ∧ held (.amoFadd o) ∧ held (.amoFmin o) ∧ held (.amoFmax o) ∧
     held (.amoBfadd o) ∧ held (.amoBfmin o) ∧ held (.amoBfmax o) ∧
     (s.me.ctl.awaitAll [] [o.a, o.b, .reg c] = .ok () → held (.cas o c))) ∧
  (∀ (s : State) (o : Red) (va v : Word),
     s.me.accessReady = true → s.me.lost = none → s.me.ctl.awaitAll [] [o.a, o.b] = .ok () →
     s.me.ctl.readSrc [] o.a = .ok va → s.me.ctl.readSrc [o.a] o.b = .ok v →
     let sent (i : Instr) (ty : Ty) (op : AmoOp) : Prop :=
       let r : Req := { op := .red op v, addr := .virt va, ty := ty, ord := o.ord, zue := false, kernel := s.me.ctl.kernel }
       let s0 := withMe s (s.me.commitPops [o.a, o.b])
       (va.toNat % ty.size ≠ 0 → exec i s = .next (ctlTrap .misalign va s)) ∧
       (va.toNat % ty.size = 0 → ∀ s1 t, s0.route s.cur r 0 = (s1, .ok t) → s0.checkRequest r = .ok () →
         exec i s = .next (ctlNext (s1.send (accessOf s.cur false r t .nowhere))))
     let int : Ty := match o.sz with | .b => .i8 | .h => .i16 | .w => .i32 | .d => .i64
     let flt : Ty := match o.sz with | .h => .f16 | .w => .f32 | _ => .f64
     sent (.redAdd o) int .add ∧ sent (.redAnd o) int .and ∧ sent (.redOr o) int .or ∧ sent (.redXor o) int .xor ∧
     sent (.redMin o) int .min ∧ sent (.redMax o) int .max ∧ sent (.redMinu o) int .minu ∧ sent (.redMaxu o) int .maxu ∧
     sent (.redFadd o) flt .fadd ∧ sent (.redFmin o) flt .fmin ∧ sent (.redFmax o) flt .fmax ∧
     sent (.redBfadd o) .bf16 .fadd ∧ sent (.redBfmin o) .bf16 .fmin ∧ sent (.redBfmax o) .bf16 .fmax ∧
     (∀ (k : Nat) (a : Access) (op : AmoOp) (w : Word) (s1 : State) (r : Result),
       s.flight[k]? = some a → a.req.op = .red op w → a.back = .nowhere → a.parked = false → a.barrier = none →
       s.mayPerform k a = true → s.performHome a = (s1, .done r) →
       exec (.reductionApplied k) s = .next { s1 with flight := dropNth s1.flight k }))

/-- R30, R201, R241, R261 to R264. What an access does at its home, on an integer element whose granule is sound and whose core
has no injected error armed: a load brings the sign-extended datum, a store leaves its low bytes, an atomic brings the old datum
and leaves the new one, a reduction leaves the new one, `cas` stores where the bytes are equal; a byte outside the element
stays. -/
def Obligations.HomeEffects : Prop :=
  ∀ (s : State) (c k : Nat) (r : Req) (w : Nat),
    (r.ty = .i8 ∧ w = 8) ∨ (r.ty = .i16 ∧ w = 16) ∨ (r.ty = .i32 ∧ w = 32) ∨ (r.ty = .i64 ∧ w = 64) →
    s.poisoned k (w / 8) = false → (∀ x, (s.core x).csr.errinj.toNat % 2 = 0) →
    let p := s.performKey c r k
    let old : BitVec w := BitVec.ofNat w (s.readNat k (w / 8))
    let new : BitVec w := BitVec.ofNat w (p.1.readNat k (w / 8))
    let least (f : BitVec w → Int) (u : BitVec w) : BitVec w := if f u < f old then u else old
    let most (f : BitVec w → Int) (u : BitVec w) : BitVec w := if f old < f u then u else old
    let result (op : AmoOp) (u : BitVec w) : Option (BitVec w) := match op with
      | .swap => some u | .add => some (old + u) | .and => some (old &&& u) | .or => some (old ||| u)
      | .xor => some (old ^^^ u) | .min => some (least (·.toInt) u) | .max => some (most (·.toInt) u)
      | .minu => some (least (fun x => (x.toNat : Int)) u) | .maxu => some (most (fun x => (x.toNat : Int)) u)
      | _ => none
    (∀ j, j < k ∨ k + w / 8 ≤ j → p.1.readByte j = s.readByte j) ∧
    (match r.op with
      | .load => new = old ∧ p.2.datum = .value (old.signExtend 64)
      | .store v => new = v.setWidth w ∧ p.2.datum = .absent
      | .amo op v => ∀ u, result op (v.setWidth w) = some u → new = u ∧ p.2.datum = .value (old.signExtend 64)
      | .red op v => ∀ u, result op (v.setWidth w) = some u → new = u ∧ p.2.datum = .absent
      | .cas e v => new = (if old = e.setWidth w then v.setWidth w else old) ∧ p.2.datum = .value (old.signExtend 64))

/-- R250, R257, R266, R400. The fences issue once what they wait for is done and stall before; a `fence.rel` issues at once,
leaving a mark that later stores wait for; what a fence waits for of the vector stream is what the eras before its own hold; a token passes a stop beyond which no earlier store is unperformed; the host's
acknowledgement ends a core's writes to it; `wait` traps FORWARD_WAIT for a number not pushed and stalls for one not completed.
-/
def Obligations.FencesAndWaits : Prop :=
  ∀ (s : State) (scope : Scope),
    let era := s.me.vec.era
    (s.loadsClear s.cur s.nextId era = true → exec (.fenceAcq scope) s = .next (ctlNext s)) ∧
    (s.loadsClear s.cur s.nextId era = false → exec (.fenceAcq scope) s = .next (ctlHeld .other s)) ∧
    (s.me.lost = none →
      (s.fenceClear s.cur s.nextId era true scope = true → exec (.fenceFull scope) s = .next (ctlNext s)) ∧
      (s.fenceClear s.cur s.nextId era false scope = true → exec (.fenceRel scope) s = .next (ctlNext s)) ∧
      (s.fenceClear s.cur s.nextId era false scope = false →
        exec (.fenceRel scope) s = .next (ctlNext (s.send (barrierOf s.cur era scope))))) ∧
    (s.fenceClear s.cur s.nextId era true scope = false → exec (.fenceFull scope) s = .next (ctlHeld .other s)) ∧
    (∀ (k p : Nat) (r : List Nat) (t : Token), s.tokens[k]? = some t → t.stops = p :: r →
      (∀ a ∈ s.flight, a.core = t.core → a.id < t.before → a.isWrite = true → stopOf (s.keyOf a.place) ≠ p) →
      exec (.fenceTokenForward k) s =
        .next { s with tokens := if r = [] then dropNth s.tokens k else setNth s.tokens k { t with stops := r } }) ∧
    (∀ (c : Nat) (x : Pkg), s.pkg? (pkgOf c) = some x →
      exec (.zeroLengthReadCompletion c) s =
        .next (s.setPkg (pkgOf c) { x with hostWrites := x.hostWrites.filter (· != c) })) ∧
    (∀ (q : Fin 6) (r : Src) (v : Word) (y : Core), s.me.src1 r = .ok (v, y) →
      let n : BitVec 32 := v.setWidth 32
      (2 ^ 31 ≤ (s.me.csr.pseq[q] - n).toNat → exec (.wait q r) s = .next (ctlTrap .forwardWait (n.setWidth 64) s)) ∧
      ((s.me.csr.pseq[q] - n).toNat < 2 ^ 31 → 2 ^ 31 ≤ (s.me.csr.seq[q] - n).toNat →
        exec (.wait q r) s = .next (ctlHeld .other s)) ∧
      ((s.me.csr.pseq[q] - n).toNat < 2 ^ 31 → (s.me.csr.seq[q] - n).toNat < 2 ^ 31 →
        exec (.wait q r) s = .next (ctlNext (withMe s y))))

/-- R207, R209, R212, R267 to R269, R272, R206, R214, R216 to R218. `tnew` makes the lowest open entry a FILLING tile of the
region and puts its fill handle, and a see handle where one is asked for, into null registers; a region that breaks R206 or
meets another is PERM. `hdup` counts a see reference at each home and copies; `hdrop` sends the drop and leaves null; `hinfo`
gives the information word. At its home, publication takes a live FILLING tile with see references to PUBLISHED and clears its
fill bit, abandonment takes it to POISONED, and either frees one with no see reference; the loss of the last see reference of a
PUBLISHED or POISONED tile frees it. Freeing increments the generation. That the INFO of `tnew`'s PERM is its base operand is the
model's choice (entry 77), and so is that its effect stands at issue (entry 16). -/
def Obligations.TileHandles : Prop :=
  (∀ s : State,
     (∀ (hf : Fin 16) (hs : Option (Fin 16)) (ra rb : Src) (a b : Word) (y : Core),
       s.me.src2 ra rb = .ok (a, b, y) → s.me.ctl.h[hf] = .null → (∀ h, hs = some h → s.me.ctl.h[h] = .null ∧ h ≠ hf) →
       let fits := a.toNat % 64 = 0 ∧ b.toNat % 64 = 0 ∧ 64 ≤ b.toNat ∧ b.toNat ≤ 0x10_0000 ∧ a.toNat + b.toNat ≤ 0x20_0000
       (¬ fits ∨ s.me.regionUsed a.toNat b.toNat = true → exec (.tnew hf hs ra rb) s = .next (ctlTrap .perm a s)) ∧
       (fits → s.me.regionUsed a.toNat b.toNat = false → s.me.openTiles = [] →
         exec (.tnew hf hs ra rb) s = .next (ctlHeld (.queue 16) s)) ∧
       (fits → s.me.regionUsed a.toNat b.toNat = false → ∀ n rest, s.me.openTiles = n :: rest →
         ∃ t, exec (.tnew hf hs ra rb) s = .next t ∧ t.me.ctl.pc = s.me.ctl.pc + 8 ∧
           (t.me.tile n).base = a.toNat ∧ (t.me.tile n).size = b.toNat ∧ (t.me.tile n).st = .filling ∧
           (t.me.tile n).fill = true ∧ (t.me.tile n).see = (if hs.isSome then 1 else 0) ∧
           (t.me.tile n).gen = (s.me.tile n).gen ∧ (∀ m, m ≠ n → t.me.tile m = s.me.tile m) ∧
           t.me.ctl.h[hf] = .fill (s.refOf s.cur n) ∧ (∀ h, hs = some h → t.me.ctl.h[h] = .see (s.refOf s.cur n)) ∧
           (∀ h, h ≠ hf → hs ≠ some h → t.me.ctl.h[h] = s.me.ctl.h[h]) ∧ t.me.ctl.s = s.me.ctl.s ∧ t.mem = s.mem)) ∧
     (∀ (hd ha : Fin 16), s.me.ctl.h[hd] = .null → s.me.ctl.h[ha].isSee = true →
       s.checkLive s.me.ctl.h[ha].sees (BitVec.ofNat 64 ha.val) = .ok () →
       exec (.hdup hd ha) s =
         .next (ctlNext ((s.me.ctl.h[ha].sees.foldl State.addSee s).onMe fun x => x.putHandle hd s.me.ctl.h[ha]))) ∧
     (∀ (hd ha : Fin 16), s.me.ctl.h[hd] ≠ .null → exec (.hdup hd ha) s = .next (ctlTrap .badHandle (BitVec.ofNat 64 hd.val) s)) ∧
     (∀ h : Fin 16,
       (∀ r, s.me.ctl.h[h] = .fill r → s.checkLive [r] (BitVec.ofNat 64 h.val) = .ok () ∧ s.me.lost = none) →
       ((∀ r, s.me.ctl.h[h] ≠ .fill r) → s.checkLive s.me.ctl.h[h].sees (BitVec.ofNat 64 h.val) = .ok ()) →
       exec (.hdrop h) s = .next (ctlNext ((s.dropHandle s.cur s.me.ctl.h[h]).onMe fun x => x.putHandle h .null))) ∧
     (∀ (d : Fin 32) (h : Fin 16),
       (∀ r, (s.me.ctl.h[h] = .fill r ∨ r ∈ s.me.ctl.h[h].sees) → s.reaches s.cur r.core = true) →
       ∃ w, exec (.hinfo d h) s = .next (ctlNext (withMe s (s.me.putReg d w 1))) ∧
         (s.me.ctl.h[h] = .null → w = 0) ∧
         (∀ r, s.me.ctl.h[h] = .fill r ∨ s.me.ctl.h[h] = .see r →
           let x := s.tileOf r
           r.tile < 256 → s.live r = true → x.size % 64 = 0 → 64 ≤ x.size → x.size ≤ 0x10_0000 → x.base < 0x20_0000 →
             w.extractLsb' 52 12 = BitVec.ofNat 12 (s.pkg (r.core / 512)).member ∧
             w.extractLsb' 43 9 = BitVec.ofNat 9 (r.core % 512) ∧ w.extractLsb' 35 8 = BitVec.ofNat 8 r.tile ∧
             w.extractLsb' 21 14 = BitVec.ofNat 14 (x.size / 64 - 1) ∧ w.extractLsb' 6 15 = BitVec.ofNat 15 (x.base / 64) ∧
             w.extractLsb' 4 2 = BitVec.ofNat 2 x.st.code ∧ w.getLsbD 3 = x.ring.isSome ∧
             w.extractLsb' 0 3 = (match s.me.ctl.h[h] with | .fill _ => 1 | _ => 2)))) ∧
  (∀ (s : State) (r : TileRef),
     let x := s.tileOf r
     s.live r = true →
     (x.st = .filling → ∀ f st, (f = State.publish ∧ st = TileSt.published) ∨ (f = State.abandon ∧ st = .poisoned) →
       let y := (f s r).tileOf r
       (0 < x.see → y.st = st ∧ y.fill = false ∧ y.parked = [] ∧ y.gen = x.gen ∧ y.see = x.see) ∧
       (x.see = 0 → y.st = .free ∧ y.fill = false ∧ y.gen = x.gen + 1)) ∧
     (let y := (s.loseSee r).tileOf r;
       (1 < x.see → y.see = x.see - 1 ∧ y.st = x.st ∧ y.gen = x.gen) ∧
       (x.see = 1 → (x.st = .published ∨ x.st = .poisoned) → y.st = .free ∧ y.gen = x.gen + 1) ∧
       (x.see = 1 → x.st = .filling → y.see = 0 ∧ y.st = .filling ∧ y.gen = x.gen)))

/-- R214, R216, R218, R219, R257, R270, R271, R391. A drop reaches its home once what it waits for is done and its tokens are through: a
fill drop publishes, that of an abandoned handle poisons, a see drop takes a reference away; a drop to a home that cannot be
reached is lost, and one without ring slots waits. `hsend` reserves a place, sends and waits; the arrival puts the handle into the mailbox and answers; the
word then completes, a fill handle having moved. `hrecv` takes the head of its mailbox and waits at an empty one. Which slots of the
rings a drop or a handle on its way needs, and that it waits where one is full (R384, R385), is the model's choice (entry 65). -/
def Obligations.HandleMessages : Prop :=
  ∀ s : State,
    (∀ (k n c : Nat) (r : TileRef) (poison : Bool), s.msgs[k]? = some (.fillDrop r c n poison) →
      let rest : State := { s with msgs := dropNth s.msgs k }
      exec (.fillDropAtHome k) s =
        .next (if poison = true ∨ s.released c n = true ∧ (∀ t ∈ s.tokens, t.core = c → t.before ≠ n) then
          (if s.reaches c r.core = false then rest
           else if s.mayGo c (spadKey r.core 0) = false ∨ s.behindSent c (pkgOf r.core) n (s.msgs.take k) s.chunks = true then s
           else if poison then rest.abandon r else rest.publish r) else s)) ∧
    (∀ (k n c : Nat) (r : TileRef), s.msgs[k]? = some (.seeDrop r c n) →
      let rest : State := { s with msgs := dropNth s.msgs k }
      exec (.seeDropAtHome k) s =
        .next (if s.readsDone c n r = false then s else if s.reaches c r.core = false then rest
          else if s.mayGo c (spadKey r.core 0) = false ∨ s.behindSent c (pkgOf r.core) n (s.msgs.take k) s.chunks = true then s
          else rest.loseSee r)) ∧
    (∀ (h : Fin 16) (b : Src) (m : Fin 4) (notify : Bool) (v : Word) (y : Core), s.me.src1 b = .ok (v, y) →
      (∀ p, s.me.ctl.reply = some p →
        exec (.hsend h b m notify) s =
          .next (ctlNext (withMe s (if s.me.ctl.h[h].isFill then y.putHandle h .null else y)))) ∧
      (s.me.ctl.reply = none → s.me.ctl.committed = false → ∀ d, s.rankTarget v = .ok d → s.me.ctl.h[h] ≠ .null →
        s.checkLive (match s.me.ctl.h[h] with | .fill t => [t] | x => x.sees) (BitVec.ofNat 64 h.val) = .ok () →
        (8 ≤ (s.core d).boxes[m].length + (s.core d).coming[m] →
          exec (.hsend h b m notify) s = .next (ctlHeld (.queue 16) s)) ∧
        ((s.core d).boxes[m].length + (s.core d).coming[m] < 8 →
          ∃ t, exec (.hsend h b m notify) s = .next t ∧ t.msgs = s.msgs ++ [.handle s.cur d m s.me.ctl.h[h] notify s.nextId] ∧
            (t.core d).coming[m] = (s.core d).coming[m] + 1 ∧ t.me.ctl.committed = true ∧ t.me.ctl.pc = s.me.ctl.pc ∧
            t.me.ctl.h = s.me.ctl.h))) ∧
    (∀ (k src dst n : Nat) (m : Fin 4) (h : Handle) (notify : Bool), s.msgs[k]? = some (.handle src dst m h notify n) →
      (∀ r, h = .fill r → s.tileStoresDone src r = true) → s.reaches src dst = true → s.mayGo src (spadKey dst 0) = true →
      s.behindSent src (pkgOf dst) n (s.msgs.take k) s.chunks = false →
      ∃ t, exec (.handleMailboxArrival k) s = .next t ∧ t.msgs = dropNth s.msgs k ∧
        (t.core dst).boxes[m] = (s.core dst).boxes[m] ++ [h] ∧ (t.core dst).coming[m] = (s.core dst).coming[m] - 1 ∧
        (t.core src).ctl.reply = some { handle := .null, status := 0 } ∧
        (notify = true → (t.core dst).csr.uie.getLsbD 35 = true ∧ (t.core dst).events.vals[3] = BitVec.ofNat 64 m.val)) ∧
    (∀ (h : Fin 16) (m : Fin 4),
      (s.me.ctl.h[h] ≠ .null → exec (.hrecv h m) s = .next (ctlTrap .badHandle (BitVec.ofNat 64 h.val) s)) ∧
      (s.me.ctl.h[h] = .null → s.me.boxes[m] = [] → exec (.hrecv h m) s = .next (ctlHeld (.queue 16) s)) ∧
      (s.me.ctl.h[h] = .null → ∀ v r, s.me.boxes[m] = v :: r →
        exec (.hrecv h m) s = .next (ctlNext (withMe s (Core.putHandle { s.me with boxes := s.me.boxes.set m r } h v)))))

/-- R220 to R224, R273 to R277. `tring` reserves the lowest open entries as slots of a new ring with its counters 0. `tclaim`
waits at the home; a grant makes the slot of CLAIMED FILLING with a share for each consumer and answers the first waiter; the
word then takes the handle and the claim number; a closed ring gives null and all ones. `tnext` takes the next claim of its
cursor, and waits at the ring for it. `tclose` closes the ring and answers every waiter with null; a ring at its end is deleted,
and a `tnext` that waits there is answered with null. That `tclose` answers every waiter, and an ended ring goes with its waiting
`tnext` answered, in the one move is the model's choice (entry 83), and so is that an effect stands at issue (entry 16). -/
def Obligations.Rings : Prop :=
  ∀ s : State,
    (∀ (ra rb : Src) (sm1 c : Fin 64) (r : Fin 16) (a b : Word) (y : Core), s.me.src2 ra rb = .ok (a, b, y) →
      let n := sm1.val + 1
      let slots := s.me.openTiles.take n
      s.me.rings.find r.val = none → s.me.rings.length < 16 → c ≠ 0 →
      tileFits a.toNat b.toNat (b.toNat * n) = true → s.me.regionUsed a.toNat (b.toNat * n) = false → slots.length = n →
      ∃ t, exec (.tring ra rb sm1 c r) s = .next t ∧ t.me.ctl.pc = s.me.ctl.pc + 8 ∧
        t.me.rings.find r.val = some { base := a.toNat, size := b.toNat, slots := slots, c := c.val, claimed := 0
                                       arrived := 0, next := List.replicate c.val 0, closed := false, waiters := []
                                       readers := [] } ∧
        ∀ i n, slots[i]? = some n → (t.me.tile n).ring = some r ∧ (t.me.tile n).base = a.toNat + b.toNat * i ∧
          (t.me.tile n).size = b.toNat ∧ (t.me.tile n).st = .free) ∧
    (∀ (h : Fin 16) (ra : Src) (r : Fin 16) (sd : Fin 32) (a : Word) (y : Core), s.me.src1 ra = .ok (a, y) →
      (∀ p, s.me.ctl.reply = some p →
        exec (.tclaim h ra r sd) s = .next (ctlNext (withMe s ((y.putHandle h p.handle).putReg sd p.status 1)))) ∧
      (s.me.ctl.reply = none → s.me.ctl.h[h] = .null → ∀ c g, s.ringAt a r = .ok (c, g) →
        (g.closed = true → exec (.tclaim h ra r sd) s =
          .next (ctlNext (withMe s ((y.putHandle h .null).putReg sd (BitVec.allOnes 64) 1)))) ∧
        (g.closed = false → s.me.ctl.asked = true → exec (.tclaim h ra r sd) s = .next (ctlHeld (.queue 16) s)) ∧
        (g.closed = false → s.me.ctl.asked = false → ∃ t, exec (.tclaim h ra r sd) s = .next t ∧
          t.me.ctl.asked = true ∧ t.me.ctl.pc = s.me.ctl.pc ∧
          (t.core c).rings.find r.val = some { g with waiters := g.waiters ++ [s.cur] }))) ∧
    (∀ (c w n : Nat) (r : Fin 16) (g : Ring) (rest : List Nat), (s.core c).rings.find r.val = some g →
      g.waiters = w :: rest → g.closed = false → g.slots[g.claimed.toNat % g.slots.length]? = some n →
      ((s.core c).tile n).st = .free →
      ∃ t, exec (.tclaimGrant c r) s = .next t ∧ ((t.core c).tile n).st = .filling ∧ ((t.core c).tile n).see = g.c ∧
        ((t.core c).tile n).fill = true ∧
        (t.core c).rings.find r.val = some { g with claimed := g.claimed + 1, waiters := rest } ∧
        (t.core w).ctl.reply = some { handle := .fill { core := c, tile := n, gen := ((s.core c).tile n).gen }
                                      status := g.claimed }) ∧
    (∀ (h : Fin 16) (ra : Src) (r : Fin 16) (j : Fin 64) (sd : Fin 32) (a : Word) (y : Core), s.me.src1 ra = .ok (a, y) →
      (∀ p, s.me.ctl.reply = some p →
        exec (.tnext h ra r j sd) s = .next (ctlNext (withMe s ((y.putHandle h p.handle).putReg sd p.status 1)))) ∧
      (s.me.ctl.reply = none → s.me.ctl.h[h] = .null → ∀ (c : Nat) (n : Word) (g : Ring), s.ringAt a r = .ok (c, g) →
        g.next[j.val]? = some n →
        let others := g.readers.filter fun q => decide (q.core ≠ s.cur)
        (n.toNat < g.claimed.toNat → ∃ t, exec (.tnext h ra r j sd) s = .next t ∧ t.me.ctl.pc = s.me.ctl.pc + 8 ∧
          t.me.ctl.h[h] = .see (s.refOf c (g.slots.getD (n.toNat % g.slots.length) 0)) ∧
          (sd ≠ 0 → t.me.ctl.s[sd] = n) ∧
          (t.core c).rings.find r.val = some { g with next := setNth g.next j.val (n + 1), readers := others }) ∧
        (g.claimed.toNat ≤ n.toNat → g.closed = true → ∃ t, exec (.tnext h ra r j sd) s = .next t ∧
          t.me.ctl.pc = s.me.ctl.pc + 8 ∧ t.me.ctl.h[h] = .null ∧ (sd ≠ 0 → t.me.ctl.s[sd] = BitVec.allOnes 64) ∧
          (t.core c).rings.find r.val = some { g with readers := others }) ∧
        (g.claimed.toNat ≤ n.toNat → g.closed = false → s.me.ctl.asked = true →
          exec (.tnext h ra r j sd) s = .next (ctlHeld (.queue 16) s)) ∧
        (g.claimed.toNat ≤ n.toNat → g.closed = false → s.me.ctl.asked = false → ∃ t, exec (.tnext h ra r j sd) s = .next t ∧
          t.me.ctl.asked = true ∧ t.me.ctl.pc = s.me.ctl.pc ∧ (t.core c).rings.find r.val =
            some { g with readers := g.readers ++ [{ core := s.cur, cursor := some j.val, round := n }] }))) ∧
    (∀ (ra : Src) (r : Fin 16) (a : Word) (y : Core) (c : Nat) (g : Ring),
      s.me.src1 ra = .ok (a, y) → s.ringAt a r = .ok (c, g) →
      ∃ t, exec (.tclose ra r) s = .next t ∧ t.me.ctl.pc = s.me.ctl.pc + 8 ∧
        (∀ w ∈ g.waiters, (t.core w).ctl.reply = some { handle := .null, status := BitVec.allOnes 64 } ∨ w = s.cur) ∧
        ((∀ i ∈ g.slots, ((s.core c).tile i).st = .free) → (∀ n ∈ g.next, n = g.claimed) →
          (t.core c).rings = Tab.del ((s.core c).rings.put r.val { g with closed := true, waiters := [] }) r.val ∧
          ∀ q ∈ g.readers, q.cursor ≠ none → q.core ≠ s.cur →
            (t.core q.core).ctl.reply = some { handle := .null, status := BitVec.allOnes 64 }) ∧
        (∀ i ∈ g.slots, ((s.core c).tile i).st ≠ .free →
          (t.core c).rings.find r.val = some { g with closed := true, waiters := [] }))

/-- R227 to R236, R238, R278 to R280. A `gdef` whose checks pass installs its group for the partition and a `gdel` of a group
that no live handle names removes it; `gsee` takes a share at the cursor of every ring and gives a group see handle, or null
where a closed ring has been passed. A leaf is read once, an absent or padding position stays empty, and the load returns once
every leaf is read. -/
def Obligations.Groups : Prop :=
  ∀ s : State,
    (∀ (ra rb : Src) (id rec_ : Word) (y : Core) (s1 s2 : State) (head list : List Byte) (k : Nat),
      s.me.src2 ra rb = .ok (id, rec_, y) → id.toNat < 4096 → rec_.toNat % 8 = 0 → s.me.accessReady = true →
      s.released s.cur s.nextId = true → s.checkReads s.me.ctl.kernel rec_ 16 = .ok () → s.me.lost = none → s.group? s.cur id.toNat = none → s.partOfCore s.cur = some k →
      s.readVirt s.cur s.me.ctl.kernel rec_ 16 = (s1, .ok head) →
      let w := at_ head 0 8
      let n := w / 2 ^ 16 % 2 ^ 17
      groupWordOk w = true → (wordAt head 8).toNat % 4 = 0 →
      s.noneAtAll s.cur (s.keysOf s.cur s.me.ctl.kernel .load (.virt rec_) 16) = true →
      s.noneAtAll s.cur (s.keysOf s.cur s.me.ctl.kernel .load (.virt (wordAt head 8)) (4 * n)) = true →
      s.checkReads s.me.ctl.kernel (wordAt head 8) (4 * n) = .ok () →
      s1.readVirt s.cur s.me.ctl.kernel (wordAt head 8) (4 * n) = (s2, .ok list) →
      (∀ m ∈ words32 list, m = 0xFFFFFFFF ∨ m.toNat < s.me.csr.ncores.toNat) → (s.part k).members + n ≤ 1048576 →
      ∃ t, exec (.gdef ra rb) s = .next t ∧ t.me.ctl.pc = s.me.ctl.pc + 8 ∧ t.mem = s.mem ∧
        (t.part k).groups.find id.toNat =
          some { members := words32 list, skip := w / 256 % 4 == 1, acc := w / 16 % 16, op := w % 16 }) ∧
    (∀ (ra : Src) (id : Word) (y : Core) (k : Nat), s.me.src1 ra = .ok (id, y) → s.partOfCore s.cur = some k →
      (id.toNat < 4096 ∧ (s.part k).groups.find id.toNat ≠ none ∧ s.groupHeld k id.toNat = false →
        exec (.gdel ra) s =
          .next (ctlNext ((withMe s y).modPart k fun p => { p with groups := Tab.del p.groups id.toNat }))) ∧
      (¬ (id.toNat < 4096 ∧ (s.part k).groups.find id.toNat ≠ none ∧ s.groupHeld k id.toNat = false) →
        exec (.gdel ra) s = .next (ctlTrap .perm id s))) ∧
    (∀ (h : Fin 16) (ra rb : Src) (r : Fin 16) (j : Fin 64) (sd : Fin 32) (id n : Word) (y : Core) (g : Group),
      s.me.src2 ra rb = .ok (id, n, y) → s.me.ctl.h[h] = .null → id.toNat < 4096 → s.group? s.cur id.toNat = some g →
      s.me.ctl.drained = [] →
      let left (q : Ring) : Ring := { q with readers := q.readers.filter fun x => decide (x.core ≠ s.cur) }
      let cores := s.memberCores g
      (∀ d, some d ∈ cores → s.memberRing r d = none → g.skip = true) →
      (∀ d q, some d ∈ cores → s.memberRing r d = some q → j.val < q.c) →
      ((∀ d q, some d ∈ cores → s.memberRing r d = some q → n.toNat < q.claimed.toNat ∧ q.next[j.val]? = some n) →
        ∃ t hd, exec (.gsee h ra rb r j sd) s = .next t ∧ t.me.ctl.pc = s.me.ctl.pc + 8 ∧ t.me.ctl.h[h] = .gsee hd ∧
          hd.gid = id.setWidth 12 ∧ hd.ring = r ∧ hd.round = n ∧ (sd ≠ 0 → t.me.ctl.s[sd] = n) ∧
          (∀ d q, some d ∈ cores → s.memberRing r d = some q →
            (t.core d).rings.find r.val = some { left q with next := setNth q.next j.val (n + 1) }) ∧
          hd.slots = cores.map fun d => d.bind fun d => (s.memberRing r d).map fun q =>
            s.refOf d (q.slots.getD (n.toNat % q.slots.length) 0)) ∧
      ((∀ d q, some d ∈ cores → s.memberRing r d = some q → n.toNat < q.claimed.toNat ∨ q.closed = true) →
        (∃ d q, some d ∈ cores ∧ s.memberRing r d = some q ∧ q.closed = true ∧ q.claimed.toNat ≤ n.toNat) →
        ∃ t, exec (.gsee h ra rb r j sd) s = .next t ∧ t.me.ctl.pc = s.me.ctl.pc + 8 ∧ t.me.ctl.h[h] = .null ∧
          (sd ≠ 0 → t.me.ctl.s[sd] = BitVec.allOnes 64) ∧
          ∀ d q, some d ∈ cores → s.memberRing r d = some q → (t.core d).rings.find r.val = some (left q)) ∧
      ((∃ d q, some d ∈ cores ∧ s.memberRing r d = some q ∧ q.claimed.toNat ≤ n.toNat ∧ q.closed = false) →
        (s.me.ctl.asked = true → exec (.gsee h ra rb r j sd) s = .next (ctlHeld (.queue 16) s)) ∧
        (s.me.ctl.asked = false → ∃ t, exec (.gsee h ra rb r j sd) s = .next t ∧ t.me.ctl.pc = s.me.ctl.pc ∧
          t.me.ctl.asked = true ∧ ∀ d q, some d ∈ cores → s.memberRing r d = some q → (t.core d).rings.find r.val =
            some { q with readers := q.readers ++ [{ core := s.cur, cursor := none, round := n }] }))) ∧
    (∀ (k m : Nat) (g : GLoad) (w : BitVec 32), s.gloads[k]? = some g → g.fault = none → s.gloadReady g = true →
      s.poisonedSlot g = none → g.leaves[m]? = some .unread → g.group.members[m]? = some w →
      (w = 0xFFFFFFFF → exec (.groupLeafRead k m) s =
        .next (s.setGload k { g with leaves := setNth g.leaves m .empty, flags := g.flags ||| 0, nan := g.nan || false })) ∧
      (∀ x d, w ≠ 0xFFFFFFFF → g.slots[m]? = some (some x) → s.rankCore g.core w.toNat = some d →
        (s.reaches g.core d = true → s.mayGo g.core (spadKey d x) = true →
          s.behindSent g.core (pkgOf d) g.id s.msgs s.chunks = false →
          let s1 := s.onRead g.core (s.leafKey g d x)
          let r := s1.leafAt g m d x
          exec (.groupLeafRead k m) s = .next (s1.setGload k
            { g with leaves := setNth g.leaves m r.1, flags := g.flags ||| r.2.1, nan := g.nan || r.2.2 })) ∧
        (s.reaches g.core d = false → exec (.groupLeafRead k m) s = .next (s.setGload k
          { g with leaves := setNth g.leaves m (if g.group.skip then .empty else .absent), flags := g.flags ||| 0
                   nan := g.nan || false })))) ∧
    (∀ (k : Nat) (g : GLoad), s.gloads[k]? = some g → g.fault = none → s.poisonedSlot g = none →
      (∀ l ∈ g.leaves, l ≠ .unread) →
      (∀ b, g.dest = .queue b → exec (.groupLoadReturn k) s =
        .next (State.deliver { s with gloads := dropNth s.gloads k } g.core b g.outcome)) ∧
      (∀ b, g.dest = .blocking → (s.core g.core).ctl.blk = some b → b.id = g.id → b.left = 0 →
        ∀ v, g.outcome.datum = .value v → ∃ t, exec (.groupLoadReturn k) s = .next t ∧
          t.gloads = dropNth s.gloads k ∧ (t.core g.core).ctl.blk = none ∧
          (t.core g.core).ctl.pc = (s.core g.core).ctl.pc + 8 ∧
          (t.core g.core).ctl.s = ((s.core g.core).ctl.setReg (Fin.ofNat 32 b.d) v).s ∧
          (t.core g.core).csr.fsr = (s.core g.core).csr.fsr ||| g.outcome.flags.setWidth 64))

/-- R233, R235, R142. A group load that adds integers delivers the sum of its members' leaves, modulo the width of its type, wherever
padding and skipped members stand among them; with no leaf at all it is GROUP_EMPTY. An integer fold by adding is the sum of the
active lanes, modulo the width of its type, whatever the tree. -/
def Obligations.FixedOrderSums : Prop :=
  (∀ g : GLoad, g.group.op = 3 → (g.group.acc = 2 ∨ g.group.acc = 3) → g.ty.isInt = true →
     g.leaves.length ≤ 65536 → (∀ l ∈ g.leaves, l = .empty ∨ ∃ v, l = .value v) →
     let values := g.leaves.filterMap fun l => match l with | .value v => some v | _ => none
     (values ≠ [] → ∃ v, g.outcome.datum = .value v ∧ v.toNat % 2 ^ g.ty.width = values.sum.toNat % 2 ^ g.ty.width) ∧
     (values = [] → ∃ i, g.outcome.datum = .fault { cause := .groupEmpty, info := i })) ∧
  (∀ (ty : Ty) (m : Mask) (f : Nat → Word) (r : Lane), ty.isInt = true →
     treeFold (foldNode (laneBin .add ty .rne)) 6 ((upto 64).map fun i => if active m i then some (plainLane (f i)) else none)
       = some r →
     r.v.toNat % 2 ^ ty.width = (((upto 64).filter fun i => active m i).map f).sum.toNat % 2 ^ ty.width ∧ r.fl = 0)

/-- R168 to R170, R281 to R283. `spawn` writes its record at the tail of the node queue and moves the tail; a full queue holds
it and an id of no node is PERM. `join` takes one off the counter of its frame and leaves it in d; the last one pushes the
frame's record; a counter of 0 is PERM. `enq` adds a chain entry to the queue of a core, and a full queue holds it. -/
def Obligations.Tasks : Prop :=
  ∀ s : State,
    (∀ (ra : Src) (b : Fin 32) (id w0 w1 w2 w3 : Word) (y : Core),
      s.me.srcs [ra, .reg b, .reg (b + 1), .reg (b + 2), .reg (b + 3)] = .ok ([id, w0, w1, w2, w3], y) →
      (s.nodeQueue s.cur id = none → exec (.spawn ra b) s = .next (ctlTrap .perm id s)) ∧
      (∀ q k, s.nodeQueue s.cur id = some q → s.awaitRelease q.scope = .ok () →
        (withMe s y).queueKeys s.cur q = .ok k →
        (2 ^ q.log ≤ (withMe s y).queueLoad k → exec (.spawn ra b) s = .next (ctlHeld (.queue 16) s)) ∧
        (∀ r, (withMe s y).queueLoad k < 2 ^ q.log → k.record ((withMe s y).readWord k.tail).toNat = .ok r →
          (withMe s y).writeHeld r = false → (withMe s y).writeHeld k.tail = false →
          exec (.spawn ra b) s = .next (ctlNext ((((((withMe s y).countQueue k r).write r
            (leBytes 8 w0.toNat ++ leBytes 8 w1.toNat ++ leBytes 8 w2.toNat ++ leBytes 8 w3.toNat)).noteHost s.cur r).writeNat k.tail 8
              ((withMe s y).readWord k.tail + 1).toNat).noteHost s.cur k.tail))))) ∧
    (∀ (d : Fin 32) (ra : Src) (f : Word) (y : Core) (s1 s2 s3 : State) (k0 k1 k2 : Nat),
      s.me.src1 ra = .ok (f, y) → f.toNat % 8 = 0 → s.frameWord f .load = (s1, .ok k0) →
      s1.frameWord (f + 8) .both = (s2, .ok k1) → s2.frameWord (f + 16) .load = (s3, .ok k2) →
      s.checkOverlap k0 8 false f = .ok () → s.checkOverlap k1 8 true (f + 8) = .ok () →
      s.checkOverlap k2 8 false (f + 16) = .ok () → s3.poisoned k1 8 = false → s3.writeHeld k1 = false →
      s3.noneAtAll s.cur [(k0, 8), (k1, 8), (k2, 8)] = true →
      let c := s3.readWord k1
      let q? := s3.nodeQueue s.cur (s3.readWord k2)
      s.awaitRelease (match q? with | some q => q.scope | none => .dom) = .ok () →
      let count (t : State) : State :=
        (((t.setCore s.cur y).writeNat k1 8 (c - 1).toNat).noteHost s.cur k1).onMe fun x => x.putReg d (c - 1) 1
      (c = 0 → exec (.join d ra) s = .next (ctlTrap .perm f s)) ∧
      (c ≠ 0 → c ≠ 1 → exec (.join d ra) s = .next (ctlNext (count s3))) ∧
      (c = 1 → s3.poisoned k0 8 = false → s3.poisoned k2 8 = false →
        s3.noneAtAll s.cur (s3.keysOf s.cur s.me.ctl.kernel .load (.virt (s3.readWord k0)) 32) = true →
        s3.checkReads s.me.ctl.kernel (s3.readWord k0) 32 = .ok () → ∀ q s4 bytes k r, q? = some q →
        s3.readVirtual s.cur s.me.ctl.kernel ((EAddr.virt (s3.readWord k0)).pieces 32) = (s4, .ok bytes) →
        s4.queueKeys s.cur q = .ok k → s4.queueLoad k < 2 ^ q.log →
        k.record (s4.readWord k.tail).toNat = .ok r → s4.writeHeld r = false → s4.writeHeld k.tail = false →
        exec (.join d ra) s = .next (ctlNext (count (s4.pushRecord s.cur k r bytes))))) ∧
    (∀ (ra rb : Src) (q : Fin 6) (rank a : Word) (y : Core) (d : Nat),
      s.me.src2 ra rb = .ok (rank, a, y) → s.rankTarget rank = .ok d → s.awaitRelease .dom = .ok () →
      (a.toNat % 8 ≠ 0 → exec (.enq ra rb q) s = .next (ctlTrap .misalign a s)) ∧
      (a.toNat % 8 = 0 → (if q.val < 4 then 16 else 8) ≤ (s.core d).queues[q].entries.length →
        exec (.enq ra rb q) s = .next (ctlHeld (.queue (if d = s.cur then q.val else 16)) s)) ∧
      (a.toNat % 8 = 0 → (s.core d).queues[q].entries.length < (if q.val < 4 then 16 else 8) →
        ∃ t, exec (.enq ra rb q) s = .next t ∧ t.me.ctl.pc = s.me.ctl.pc + 8 ∧ t.mem = s.mem ∧
          (t.core d).queues[q].entries = (s.core d).queues[q].entries ++
            [.chain a s.cur s.me.ctl.kernel s.nextId s.me.vec.era none none 0]))

/-- R194, R284, R285. With keys of 48 bits: `bt.alloc` puts a new key on the lowest free block with count 1 and gives the
block's window address, 0 where none is free; `bt.free` takes a key off and gives the count that is left; `bt.share` puts a
second key on a block; `bt.xl` gives the window address of a key's block, 0 where there is none. A key that is in the way, or
missing, is PERM. -/
def Obligations.BlockTable : Prop :=
  ∀ (s : State) (d : Fin 32) (ra rb : Src) (k k2 : Word) (y : Core),
    s.awaitRelease .pkg = .ok () → k.toNat < 2 ^ 48 → k2.toNat < 2 ^ 48 →
    let b := s.btStore s.cur
    let window (n : Nat) : Word := BitVec.ofNat 64 (0x00D0_0000_0000_0000 + n * 0x1_0000)
    let done (b' : BtStore) (w : Word) : Out :=
      .next (ctlNext (((withMe s y).setBt s.cur b').onMe fun x => x.putReg d w 1))
    (s.me.srcs [ra] = .ok ([k], y) →
      (b.keys.find k.toNat ≠ none → exec (.btAlloc d ra) s = .next (ctlTrap .perm k s)) ∧
      (b.keys.find k.toNat = none → b.lowest (s.btBlocks s.cur) = none → exec (.btAlloc d ra) s = done b 0) ∧
      (∀ n, b.keys.find k.toNat = none → b.lowest (s.btBlocks s.cur) = some n → exec (.btAlloc d ra) s =
        done { keys := b.keys.put k.toNat n, counts := b.counts.put n 1 } (window n)) ∧
      (b.keys.find k.toNat = none → exec (.btFree d ra) s = .next (ctlTrap .perm k s) ∧ exec (.btXl d ra) s = done b 0) ∧
      (∀ n c, b.keys.find k.toNat = some n → b.counts.find n = some c →
        exec (.btFree d ra) s =
          done { keys := Tab.del b.keys k.toNat
                 counts := if c - 1 = 0 then Tab.del b.counts n else b.counts.put n (c - 1) } (BitVec.ofNat 64 (c - 1)) ∧
        exec (.btXl d ra) s = done b (window n))) ∧
    (s.me.srcs [ra, rb] = .ok ([k, k2], y) →
      (b.keys.find k2.toNat = none → exec (.btShare d ra rb) s = .next (ctlTrap .perm k2 s)) ∧
      (∀ n c, b.keys.find k2.toNat = some n → b.counts.find n = some c →
        (b.keys.find k.toNat ≠ none ∨ 65535 ≤ c → exec (.btShare d ra rb) s = .next (ctlTrap .perm k s)) ∧
        (b.keys.find k.toNat = none → c < 65535 → exec (.btShare d ra rb) s =
          done { keys := b.keys.put k.toNat n, counts := b.counts.put n (c + 1) } (window n))))

/-- R35, R292, R293, R333, R336 to R341. Each carter word pushes its unit: five words, and five more with a follow-on. -/
def Obligations.CarterPushes : Prop :=
  ∀ e : CarterWord,
    let words := if e.follow.isSome then 10 else 5
    let as (i : Instr) (o : CarterOp) : Prop := pushes i (carterUnit e o) words fun _ _ => .carter o
    as (.cCopy e) .copy ∧ as (.cGath e) (.gath false) ∧ as (.cGathZ e) (.gath true) ∧ as (.cScat e) .scat ∧
    (∀ b, as (.cFill e b) (.fill b)) ∧ as (.cPut e) .put ∧ as (.cGet e) .get ∧ as (.cPin e) (.pin false) ∧
    as (.cPinOff e) (.pin true) ∧
    (∀ sz, as (.cRedAdd e sz) (.red .add (szTy sz)) ∧ as (.cRedAnd e sz) (.red .and (szTy sz)) ∧
      as (.cRedOr e sz) (.red .or (szTy sz)) ∧ as (.cRedXor e sz) (.red .xor (szTy sz)) ∧
      as (.cRedMin e sz) (.red .min (szTy sz)) ∧ as (.cRedMax e sz) (.red .max (szTy sz)) ∧
      as (.cRedMinu e sz) (.red .minu (szTy sz)) ∧ as (.cRedMaxu e sz) (.red .maxu (szTy sz)) ∧
      as (.cRedFadd e sz) (.red .fadd (fpTy sz)) ∧ as (.cRedFmin e sz) (.red .fmin (fpTy sz)) ∧
      as (.cRedFmax e sz) (.red .fmax (fpTy sz)) ∧ as (.cRedBfadd e sz) (.red .fadd .bf16) ∧
      as (.cRedBfmin e sz) (.red .fmin .bf16) ∧ as (.cRedBfmax e sz) (.red .fmax .bf16))

/-- R35, R292, R293, R298, R299, R333, R342 to R350. Each mill word and `q.wait` push a unit of five words, `q.fence` and
`q.sig` one of one word; a `q.fence` captures PSEQ of every queue of its mask but its own. -/
def Obligations.MillAndQueuePushes : Prop :=
  (∀ (e : MillWord) (p : Fin 2),
    let as (i : Instr) (m : MillCmd) : Prop := pushes i (millUnit e m) 5 fun _ _ => .mill m
    (∀ f, as (.mLds e p f) (.lds p f)) ∧ as (.mMm e p) (.mm p) ∧ (∀ r j t, as (.mMmr e p r j t) (.mmr p r j t)) ∧
    (∀ b n, as (.mRelax e p b n) (.relax p b n)) ∧ as (.mRelaxb e p) (.relaxb p) ∧ (∀ t, as (.mPwl e t) (.pwl t)) ∧
    (∀ l, as (.mChain e p l) (.chain p l))) ∧
  (∀ e : QWord,
    (∀ m p, pushes (.qWait e m p) (queueUnit e (.qwait m) p) 5 fun _ v => .qwait m (v.p0.setWidth 32)) ∧
    (∀ mask, pushes (.qFence e mask) (queueUnit e (.qfence mask) noParams) 1 fun x _ =>
      .qfence (((upto 6).filter fun i => mask.getLsbD i && i != e.q.val).map fun i => (i, x.csr.pseq.toList.getD i 0))) ∧
    pushes (.qSig e) (queueUnit e .qsig noParams) 1 fun _ _ => .qsig)

/-- R297 to R299, R301, R302, R307 to R310, R334, R341, R351. The head of a queue starts when it may: `q.sig` completes at once,
`q.wait` and `q.fence` when the numbers they name are reached, a carter or mill command begins its work or halts on what its
start checks find, and completes when its work is done, SEQ going forward only; a follow-on waits for room in its mill queue, with
the fill handle dropped. A chain reads its elements
one by one. `q.resume` starts a halted command again, one of a single row group as a whole, and traps PRIV at U. The follow-on that
waits with the fill handle dropped (entry 79), the order of the start checks (entry 41) and the restart of a single row group as a
whole (entry 50) are the model's choice. -/
def Obligations.QueueControl : Prop :=
  ∀ (s : State) (c : Nat) (q : Fin 6),
    let e := (s.core c).equeue q.val
    (∀ x, e.headCmd = some x → e.run = none →
      (s.canStart c q x = false → exec (.engineEntryStart c q) s = .next s) ∧
      (s.canStart c q x = true →
        (x.op = .qsig → e.entries.head? = some (.cmd x) → x.follow = none → x.hfill = none → x.hsee = none →
          ∃ t, exec (.engineEntryStart c q) s = .next t ∧ completed s t c q x false 0) ∧
        (((∃ m v, x.op = .qwait m v) ∨ ∃ l, x.op = .qfence l) → ∃ t r, exec (.engineEntryStart c q) s = .next t ∧
          (t.core c).queues[q].run = some r ∧ r.halted = none ∧ r.done = false ∧ t.mem = s.mem) ∧
        (((∃ o, x.op = .carter o) ∨ ∃ m, x.op = .mill m) →
          let s0 := s.modQueue c q.val fun e => { e with since := some 0 }
          let r : Run := { Run.fresh with fmts := s.ownFormats c }
          (∀ t, s0.startOverlap c q.val x = .error t →
            exec (.engineEntryStart c q) s = .next (s0.haltCmd c q.val x r.unstarted 0 t)) ∧
          (s0.startOverlap c q.val x = .ok () → ∀ s1 r1 t, s0.startWork c q x r = (s1, r1, some t) → r1.pos = 0 →
            exec (.engineEntryStart c q) s = .next (s1.haltCmd c q.val x r1.unstarted 0 t)) ∧
          (s0.startOverlap c q.val x = .ok () → ∀ s1 r1, s0.startWork c q x r = (s1, r1, none) →
            exec (.engineEntryStart c q) s = .next ((s1.remember c q.val x).setRun c q.val r1))))) ∧
    (∀ x r, e.working = some (x, r) → e.entries.head? = some (.cmd x) → x.follow = none → x.hfill = none → x.hsee = none →
      (∀ m v, x.op = .qwait m v →
        ((m = q ∨ seqReached (s.core c).csr.seq[m] v = true) →
          ∃ t, exec (.qWaitComplete c q) s = .next t ∧ completed s t c q x r.nonconv r.flags) ∧
        (m ≠ q → seqReached (s.core c).csr.seq[m] v = false → exec (.qWaitComplete c q) s = .next s)) ∧
      (∀ l, x.op = .qfence l →
        ((∀ n ∈ l, seqReached ((s.core c).csr.seq.toList.getD n.1 0) n.2 = true) →
          ∃ t, exec (.qFenceComplete c q) s = .next t ∧ completed s t c q x r.nonconv r.flags) ∧
        ((∃ n ∈ l, seqReached ((s.core c).csr.seq.toList.getD n.1 0) n.2 = false) →
          exec (.qFenceComplete c q) s = .next s))) ∧
    (∀ x r, e.entries.head? = some (.cmd x) → e.run = some r → r.done = true → r.halted = none →
      (s.core c).engineRuns = true →
      (x.follow = none → x.hfill = none → x.hsee = none → (x.cap.nantrap = true → r.nan = none) →
        ∃ t, exec (.commandComplete c q) s = .next t ∧ completed s t c q x r.nonconv r.flags) ∧
      (∀ f, x.follow = some f → 8 ≤ (s.core c).queues[millQ f.word.q].entries.length →
        exec (.commandComplete c q) s = .next (s.dropCmdFill c q.val x) ∧ (x.hfill = none → exec (.commandComplete c q) s = .next s)) ∧
      (∀ f, x.follow = some f → q.val < 4 → (s.core c).queues[millQ f.word.q].entries.length < 8 →
        ∃ t k, exec (.commandComplete c q) s = .next t ∧ (t.core c).csr.seq[q] = seqAfter (s.core c).csr.seq[q] x.num ∧
          (t.core c).queues[millQ f.word.q].entries = (s.core c).queues[millQ f.word.q].entries ++ [.cmd k] ∧
          k.op = .mill f.cmd ∧ k.p = f.word.p ∧ k.issuer = x.issuer ∧ k.cap = x.cap ∧
          k.num = (s.core c).csr.pseq[millQ f.word.q] + 1)) ∧
    (∀ next i k b v l rest, e.entries = .chain next i k b v none none l :: rest → e.run = none →
      (s.core c).engineRuns = true → ∀ a, chainAddr next = some a →
      (∀ s1 u link, s.chainUnit c q k a = (s1, .ok (u, link)) → s1.core c = s.core c →
        ∃ t y, exec (.chainElementRead c q) s = .next t ∧
          (t.core c).queues[q].entries = .chain next i k b v none (some y) link.word :: rest ∧
          y.num = (s.core c).csr.pseq[q] + 1 ∧ (t.core c).csr.pseq[q] = (s.core c).csr.pseq[q] + 1 ∧ y.p = u.p ∧ y.issuer = i) ∧
      (∀ s1 t, s.chainUnit c q k a = (s1, .error t) → exec (.chainElementRead c q) s =
        .next (s1.haltQueue c q.val i ((s1.core c).pseq q.val + 1) .fresh 0 t))) ∧
    (∀ next i k b v link l rest, e.entries = .chain next i k b v (some link) none l :: rest → e.run = none →
      (s.core c).engineRuns = true → ∀ a s1 w, chainAddr link = some a → s.chainWord c k a = (s1, .ok w) →
      (w = 0 → exec (.chainNextWordChange c q) s = .next s1) ∧
      (w = 1 → ∃ t, exec (.chainNextWordChange c q) s = .next t ∧ (t.core c).queues[q].entries = rest) ∧
      (∀ va, AddrWord.of w = .virt va → w.toNat % 8 = 0 → w ≠ 0 → ∃ t, exec (.chainNextWordChange c q) s = .next t ∧
        (t.core c).queues[q].entries = .chain w i k b v none none l :: rest)) ∧
    (∀ (j : Fin 4) (x : Cmd) (r : Run) (o : Bool), ((s.core c).equeue j.val).working = some (x, r) → x.op = .carter (.pin o) →
      (x.total (.pin o) ≤ 4096 * r.pos → s.swapOf r.touched = false →
        exec (.swapFramePinSettle c j) s = .next (s.setRun c j.val { r with done := true })) ∧
      (s.swapOf r.touched = true → exec (.swapFramePinSettle c j) s = .next s)) ∧
    ((s.me.ctl.kernel = false → ∀ r, exec (.qResume q r) s = .next (ctlTrap .priv s.me.ctl.offered s)) ∧
      (s.me.ctl.kernel = true → exec (.qResume q none) s = .next (ctlNext (s.resumeQueue s.cur q)) ∧
        (∀ a rank y d, s.me.src1 a = .ok (rank, y) → s.rankTarget rank = .ok d →
          exec (.qResume q (some a)) s = .next (ctlNext ((withMe s y).resumeQueue d q)))) ∧
      (∀ x r, e.headCmd = some x → e.run = some r → r.halted ≠ none → r.fmts ≠ [] →
        (x.whole = false → s.resumeQueue c q = s.startCmd c q x { r with halted := none }) ∧
        (x.whole = true → s.resumeQueue c q = s.setRun c q.val { Run.fresh with fmts := r.fmts })) ∧
      (∀ r, e.run = some r → r.halted = none → s.resumeQueue c q = s) ∧ (e.run = none → s.resumeQueue c q = s))

/-- R305, R306, R310 to R317, R321, R342 to R347, R419. The carter moves one chunk of the queue it serves next: it reads all of
it before it writes; a fault halts the queue with nothing of the chunk written. A plane load replaces the plane; a row group of
a product reads its rows before it writes its outputs; a chain takes its members in order; a ragged product takes the claims of
its ring one by one and ends with a closed ring; a relaxation makes one iteration over its active rows at a time. The grain of a row
group and of a relaxation step (entry 54), and what a ragged product and its halt report (entry 46), are the model's choice. -/
def Obligations.EngineWork : Prop :=
  ∀ (s : State) (c : Nat),
    (∀ (q : Fin 4) (x : Cmd) (r : Run) (o : CarterOp), ((s.core c).equeue q.val).working = some (x, r) →
      x.op = .carter o → (s.core c).engineRuns = true → s.servedNext c = some q →
      let lo := 4096 * r.pos
      let hi := minN (x.total o) (lo + 4096)
      let after (s' : State) (r' : Run) : Out := .next ((s'.setRun c q.val r').modCore c fun y => { y with rr := q })
      let r1 : Run := if o = .copy then s.sampleAt c x r [x.at0, x.at1] else r
      let moved : Run := { r1 with pos := r1.pos + 1, done := decide (x.total o ≤ hi) }
      ((o = .copy ∧ r.conv = none ∧ (r.pos = 0 → s.converts c x r1 = false) ∨ o = .gath false ∨ o = .scat ∨ ∃ b, o = .fill b) →
        (∀ s1 src dst s2 sk s3 dk, s.chunkRuns c x o r1 lo hi = (s1, .ok (src, dst)) →
          s1.resolveRuns c x.cap.kernel .load src = (s2, .ok sk) → s2.resolveRuns c x.cap.kernel .store dst = (s3, .ok dk) →
          let d := s3.gatherBytes c false sk
          (∀ b, o = .fill b → exec (.carterChunk c q) s =
            after (d.1.putBytes c dk ((upto (hi - lo)).map fun i => (patternByte b x.p.p0 (lo + i), false))) moved) ∧
          ((∀ b, o ≠ .fill b) → exec (.carterChunk c q) s = after (d.1.putBytes c dk d.2) moved)) ∧
        (∀ s1 src dst s2 t, s.chunkRuns c x o r1 lo hi = (s1, .ok (src, dst)) →
          s1.resolveRuns c x.cap.kernel .load src = (s2, .error t) →
          ∃ t', exec (.carterChunk c q) s = .next t' ∧ t'.mem = s2.mem ∧
            (t'.core c).queues.toList[q.val]? = some { ((s2.core c).equeue q.val) with run := some { r with halted := some t } } ∧
            (t'.core x.issuer).events.engine = (s2.core x.issuer).events.engine ++
              [{ core := c, q := q.val, num := x.num, c := r.pos, trap := t }]))) ∧
    (∀ (q : Fin 2) (x : Cmd) (r : Run), s.millFree c q = true →
      (∀ p f s1 pay hdr, s.milling c q = some (x, .lds p f, r) → (s.core c).mill.active = some q → s.planeBytes c x r f = (s1, .ok (pay, hdr)) →
        ∃ t, exec (.millPlaneLoad c q) s = .next t ∧ t.mem = s1.mem ∧
          (t.core c).mill.planes = (s1.core c).mill.planes.set p { fmt := f, payload := pay.map (·.1), headers := hdr.map (·.1)
                                                                   bad := poisonedEntries f pay hdr } ∧
          ((t.core c).equeue (4 + q.val)).run = some { r with done := true }) ∧
      (∀ (p : Fin 4) s1 l, s.milling c q = some (x, .pwl p, r) → (s.core c).mill.active = some q →
        s.operandOk c x.cap.kernel false r x.at0 .f32 true (fun l => holdsElem l .f32) = .ok () →
        s.readElems c x.cap.kernel r x.at0 .f32 0 192 = (s1, .ok l) →
        ∃ t, exec (.millPlaneLoad c q) s = .next t ∧ t.mem = s1.mem ∧
          (t.core c).mill.tables = (s1.core c).mill.tables.set p { words := l.map fun e => e.v.setWidth 32 }) ∧
      (∀ (p : Fin 2) s1 rows s2 z, s.milling c q = some (x, .mm p, r) →
        let f := (s.core c).mill.planes[p].fmt
        let n := minN 16 (x.rowsM - 16 * r.pos)
        let r1 := s.sampleAt c x (s.sampleAt c x r [x.at0]) ([x.at1] ++ x.cAddr.toList)
        s.checkProduct c c false x r1 p (some x.at0) x.cAddr x.at1 = .ok () →
        s.heldAt c x.cap.kernel (x.at1.add (16 * r.pos * f.kn.2 * f.acc.size : Nat)) (n * f.kn.2 * f.acc.size) = false →
        s.cutOff c x.cap.kernel (x.at0.add (16 * r.pos * f.kn.1 * f.elemTy.size : Nat)) (n * f.kn.1 * f.elemTy.size) = false →
        s.readRows c x r1 x.at0 f.elemTy f.kn.1 (16 * r.pos) n = (s1, .ok rows) →
        s1.multiply c q x r1 p rows x.cAddr x.at1 (16 * r.pos) = (s2, .ok z) →
        exec (.millRowGroup c q) s = .next (s2.setRun c (4 + q.val)
          { r1 with pos := r1.pos + 1, flags := r1.flags ||| (z.1 ||| 0), nan := firstNan r1.nan (firstNan z.2 none)
                    done := decide (x.rowsM ≤ 16 * r1.pos + n) })) ∧
      (∀ p l, s.milling c q = some (x, .chain p l, r) → (s.core c).engineRuns = true → r.members.length ≤ l.val →
        let m := c + r.members.length
        (s.core m).mill.reservedBy = none → (s.core m).mill.active = none → (s.core m).planeLoading p = false → ((s.core m).equeue 4).working = none →
        (s.core m).engineRuns = true →
        ∃ t, exec (.chainMemberReserve c q) s = .next t ∧ (t.core m).mill.reservedBy = some c ∧
          ((t.core c).equeue (4 + q.val)).run = some { r with members := r.members ++ [m] } ∧ t.mem = s.mem) ∧
      (∀ p ring (j : Fin 64) th u, s.milling c q = some (x, .mmr p ring j th, r) → r.share = some u → s.live u = true →
        (s.tileOf u).st = .poisoned → ∃ t r', exec (.mmrSlotProcess c q) s = .next t ∧ t.mem = s.mem ∧
          ((t.core c).equeue (4 + q.val)).run = some r' ∧
          let f : Trap := { cause := .poisonedTile, info := BitVec.ofNat 64 (s.tileOf u).base }
          r'.halted = some f ∧ (t.core x.issuer).events.engine = (s.core x.issuer).events.engine ++
            [{ core := c, q := 4 + q.val, num := x.num, c := r.claim.toNat, trap := f }]) ∧
      (∀ p ring (j : Fin 64) th g n, s.milling c q = some (x, .mmr p ring j th, r) → r.share = none → r.ended = false →
        (s.core c).rings.find ring.val = some g → g.next[j.val]? = some n →
        (n.toNat < g.claimed.toNat → ∃ t r', exec (.mmrSlotProcess c q) s = .next t ∧ t.mem = s.mem ∧
          (t.core c).rings.find ring.val = some { g with next := setNth g.next j.val (n + 1) } ∧
          ((t.core c).equeue (4 + q.val)).run = some r' ∧ r'.share = some (s.slotOf c g n) ∧ r'.claim = n ∧ r'.halted = none) ∧
        (g.claimed.toNat ≤ n.toNat → g.closed = true → x.p.p1 = 0 → s.mmrReady c ring j.val 0 r = true → ∃ t r', exec (.mmrSlotProcess c q) s = .next t ∧ t.mem = s.mem ∧
          ((t.core c).equeue (4 + q.val)).run = some r' ∧ r'.done = true)) ∧
      (∀ m y, s.milling c q = some (x, m, r) → (s.core c).mill.relax = some y → (s.core c).mill.active = some q →
        ∀ p b n, m = .relax p b n → y.k < x.cap.mitl.toNat → (∃ w ∈ y.rows, w.act = true) → r.trace = 0 →
        let g : RelaxCfg := { cap := x.cap, plane := (s.core c).mill.planes[p]
                              table := (s.core c).mill.tables[x.cap.mpwl].words, n := y.n }
        ∃ t z, exec (.millRelaxIteration c q) s = .next t ∧ t.mem = s.mem ∧ (t.core c).mill.relax = some z ∧ z.k = y.k + 1 ∧
          z.n = y.n ∧ z.rows = y.rows.map fun w => if w.act then (g.forward y.k w).row else w))

/-- R88, R89, R91, R99, R131 to R134. Each arithmetic and fused word whose registers it may read puts its lanes in flight with
its row's latency; a word on the divider within 8 cycles of the last one is ISSUE_CONFLICT. -/
def Obligations.VectorArithmetic : Prop :=
  ∀ s : State,
    let l := s.me.vec.lane
    let rm := s.me.rm
    (∀ o : Vvv, readable s o.d [o.a, o.b] o.k →
      let done (lat : Nat) (f : Word → Word → Lane) : Out := .next (lanesTo s o.d o.k o.ty lat fun i => f (l o.a i) (l o.b i))
      let lat := if o.ty.isInt then 2 else 4
      exec (.vadd o) s = done lat (laneBin .add o.ty rm) ∧ exec (.vsub o) s = done lat (laneBin .sub o.ty rm) ∧
      exec (.vmul o) s = done lat (laneBin .mul o.ty rm) ∧ exec (.vmin o) s = done 2 (laneMin false o.ty) ∧
      exec (.vmax o) s = done 2 (laneMin true o.ty) ∧ exec (.vcsgn o) s = done 2 (laneCsgn o.ty) ∧
      ((∀ n, s.me.vec.divAt = some n → n + 8 ≤ s.me.vec.now) → exec (.vdiv o) s = .next (vecNext (withMe s
        ((s.me.withVec fun v => { v with divAt := some v.now }).putV o.d (if o.ty = .f64 then 30 else 18) o.ty
          (s.me.vec.mask o.k) fun i => laneBin .div o.ty rm (l o.a i) (l o.b i))))) ∧
      (∀ n, s.me.vec.divAt = some n → s.me.vec.now < n + 8 → s.me.ctl.past = false →
        exec (.vdiv o) s = .next (vecTrap .issueConflict 0 s))) ∧
    (∀ o : Vv, readable s o.d [o.a] o.k →
      exec (.vabs o) s = .next (lanesTo s o.d o.k o.ty 2 fun i => laneAbs o.ty (l o.a i)) ∧
      exec (.vneg o) s = .next (lanesTo s o.d o.k o.ty 2 fun i => laneNeg o.ty (l o.a i)) ∧
      ((∀ n, s.me.vec.divAt = some n → n + 8 ≤ s.me.vec.now) → exec (.vsqrt o) s = .next (vecNext (withMe s
        ((s.me.withVec fun v => { v with divAt := some v.now }).putV o.d (if o.ty = .f64 then 30 else 18) o.ty
          (s.me.vec.mask o.k) fun i => laneSqrt o.ty rm (l o.a i))))) ∧
      (∀ n, s.me.vec.divAt = some n → s.me.vec.now < n + 8 → s.me.ctl.past = false →
        exec (.vsqrt o) s = .next (vecTrap .issueConflict 0 s))) ∧
    (∀ o : Vvvv, readable s o.d [o.a, o.b, o.c] o.k →
      let done (negP negC : Bool) : Out :=
        .next (lanesTo s o.d o.k o.ty 4 fun i => laneFma o.ty rm negP negC (l o.a i) (l o.b i) (l o.c i))
      exec (.vfma o) s = done false false ∧ exec (.vfms o) s = done false true ∧ exec (.vfnma o) s = done true false ∧
      exec (.vfnms o) s = done true true)

/-- R135 to R140. Logic words and shifts with latency 2, the amount the low byte of the b element or the immediate; `vclass`,
`vcvt` (4), `vclamp` and `vpwl` (6); a comparison puts its bits in flight to a mask; `vsel` takes whole lanes of a or b. -/
def Obligations.VectorLogicAndSelection : Prop :=
  ∀ s : State,
    let l := s.me.vec.lane
    let rm := s.me.rm
    (∀ o : Vvv, readable s o.d [o.a, o.b] o.k →
      let done (op : Logic) : Out := .next (lanesTo s o.d o.k o.ty 2 fun i =>
        laneLogic op o.ty (l o.a i) (l o.b i) ((l o.b i).toNat % 256))
      exec (.vand o) s = done .and ∧ exec (.vor o) s = done .or ∧ exec (.vxor o) s = done .xor ∧ exec (.vandn o) s = done .andn ∧
      exec (.vshl o) s = done .shl ∧ exec (.vshr o) s = done .shr ∧ exec (.vsra o) s = done .sra ∧
      exec (.vrol o) s = done .rol) ∧
    (∀ o : Vvi, readable s o.d [o.a] o.k →
      let done (op : Logic) : Out := .next (lanesTo s o.d o.k o.ty 2 fun i => laneLogic op o.ty (l o.a i) 0 o.n.toNat)
      exec (.vshlImmediate o) s = done .shl ∧ exec (.vshrImmediate o) s = done .shr ∧ exec (.vsraImmediate o) s = done .sra ∧
      exec (.vrolImmediate o) s = done .rol) ∧
    (∀ o : Vcmp, s.me.checkLent [o.a, o.b] = .ok () → s.me.checkUes (s.me.vec.mask o.k) [o.a, o.b] = .ok () →
      let done (c : Cond) (i : Instr) : Prop := ∃ (bits : Mask) (fl : BitVec 5), exec i s =
          .next (vecNext (withMe s (s.me.putK o.d 2 (s.me.vec.mask o.k) bits fl))) ∧
        (∀ n, n < 64 → bits.getLsbD n = (active (s.me.vec.mask o.k) n && (laneCmp c o.ty (l o.a n) (l o.b n)).1)) ∧
        ∀ j, fl.getLsbD j = true ↔
          ∃ n, n < 64 ∧ active (s.me.vec.mask o.k) n = true ∧ (laneCmp c o.ty (l o.a n) (l o.b n)).2.getLsbD j = true
      done .eq (.vcmpEq o) ∧ done .ne (.vcmpNe o) ∧ done .lt (.vcmpLt o) ∧ done .le (.vcmpLe o) ∧ done .gt (.vcmpGt o) ∧
      done .ge (.vcmpGe o) ∧ done .un (.vcmpUn o) ∧ done .ord (.vcmpOrd o)) ∧
    (∀ o : Vv, readable s o.d [o.a] o.k →
      exec (.vclass o) s = .next (lanesTo s o.d o.k o.ty 2 fun i => laneClass o.ty (l o.a i)) ∧
      ∀ src sat, exec (.vcvt o src sat) s =
        .next (lanesTo s o.d o.k o.ty 4 fun i => convert src o.ty rm sat i (src.value (l o.a i)))) ∧
    (∀ o : Vvvv, readable s o.d [o.a, o.b, o.c] o.k → exec (.vclamp o) s = .next (lanesTo s o.d o.k o.ty 2 fun i =>
      laneMin false o.ty (laneMin true o.ty (l o.a i) (l o.b i)).v (l o.c i))) ∧
    (∀ o : Vvvv, s.me.checkLent [o.d, o.a, o.b, o.c, o.c + 1] = .ok () →
      (∀ r ∈ [o.a, o.b, o.c, o.c + 1], s.me.vec.poison[r] = 0) → exec (.vpwl o) s = .next (lanesTo s o.d o.k o.ty 6 fun i =>
        pwlLane o.ty rm (l o.b) (l o.c) (l (o.c + 1)) (l o.a i))) ∧
    (∀ (d a b : Fin 32) (c k : Fin 8), s.me.checkLent [d, a, b] = .ok () →
      s.me.checkUe a (s.me.vec.mask k &&& s.me.vec.mask c) = .ok () →
      s.me.checkUe b (s.me.vec.mask k &&& ~~~s.me.vec.mask c) = .ok () →
      exec (.vsel d a b c k) s = .next (lanesTo s d k .u64 2 fun i =>
        { v := if active (s.me.vec.mask c) i then l a i else l b i, fl := 0, nan := false }))

/-- R102, R130. A lane-by-lane word that names a register of a lent bank, source or destination, is BANK_LENT with the bank;
otherwise, the divider free for a word on it, an active lane that is poisoned in a source is UE, and a masked-off poisoned lane is
none. That the lowest such lane is named is the model's choice (entry 106). -/
def Obligations.VectorOperandChecks : Prop :=
  ∀ s : State, s.me.ctl.past = false →
    let v := s.me.vec
    let bad (srcs : List (Fin 32)) (k : Fin 8) (i : Nat) : Prop :=
      active (v.mask k) i = true ∧ ∃ r ∈ srcs, v.poison[r].getLsbD i = true
    let checks (i : Instr) (regs srcs : List (Fin 32)) (k : Fin 8) (free : Prop) : Prop :=
      ((∃ r ∈ regs, v.lent (r.val / 8) = true) → ∃ r ∈ regs, v.lent (r.val / 8) = true ∧
        exec i s = .next (vecTrap .bankLent (BitVec.ofNat 64 (r.val / 8)) s)) ∧
      ((∀ r ∈ regs, v.lent (r.val / 8) = false) → free →
        (∀ n, n < 64 → bad srcs k n → (∀ j, j < n → ¬ bad srcs k j) → ∃ r ∈ srcs, v.poison[r].getLsbD n = true ∧
          exec i s = .next (vecTrap .ue (v.laneInfo r n) s)) ∧
        ((∀ n, n < 64 → ¬ bad srcs k n) → ∃ t, exec i s = .next t ∧ t.me.vec.pc = (loopStep v.pc v.loops).2))
    let idle : Prop := ∀ n, v.divAt = some n → n + 8 ≤ v.now
    (∀ o : Vvv, let two (i : Instr) : Prop := checks i [o.d, o.a, o.b] [o.a, o.b] o.k True;
      two (.vadd o) ∧ two (.vsub o) ∧ two (.vmul o) ∧ two (.vmin o) ∧ two (.vmax o) ∧ two (.vcsgn o) ∧ two (.vand o) ∧
      two (.vor o) ∧ two (.vxor o) ∧ two (.vandn o) ∧ two (.vshl o) ∧ two (.vshr o) ∧ two (.vsra o) ∧ two (.vrol o) ∧
      checks (.vdiv o) [o.d, o.a, o.b] [o.a, o.b] o.k idle) ∧
    (∀ o : Vv, let one (i : Instr) : Prop := checks i [o.d, o.a] [o.a] o.k True;
      one (.vabs o) ∧ one (.vneg o) ∧ one (.vclass o) ∧ (∀ src sat, one (.vcvt o src sat)) ∧
      checks (.vsqrt o) [o.d, o.a] [o.a] o.k idle) ∧
    (∀ o : Vvi, let one (i : Instr) : Prop := checks i [o.d, o.a] [o.a] o.k True;
      one (.vshlImmediate o) ∧ one (.vshrImmediate o) ∧ one (.vsraImmediate o) ∧ one (.vrolImmediate o)) ∧
    (∀ o : Vcmp, let cmp (i : Instr) : Prop := checks i [o.a, o.b] [o.a, o.b] o.k True;
      cmp (.vcmpEq o) ∧ cmp (.vcmpNe o) ∧ cmp (.vcmpLt o) ∧ cmp (.vcmpLe o) ∧ cmp (.vcmpGt o) ∧ cmp (.vcmpGe o) ∧
      cmp (.vcmpUn o) ∧ cmp (.vcmpOrd o)) ∧
    (∀ o : Vvvv, let three (i : Instr) : Prop := checks i [o.d, o.a, o.b, o.c] [o.a, o.b, o.c] o.k True;
      three (.vfma o) ∧ three (.vfms o) ∧ three (.vfnma o) ∧ three (.vfnms o) ∧ three (.vclamp o))

/-- R105, R119, R120, R121, R132. Integer lanes: results wrap to the type and are extended by it
without a flag; shifts by the width or more clear the lane, or fill it with the sign. Floating-point lanes: the exact result rounded
once (R112 to R116), an exact zero by its signs, the canonical NaN with NV where the operation is invalid, infinities and division by
zero; minimum and maximum with −0 below +0, sign changes, comparisons, classes, conversions with and without saturation (R122), and the
segment of a piecewise-linear function. That DITHER acts only in conversions to a narrow type is the model's choice (entry 30), so is
an infinity that stays one under sat in a type that holds the source (entry 85) and the clamping of an integer that a type of its own
width or more cannot hold (entry 95). -/
def Obligations.IntegerLanes : Prop :=
  (∀ n k : Nat, k < 4 → ditherD n < 256 ∧ (ditherD n).testBit (7 - 2 * k) = (n / 16 % 16).testBit k ∧
    (ditherD n).testBit (6 - 2 * k) = ((n % 16) ^^^ (n / 16 % 16)).testBit k) ∧
  (∀ x ∈ [(Ty.i8, 8, true), (.i16, 16, true), (.i32, 32, true), (.i64, 64, true), (.u8, 8, false), (.u16, 16, false),
      (.u32, 32, false), (.u64, 64, false)],
    x.1.ff = none ∧ x.1.width = x.2.1 ∧ x.1.signed = x.2.2 ∧
    (∀ v i, i < 64 → (x.1.extend v).getLsbD i = if i < x.2.1 then v.testBit i else x.2.2 && v.testBit (x.2.1 - 1)) ∧
    ∀ a : Word, x.1.toInt a =
      (a.toNat % 2 ^ x.2.1 : Nat) - if (x.2.2 && a.getLsbD (x.2.1 - 1)) = true then (2 ^ x.2.1 : Int) else 0) ∧
  (∀ (t : Ty) (m : RM) (a b : Word) (n : Nat), t.ff = none →
    let gives (x : Lane) (v : Nat) : Prop := x.v = t.extend v ∧ x.fl = 0 ∧ x.nan = false
    gives (laneBin .add t m a b) (a.toNat + b.toNat) ∧ gives (laneBin .mul t m a b) (a.toNat * b.toNat) ∧
    gives (laneBin .sub t m a b) (a - b).toNat ∧ gives (laneLogic .and t a b n) (a &&& b).toNat ∧
    gives (laneLogic .or t a b n) (a ||| b).toNat ∧ gives (laneLogic .xor t a b n) (a ^^^ b).toNat ∧
    gives (laneLogic .andn t a b n) (a &&& ~~~b).toNat ∧
    (t.width ≤ n → gives (laneLogic .shl t a b n) 0 ∧ gives (laneLogic .shr t a b n) 0 ∧
      gives (laneLogic .sra t a b n) (if a.getLsbD (t.width - 1) then 2 ^ t.width - 1 else 0)) ∧
    (n < t.width → gives (laneLogic .shl t a b n) (a.toNat * 2 ^ n) ∧ gives (laneLogic .shr t a b n) (t.low a / 2 ^ n) ∧
      ∃ v, gives (laneLogic .sra t a b n) v ∧
        ∀ i, i < t.width → v.testBit i = a.getLsbD (if i + n < t.width then i + n else t.width - 1)) ∧
    (∃ v, gives (laneLogic .rol t a b n) v ∧
      ∀ i, i < t.width → v.testBit i = a.getLsbD ((i + (t.width - n % t.width)) % t.width)) ∧
    (∃ v, gives (laneMin true t a b) v ∧ t.toInt (t.extend v) = max (t.toInt a) (t.toInt b)) ∧
    (∃ v, gives (laneMin false t a b) v ∧ t.toInt (t.extend v) = min (t.toInt a) (t.toInt b)) ∧
    gives (laneAbs t a) (t.toInt a).natAbs ∧ gives (laneNeg t a) (2 ^ 64 - a.toNat) ∧
    (let x := t.toInt a
     let y := t.toInt b
     laneCmp .eq t a b = (decide (x = y), 0) ∧ laneCmp .ne t a b = (decide (x ≠ y), 0) ∧ laneCmp .lt t a b = (decide (x < y), 0) ∧
     laneCmp .le t a b = (decide (x ≤ y), 0) ∧ laneCmp .gt t a b = (decide (y < x), 0) ∧
     laneCmp .ge t a b = (decide (y ≤ x), 0))) ∧
  (∀ x ∈ [(Ty.f16, FF.f16), (.bf16, .bf16), (.f32, .f32), (.f64, .f64)],
    let t := x.1
    let f := x.2
    let enc (w : Word) : Nat := w.toNat % (2 * signAt f)
    let num (w : Word) : ℝ := fpReal f (enc w)
    let neg (w : Word) : Bool := fpNeg f (enc w)
    let zero (w : Word) : Prop := fpMag f (enc w) = 0
    let fin (w : Word) : Prop := fpFin f (enc w)
    let inf (w : Word) : Prop := fpInf f (enc w)
    let nan (w : Word) : Prop := fpNan f (enc w)
    ∀ (m0 : RM) (a b c : Word),
    let m : RM := if m0 = .dither then .rne else m0
    let zsum (p q : Bool) : Bool := if p = q then p else decide (m = .rdn)
    -- sums and differences
    (∀ o ∈ [(Bin.add, false), (.sub, true)],
      let r := laneBin o.1 t m0 a b
      let nb := neg b != o.2
      (nan a ∨ nan b → nanLaneIs f 0 false r) ∧ (inf a → inf b → neg a ≠ nb → nanLaneIs f Fl.nv true r) ∧
      (inf a → fin b ∨ (inf b ∧ neg a = nb) → infLaneIs f (neg a) 0 r) ∧ (fin a → inf b → infLaneIs f nb 0 r) ∧
      (fin a → fin b → realLaneIs f m (zsum (neg a) nb) (num a + if o.2 then -num b else num b) r)) ∧
    -- products and quotients
    (let r := laneBin .mul t m0 a b
     let s := neg a != neg b
     (nan a ∨ nan b → nanLaneIs f 0 false r) ∧ ((inf a ∧ zero b) ∨ (zero a ∧ inf b) → nanLaneIs f Fl.nv true r) ∧
     ((inf a ∧ ¬ zero b ∧ ¬ nan b) ∨ (inf b ∧ ¬ zero a ∧ ¬ nan a) → infLaneIs f s 0 r) ∧
     (fin a → fin b → realLaneIs f m s (num a * num b) r)) ∧
    (let r := laneBin .div t m0 a b
     let s := neg a != neg b
     (nan a ∨ nan b → nanLaneIs f 0 false r) ∧ ((inf a ∧ inf b) ∨ (zero a ∧ zero b) → nanLaneIs f Fl.nv true r) ∧
     (inf a → fin b → infLaneIs f s 0 r) ∧ (fin a → ¬ zero a → zero b → infLaneIs f s Fl.dz r) ∧
     (fin a → inf b → realLaneIs f m s 0 r) ∧ (fin a → fin b → ¬ zero b → realLaneIs f m s (num a / num b) r)) ∧
    (let r := laneSqrt t m0 a
     (nan a → nanLaneIs f 0 false r) ∧ (¬ nan a → neg a = true → ¬ zero a → nanLaneIs f Fl.nv true r) ∧
     (inf a → neg a = false → infLaneIs f false 0 r) ∧
     (fin a → neg a = false ∨ zero a → realLaneIs f m (neg a) (Real.sqrt (num a)) r)) ∧
    -- fused forms: ± a × b ± c
    (∀ np nc : Bool,
      let r := laneFma t m0 np nc a b c
      let s := (neg a != neg b) != np
      let k := neg c != nc
      let bad := (inf a ∧ zero b) ∨ (zero a ∧ inf b)
      let infp := (inf a ∧ ¬ zero b ∧ ¬ nan b) ∨ (inf b ∧ ¬ zero a ∧ ¬ nan a)
      (bad → nan c → nanLaneIs f Fl.nv false r) ∧ (bad → ¬ nan c → nanLaneIs f Fl.nv true r) ∧
      (nan a ∨ nan b ∨ (¬ bad ∧ nan c) → nanLaneIs f 0 false r) ∧ (infp → inf c → s ≠ k → nanLaneIs f Fl.nv true r) ∧
      (infp → fin c ∨ (inf c ∧ s = k) → infLaneIs f s 0 r) ∧ (fin a → fin b → inf c → infLaneIs f k 0 r) ∧
      (fin a → fin b → fin c → realLaneIs f m (zsum s k)
        ((if np then -(num a * num b) else num a * num b) + if nc then -num c else num c) r)) ∧
    -- minimum, maximum, signs, comparisons, classes
    (∀ top : Bool, let r := laneMin top t a b
      (nan a ∨ nan b → nanLaneIs f 0 false r) ∧
      (¬ nan a → ¬ nan b → r.fl = 0 ∧ r.nan = false ∧ r.v.toNat < 2 * signAt f ∧ fpKey f r.v.toNat =
        if top then max (fpKey f (enc a)) (fpKey f (enc b)) else min (fpKey f (enc a)) (fpKey f (enc b)))) ∧
    (let sign (r : Lane) (s : Bool) : Prop := (nan a → nanLaneIs f 0 false r) ∧
       (¬ nan a → r.v.toNat = fpWord f s (fpMag f (enc a)) ∧ r.fl = 0 ∧ r.nan = false)
     sign (laneAbs t a) false ∧ sign (laneNeg t a) (!neg a) ∧ sign (laneCsgn t a b) (neg b)) ∧
    (let p := fpOrder f (enc a)
     let q := fpOrder f (enc b)
     (nan a ∨ nan b → laneCmp .eq t a b = (false, 0) ∧ laneCmp .ne t a b = (true, 0) ∧ laneCmp .un t a b = (true, 0) ∧
       laneCmp .ord t a b = (false, 0) ∧
       ∀ k ∈ [Cond.lt, .le, .gt, .ge], laneCmp k t a b = (false, Fl.nv)) ∧
     (¬ nan a → ¬ nan b → laneCmp .eq t a b = (decide (p = q), 0) ∧ laneCmp .ne t a b = (decide (p ≠ q), 0) ∧
       laneCmp .lt t a b = (decide (p < q), 0) ∧ laneCmp .le t a b = (decide (p ≤ q), 0) ∧
       laneCmp .gt t a b = (decide (q < p), 0) ∧ laneCmp .ge t a b = (decide (q ≤ p), 0) ∧ laneCmp .un t a b = (false, 0) ∧
       laneCmp .ord t a b = (true, 0))) ∧
    (∀ (bp sl ic : Nat → Word), (nan a → nanLaneIs f 0 false (pwlLane t m0 bp sl ic a)) ∧
      (¬ nan a → ∃ j, j < 64 ∧ pwlLane t m0 bp sl ic a = laneFma t m0 false false (sl j) a (ic j) ∧
        (let fits (i : Nat) : Prop := ¬ nan (bp i) ∧ fpOrder f (enc (bp i)) ≤ fpOrder f (enc a)
         (∀ i, j < i → i < 64 → ¬ fits i) ∧ (fits j ∨ j = 0))))) ∧
  (∀ x ∈ [(Ty.f16, FF.f16), (.bf16, .bf16), (.f32, .f32), (.f64, .f64), (.e4m3, .e4m3), (.e5m2, .e5m2)],
    let t := x.1
    let f := x.2
    ∀ (m0 : RM) (sat : Bool) (n : Nat) (a : Word),
    let e := a.toNat % (2 * signAt f)
    let mag := fpMag f e
    let neg := fpNeg f e
    -- classes
    (∃ k, laneClass t a = { v := BitVec.ofNat 64 (2 ^ k), fl := 0, nan := false } ∧ (fpNan f e → k = 8) ∧
      (fpInf f e → k = if neg then 0 else 7) ∧
      (fpFin f e → k = if mag = 0 then (if neg then 3 else 4) else if mag < 2 ^ (layout f).2.1 then (if neg then 2 else 5)
        else if neg then 1 else 6)) ∧
    -- conversions of a float into a float
    (∀ y ∈ [(Ty.f16, FF.f16), (.bf16, .bf16), (.f32, .f32), (.f64, .f64), (.e4m3, .e4m3), (.e5m2, .e5m2)],
      let g := y.2
      let m : RM := if m0 = .dither ∧ (g = .f32 ∨ g = .f64) then .rne else m0
      let r := convert t y.1 m0 sat n (t.value a)
      let holds := (layout f).1 ≤ (layout g).1 ∧ (layout f).2.1 ≤ (layout g).2.1
      (fpNan f e → nanLaneIs g 0 false r) ∧
      (fpFin f e → roundsReal g m sat n neg (fpReal f e) r.v.toNat r.fl ∧ (r.nan = true ↔ fpNan g r.v.toNat)) ∧
      (fpInf f e → infWord g = none → (sat = false → nanLaneIs g Fl.nv true r)) ∧
      (fpInf f e → infWord g ≠ none → sat = false ∨ holds → infLaneIs g neg 0 r) ∧
      (fpInf f e → sat = true → ¬ holds → r.v.toNat = fpWord g neg (largestWord g) ∧ r.fl = 0 ∧ r.nan = false)) ∧
    -- and into an integer
    (∀ u : Ty, u.ff = none →
      let m : RM := if m0 = .dither ∧ 32 ≤ u.width then .rne else m0
      let r := convert t u m0 sat n (t.value a)
      let low : Int := if u.signed then -2 ^ (u.width - 1) else 0
      let high : Int := if u.signed then 2 ^ (u.width - 1) - 1 else 2 ^ u.width - 1
      let gives (i : Int) (fl : Fl) : Prop := u.toInt r.v = i ∧ r.v = u.extend r.v.toNat ∧ r.fl = fl ∧ r.nan = false
      (fpNan f e → gives 0 Fl.nv) ∧ (fpInf f e → gives (if neg then low else high) Fl.nv) ∧
      (fpFin f e → ∃ j : Nat, onGrid m n neg (fpAbs f mag) 0 j ∧
        (let i : Int := if neg then -(j : Int) else j
         (i < low → gives low Fl.nv) ∧ (high < i → gives high Fl.nv) ∧
         (low ≤ i → i ≤ high → (fpAbs f mag = j → gives i 0) ∧ (fpAbs f mag ≠ j → gives i Fl.nx)))))) ∧
  -- conversions of an integer
  (∀ (t : Ty) (m0 : RM) (sat : Bool) (n : Nat) (a : Word), t.ff = none →
    (∀ y ∈ [(Ty.f16, FF.f16), (.bf16, .bf16), (.f32, .f32), (.f64, .f64), (.e4m3, .e4m3), (.e5m2, .e5m2)],
      let m : RM := if m0 = .dither ∧ (y.2 = .f32 ∨ y.2 = .f64) then .rne else m0
      let r := convert t y.1 m0 sat n (t.value a)
      roundsReal y.2 m sat n false (t.toInt a) r.v.toNat r.fl ∧ (r.nan = true ↔ fpNan y.2 r.v.toNat)) ∧
    (∀ u : Ty, u.ff = none →
      let r := convert t u m0 sat n (t.value a)
      let low : Int := if u.signed then -2 ^ (u.width - 1) else 0
      let high : Int := if u.signed then 2 ^ (u.width - 1) - 1 else 2 ^ u.width - 1
      u.toInt r.v = max low (min high (t.toInt a)) ∧ r.v = u.extend r.v.toNat ∧ r.fl = 0 ∧ r.nan = false))

/-- R100, R124, R125, R141 to R144. Moves of whole lanes (latency 3, `viota` and `vmov` 2), `vpart` with its two lists and its
count (6), folds by the tree over the active lanes into every lane (8), scans from lane 0 up (12). -/
def Obligations.MovesFoldsAndScans : Prop :=
  ∀ s : State,
    let v := s.me.vec
    let lane (w : Word) : Lane := { v := w, fl := 0, nan := false }
    (∀ (d a b : Fin 32) (k : Fin 8), s.me.checkLent [d, a, b] = .ok () → v.poison[a] = 0 →
      s.me.checkUe b (v.mask k) = .ok () →
      exec (.vperm d a b k) s = .next (lanesTo s d k .u64 3 fun i => lane (v.lane a ((v.lane b i).toNat % 64)))) ∧
    (∀ (d a : Fin 32) (n : Fin 64) (k : Fin 8), s.me.checkLent [d, a] = .ok () → v.poison[a] = 0 →
      exec (.vrot d a n k) s = .next (lanesTo s d k .u64 3 fun i => lane (v.lane a ((i + n.val) % 64))) ∧
      exec (.vbcast d a n k) s = .next (lanesTo s d k .u64 3 fun _ => lane (v.lane a n.val)) ∧
      exec (.vmov d a k) s = .next (lanesTo s d k .u64 2 fun i => lane (v.lane a i))) ∧
    (∀ (d : Fin 32) (a : Sys2Proof.Ab) (k : Fin 8) (w : Word) (y : Core), s.me.checkLent [d] = .ok () → s.me.ab a = .ok (w, y) →
      exec (.vbcastScalar d a k) s = .next (vecNext (withMe s (y.putV d 3 .u64 (v.mask k) fun _ => lane w)))) ∧
    (∀ (ty : Ty) (d : Fin 32) (k : Fin 8), s.me.checkLent [d] = .ok () →
      exec (.viota ty d k) s = .next (lanesTo s d k ty 2 fun i => ty.ofInt i)) ∧
    (∀ (d : Fin 32) (c : Fin 8) (n : Fin 12), s.me.checkLent [d, d + 1] = .ok () → ∃ y z w, exec (.vpart d c n) s =
        .next (vecNext (withMe s (s.me.withVec fun v => { v with pend := v.pend ++ [y, z, w] }))) ∧
      (let yes := (upto 64).filter fun i => (v.mask c).getLsbD i
       let no := (upto 64).filter fun i => !(v.mask c).getLsbD i
       y.kind = .v ∧ y.reg = d.val ∧ y.due = v.now + 6 ∧ y.lanes = BitVec.allOnes 64 ∧
       y.value.toList = (upto 64).map (fun i => BitVec.ofNat 64 (yes.getD i 0)) ∧
       z.kind = .v ∧ z.reg = (d + 1).val ∧ z.due = v.now + 6 ∧ z.lanes = BitVec.allOnes 64 ∧
       z.value.toList = (upto 64).map (fun i => BitVec.ofNat 64 (no.getD i 0)) ∧
       w.kind = .a ∧ w.reg = n.val ∧ w.due = v.now + 6 ∧ w.word = BitVec.ofNat 64 yes.length)) ∧
    (∀ o : Vv, readable s o.d [o.a] o.k →
      let leaf (i : Nat) : Option Lane := if active (v.mask o.k) i then some (leafLane o.ty (v.lane o.a i)) else none
      let fold (f : Word → Word → Lane) (i : Instr) : Prop := ∃ e, exec i s = .next (vecNext (withMe s (s.me.pend e))) ∧
        e.kind = .v ∧ e.reg = o.d.val ∧ e.due = v.now + 8 ∧ e.lanes = BitVec.allOnes 64 ∧
        (v.mask o.k = 0 → ∀ w ∈ e.value.toList, w = 0) ∧
        ∀ r : Lane, treeFold (foldNode f) 6 ((upto 64).map leaf) = some r → (∀ w ∈ e.value.toList, w = r.v) ∧ e.flags = r.fl
      let scan (f : Word → Word → Lane) (i : Instr) : Prop := ∃ e, exec i s = .next (vecNext (withMe s (s.me.pend e))) ∧
        e.kind = .v ∧ e.reg = o.d.val ∧ e.due = v.now + 12 ∧ (∀ i, i < 64 → e.lanes.getLsbD i = active (v.mask o.k) i) ∧
        ∀ (i : Nat) (r : Lane), (scanFrom f none ((upto 64).map leaf))[i]? = some (some r) → e.value.toList[i]? = some r.v
      let t := o.ty
      fold (laneBin .add t .rne) (.vfoldAdd o) ∧ fold (laneMin false t) (.vfoldMin o) ∧ fold (laneMin true t) (.vfoldMax o) ∧
      fold (fun a b => laneLogic .and t a b 0) (.vfoldAnd o) ∧ fold (fun a b => laneLogic .or t a b 0) (.vfoldOr o) ∧
      fold (fun a b => laneLogic .xor t a b 0) (.vfoldXor o) ∧
      scan (laneBin .add t .rne) (.vscanAdd o) ∧ scan (laneMin false t) (.vscanMin o) ∧ scan (laneMin true t) (.vscanMax o) ∧
      scan (fun a b => laneLogic .and t a b 0) (.vscanAnd o) ∧ scan (fun a b => laneLogic .or t a b 0) (.vscanOr o) ∧
      scan (fun a b => laneLogic .xor t a b 0) (.vscanXor o))

/-- R96, R145, R156. Mask words put all 64 bits in flight (2 cycles), `vflag` the state of F (6), address words a value (1). -/
def Obligations.MasksAndAddressRegisters : Prop :=
  ∀ s : State,
    let v := s.me.vec
    let mask (x : Core) (d : Fin 8) (m : Mask) : Out := .next (vecNext (withMe s (x.putK d 2 (BitVec.allOnes 64) m 0)))
    (∀ d a b : Fin 8, exec (.kand d a b) s = mask s.me d (v.mask a &&& v.mask b) ∧
      exec (.kor d a b) s = mask s.me d (v.mask a ||| v.mask b) ∧
      exec (.kxor d a b) s = mask s.me d (v.mask a ^^^ v.mask b) ∧ exec (.knot d a) s = mask s.me d (~~~(v.mask a)) ∧
      exec (.kmov d a) s = mask s.me d (v.mask a)) ∧
    (∀ (d : Fin 8) (n : Fin 65), exec (.kset d n) s = mask s.me d (BitVec.ofNat 64 (2 ^ n.val - 1))) ∧
    (∀ (d : Fin 8) (a : Sys2Proof.Ab) (w : Word) (y : Core), s.me.ab a = .ok (w, y) →
      exec (.ksetRegister d a) s = mask y d (BitVec.ofNat 64 (2 ^ min w.toNat 64 - 1))) ∧
    (∀ a k : Fin 8, ∃ e, exec (.vflag a k) s = .next (vecNext (withMe s (s.me.pend e))) ∧ e.kind = .f ∧ e.due = v.now + 6 ∧
      (let f := FReg.ofCode e.word.toNat
       let hits := (upto 64).filter fun i => (v.mask a).getLsbD i && (v.mask k).getLsbD i
       f.count = hits.length ∧ f.any = !hits.isEmpty ∧ f.none = hits.isEmpty ∧ (f.all = true ↔ v.mask k &&& ~~~(v.mask a) = 0))) ∧
    (∀ (d : Fin 12) (a : Sys2Proof.Ab) (w : Word) (y : Core), s.me.ab a = .ok (w, y) →
      let put (r : Word) : Out := .next (vecNext (withMe s (y.putA d 1 r)))
      (∀ imm, exec (.aadd d a imm) s = put (w + imm.signExtend 64) ∧ exec (.asub d a imm) s = put (w - imm.signExtend 64)) ∧
      (∀ n : Fin 64, exec (.ashl d a n) s = put (w <<< n.val)) ∧ exec (.amov d a) s = put w ∧
      (∀ b : Fin 12, exec (.aaddRegister d a b) s = put (w + v.a[b]) ∧ exec (.asubRegister d a b) s = put (w - v.a[b])) ∧
      (∀ q, a = .aq q → exec (.apop d q) s = put w)) ∧
    (∀ (d : Fin 12) imm, exec (.ali d imm) s = .next (vecNext (withMe s (s.me.putA d 1 (imm.signExtend 64))))) ∧
    (∀ q : Fin 4, (v.aq[q] = [] → exec (.apop 0 q) s = .next (vecHeld (.queue (8 + q.val)) s)) ∧
      ∀ e rest, v.aq[q] = e :: rest → e.left ≠ 0 → exec (.apop 0 q) s = .next (vecHeld (.queue (8 + q.val)) s))

/-- R97, R98, R101, R157 to R161. `loop` arms a level with one trip less than its count, or jumps past its body; a branch goes
to its target with the loop levels as they are; `vend` stops the stream and disarms the levels; `vlend` and `vreclaim` mark a
bank. What `vend` leaves in the loop levels and in the run state of a kernel run (entry 99), and the marking of a bank that is lent
already, or is not lent (entry 103), are the model's choice. -/
def Obligations.VectorControl : Prop :=
  ∀ s : State,
    let v := s.me.vec
    (∀ (n : Fin 4) (a : Sys2Proof.Ab) (imm : BitVec 32) (w : Word) (y : Core), s.me.ab a = .ok (w, y) →
      let past := v.pc + 8 * imm.signExtend 64
      (w.toNat % 2 ^ 32 = 0 → exec (.loop n a imm) s = .next (vecTo (past + 8) v.loops (withMe s y))) ∧
      (w.toNat % 2 ^ 32 ≠ 0 → exec (.loop n a imm) s = .next (vecNext (withMe s (y.withVec fun u =>
        { u with loops := u.loops.set n
                   { start := v.pc + 8, stop := past, count := w.setWidth 32 - 1, armed := true } }))))) ∧
    (∀ n : Fin 4, exec (.loopOff n) s = .next (vecNext (withMe s (s.me.withVec fun u =>
      { u with loops := u.loops.set n { u.loops[n] with armed := false } })))) ∧
    (∀ disp : BitVec 32,
      let branch (i : Instr) (taken : Prop) : Prop :=
        (taken → exec i s = .next (vecTo (v.pc + 8 * disp.signExtend 64) v.loops s)) ∧
        (¬ taken → exec i s = .next (vecNext s))
      branch (.vbr disp) True ∧
      (∀ a : Fin 12, branch (.vbrZ a disp) (v.a[a] = 0) ∧ branch (.vbrNz a disp) (v.a[a] ≠ 0) ∧
        branch (.vbrNeg a disp) (v.a[a].toInt < 0) ∧ branch (.vbrNneg a disp) (0 ≤ v.a[a].toInt)) ∧
      (∀ k : Fin 8, branch (.vbrKany k disp) (v.mask k ≠ 0) ∧ branch (.vbrKnone k disp) (v.mask k = 0))) ∧
    (∃ t, exec .vend s = .next t ∧ t.mem = s.mem ∧ (∀ i : Fin 4, t.me.vec.loops[i].armed = false) ∧
      t.me.vec.pc = v.pc + 8 ∧ t.me.vec.run = (if v.run = .kernelRun then .held else .stopped)) ∧
    (∀ b : LendBank, let n := if b = .vb2 then 2 else 3;
      (v.lent n = true ∨ (∀ e ∈ v.pend, ¬ (e.kind = .v ∧ e.reg / 8 = n)) →
        ∃ t, exec (.vlend b) s = .next t ∧ t.me.vec.lent n = true ∧ t.me.vec.pc = (loopStep v.pc v.loops).2 ∧ t.mem = s.mem) ∧
      (v.lent n = false → s.me.ctl.past = false → (∃ e ∈ v.pend, e.kind = .v ∧ e.reg / 8 = n) →
        exec (.vlend b) s = .next (vecTrap .lendBusy (BitVec.ofNat 64 n) s)) ∧
      (v.lent n = false ∨ s.me.bankHeld b = false → ∃ t, exec (.vreclaim b) s = .next t ∧ t.me.vec.lent n = false ∧
        t.me.vec.pc = (loopStep v.pc v.loops).2 ∧ t.mem = s.mem) ∧
      (v.lent n = true → s.me.bankHeld b = true → exec (.vreclaim b) s = .next (vecHeld .other s))) ∧
    (∀ (pc : Word) (l : Vector Level 4), let ends (j : Fin 4) : Prop := l[j].armed = true ∧ l[j].stop = pc;
      (∀ i : Fin 4, ends i → l[i].count ≠ 0 → (∀ j, i < j → ¬ ends j) →
        (loopStep pc l).2 = l[i].start ∧ (loopStep pc l).1 = l.set i { l[i] with count := l[i].count - 1 }) ∧
      ((∀ i, ends i → l[i].count = 0) → (loopStep pc l).2 = pc + 8 ∧ ∀ i, ends i → (loopStep pc l).1[i].armed = false))

/-- R31, R91, R147 to R150, R155. The local vector accesses: loads put the lanes in flight (6 cycles, 10 indexed), stores and
reductions their data (3), with the base register's update; where a lane is active, an address outside the scratchpad is PERM,
then a bank whose format the word does not allow (its place among the checks is the model's, entry 89), and then a misaligned
address MISALIGN; an indexed word within 4 cycles of the last one is ISSUE_CONFLICT. -/
def Obligations.VectorMemory : Prop :=
  (∀ ty d a k, loads (.vld ty d a k) ty d a none k 6) ∧ (∀ ty d a x k, loads (.vldx ty d a x k) ty d a (some x) k 10) ∧
  (∀ ty d a k, stores (.vst ty d a k) .store 0 ty d a none k fun _ => true) ∧
  (∀ ty d a x k, stores (.vstx ty d a x k) .store 0 ty d a (some x) k fun l => !l.isBlock) ∧
  (∀ o : Vredm,
    let reduces (i : Instr) (op : Nat) : Prop := stores i .red op o.ty o.s o.addr none o.k fun l => !l.isBlock && l.ty == o.ty
    reduces (.vredmAdd o) 1 ∧ reduces (.vredmMin o) 2 ∧ reduces (.vredmMax o) 3 ∧ reduces (.vredmAnd o) 4 ∧
    reduces (.vredmOr o) 5 ∧ reduces (.vredmXor o) 6) ∧
  (∀ s : State, s.me.ctl.past = false →
    let stops (i : Instr) (loc : VLoc) (ty : Ty) (allows : Layout → Bool) : Prop :=
      let l := (BankFmt.of (s.bankWord s.cur (loc.addr.toNat / 131072))).layout ty
      (0x20_0000 ≤ loc.addr.toNat → exec i s = .next (vecTrap .perm loc.addr s)) ∧
      (loc.addr.toNat < 0x20_0000 → allows l = false → exec i s = .next (vecTrap .perm loc.addr s)) ∧
      (loc.addr.toNat < 0x20_0000 → allows l = true → loc.addr.toNat % 131072 % l.size ≠ 0 →
        exec i s = .next (vecTrap .misalign loc.addr s))
    (∀ (ty : Ty) (d : Fin 32) (a : VAddr 25) (k : Fin 8) (loc : VLoc), s.me.vaddr a = .ok loc → s.me.checkLent [d] = .ok () →
      s.me.vec.mask k ≠ 0 → stops (.vld ty d a k) loc ty (fun _ => true) ∧
        (s.me.checkUes (s.me.vec.mask k) [d] = .ok () → stops (.vst ty d a k) loc ty fun _ => true)) ∧
    (∀ (ty : Ty) (d : Fin 32) (a : VAddr 20) (x : Fin 32) (k : Fin 8) (loc : VLoc), s.me.vaddr a = .ok loc →
      s.me.checkLent [d, x] = .ok () → (∀ n, s.me.vec.idxAt = some n → n + 4 ≤ s.me.vec.now) → s.me.vec.mask k ≠ 0 →
      (s.me.checkUes (s.me.vec.mask k) [x] = .ok () → stops (.vldx ty d a x k) loc ty fun _ => true) ∧
      (s.me.checkUes (s.me.vec.mask k) [d, x] = .ok () → stops (.vstx ty d a x k) loc ty fun l => !l.isBlock)) ∧
    (∀ (o : Vredm) (loc : VLoc), s.me.vaddr o.addr = .ok loc → s.me.checkLent [o.s] = .ok () →
      s.me.checkUes (s.me.vec.mask o.k) [o.s] = .ok () → s.me.vec.mask o.k ≠ 0 →
      let red (i : Instr) : Prop := stops i loc o.ty fun l => !l.isBlock && l.ty == o.ty
      red (.vredmAdd o) ∧ red (.vredmMin o) ∧ red (.vredmMax o) ∧ red (.vredmAnd o) ∧ red (.vredmOr o) ∧ red (.vredmXor o))) ∧
  (∀ (s : State) (ty : Ty) (d : Fin 32) (a : VAddr 20) (x : Fin 32) (k : Fin 8) (loc : VLoc) (n : Nat), s.me.vaddr a = .ok loc →
    s.me.checkLent [d, x] = .ok () → s.me.ctl.past = false → s.me.vec.idxAt = some n → s.me.vec.now < n + 4 →
    exec (.vldx ty d a x k) s = .next (vecTrap .issueConflict 1 s) ∧
    exec (.vstx ty d a x k) s = .next (vecTrap .issueConflict 1 s))

/-- R87, R89, R96, R99, R117, R150, R154, R155, R201. A result that is due lands: active lanes and their poison into a vector
register, enabled bits into a mask but k0, a value into an address register, F; in a RAW bank a store leaves its active lanes'
low bytes and nothing else, a reduction its elements' new values, no atomic of the stream being under way to those bytes. Flags
merge into FSR. -/
def Obligations.VectorResultLanding : Prop :=
  ∀ (s : State) (c : Nat) (e : PEntry), (s.core c).vec.pend = [e] → e.due ≤ (s.core c).vec.now → e.src ≠ none →
    s.ownAtomics c e.seq e.runs = [] →
    ∃ t, exec (.vectorResultLanding c) s = .next t ∧ exec (.frameEntryReinjection c) s = .next t ∧ (t.core c).vec.pend = [] ∧
      let v := (s.core c).vec
      let u := (t.core c).vec
      let bank := e.home
      let b := e.offset.toNat % 131072
      let size := e.ty.size
      let raw : Prop := (BankFmt.of (e.bank.setWidth 64)).fmt = .raw ∧ b % size = 0
      let at_ (i : Nat) : Nat := spadKey c (bank * 131072 + b + i * size)
      let inBank (i : Nat) : Prop := active e.lanes i = true ∧ i < 64 ∧ b + (i + 1) * size ≤ 131072
      ((e.kind = .v ∨ e.kind = .k ∨ e.kind = .a ∨ e.kind = .f) → t.mem = s.mem ∧
        (t.core c).csr.fsr = (s.core c).csr.fsr ||| e.flags.setWidth 64) ∧
      (∀ r : Fin 32, e.kind = .v → e.reg = r.val → ∀ i : Fin 64,
        u.v[r][i] = (if active e.lanes i.val then e.value[i] else v.v[r][i]) ∧
        u.poison[r].getLsbD i.val = (if active e.lanes i.val then e.poison.getLsbD i.val else v.poison[r].getLsbD i.val)) ∧
      (∀ r : Fin 8, e.kind = .k → e.reg = r.val → ∀ i, i < 64 →
        u.k[r].getLsbD i = (if r ≠ 0 ∧ active e.lanes i then e.word.getLsbD i else v.k[r].getLsbD i)) ∧
      (∀ r : Fin 12, e.kind = .a → e.reg = r.val → u.a = v.a.set r e.word) ∧
      (e.kind = .f → (t.core c).ctl.f = FReg.ofCode e.word.toNat) ∧
      (e.kind = .store → raw →
        (∀ i, inBank i → t.readNat (at_ i) size = e.ty.low (e.value.toList.getD i 0)) ∧
        ∀ a, (∀ i, inBank i → ¬ (at_ i ≤ a ∧ a < at_ i + size)) → t.readByte a = s.readByte a) ∧
      (e.kind = .red → raw → (s.core c).csr.errinj.toNat % 2 = 0 → (∀ i, inBank i → s.poisoned (at_ i) size = false) →
        (∀ i, inBank i → t.readNat (at_ i) size =
          e.ty.low ((redOp e.op).apply e.ty (e.ty.extend (s.readNat (at_ i) size)) (e.value.toList.getD i 0)).v) ∧
        ∀ a, (∀ i, inBank i → ¬ (at_ i ≤ a ∧ a < at_ i + size)) → t.readByte a = s.readByte a)

/-- R88, R95, R152 to R154. `vldq` and `vamo` take an entry of their queue and start one access per active lane, each of its own
address; a full queue holds them and a misaligned address, with a lane active, is MISALIGN. An access that is performed ends in
its lane. `vpop` waits for an absent head, traps its fault and leaves it, and otherwise puts the active lanes in flight (2). -/
def Obligations.VectorQueues : Prop :=
  ∀ (s : State) (q : Fin 2) (k : Fin 8),
    let m := s.me.vec.mask k
    let started (i : Instr) (b : Sys2Proof.Ab) (off : Word) (ty : Ty) (lane : Nat → Word → Req) : Prop :=
      (8 ≤ s.me.vec.vlq[q].length → ∃ more, exec i s = .next (vecHeld (.queue (14 + q.val) more) s) ∧
        (s.me.awaitAb b = .ok () → more = [])) ∧
      (s.me.vec.vlq[q].length < 8 → ∀ w y, s.me.ab b = .ok (w, y) →
        let a := w + off
        let reqs := (upto 64).map fun i => if active m i then some (lane i (a + BitVec.ofNat 64 (i * ty.size))) else none
        (m ≠ 0 → a.toNat % ty.size ≠ 0 → s.me.ctl.past = false → exec i s = .next (vecTrap .misalign a s)) ∧
        (a.toNat % ty.size = 0 ∨ m = 0 → s.checkRequests reqs = .ok () → ∃ t, exec i s = .next t ∧
          t.me.vec.pc = (loopStep s.me.vec.pc s.me.vec.loops).2 ∧ t.mem = s.mem ∧
          t.me.vec.vlq[q] = s.me.vec.vlq[q] ++ [{ id := s.nextId, lanes := reqs.map fun r => r.map fun _ => .absent, reqs := reqs
                                                  flags := 0, nan := false, nanLane := 0 }] ∧
          t.flight.length + t.gloads.length = s.flight.length + s.gloads.length + (reqs.filter (·.isSome)).length))
    let req (op : AccOp) (a : ReqAddr) (ty : Ty) (zue : Bool) : Req :=
      { op := op, addr := a, ty := ty, ord := .plain, zue := zue, kernel := s.me.ctl.kernel }
    (∀ (ty : Ty) (b : Sys2Proof.Ab) (off : BitVec 25),
      started (.vldq ty q (.plain b off) k) b (off.signExtend 64) ty (fun _ a => req .load (.virt a) ty false) ∧
      started (.vldq ty q (.zue b off) k) b (off.signExtend 64) ty (fun _ a => req .load (.virt a) ty true) ∧
      started (.vldq ty q (.group b off) k) b (off.signExtend 64) ty (fun _ a => req .load (.group a) ty false)) ∧
    (∀ (o : Vamo) (b : Sys2Proof.Ab) (off : BitVec 20), o.q = q → o.k = k → s.me.checkLent [o.s] = .ok () →
      s.me.checkUe o.s m = .ok () → o.addr = .plain b off →
      let amo (i : Instr) (op : AmoOp) : Prop := started i b (off.signExtend 64) o.ty fun n a =>
        req (.amo op (s.me.vec.lane o.s n)) (.virt a) o.ty false
      amo (.vamoSwap o) .swap ∧ amo (.vamoAdd o) .add ∧ amo (.vamoMin o) .min ∧ amo (.vamoMax o) .max ∧ amo (.vamoAnd o) .and ∧
      amo (.vamoOr o) .or ∧ amo (.vamoXor o) .xor) ∧
    (∀ (o : Vamo) (b : Sys2Proof.Ab) (off : BitVec 20) (w : Word) (y : Core), o.q = q → o.k = k → s.me.checkLent [o.s] = .ok () →
      s.me.checkUe o.s m = .ok () → o.addr = .loc b off → s.me.vec.vlq[q].length < 8 → s.me.ab b = .ok (w, y) →
      let a := w + off.signExtend 64
      let e := s.velems a o.ty none
      s.checkElems a e m (!e.lay.isBlock && e.lay.ty == o.ty) true = .ok () →
      let amo (i : Instr) (op : AmoOp) : Prop :=
        let reqs := (upto 64).map fun n => if active m n then
          some (req (.amo op (s.me.vec.lane o.s n)) (.loc (a + BitVec.ofNat 64 (n * o.ty.size)).toNat) o.ty false) else none
        ∃ t, exec i s = .next t ∧ t.me.vec.pc = (loopStep s.me.vec.pc s.me.vec.loops).2 ∧ t.mem = s.mem ∧
          t.me.vec.vlq[q] = s.me.vec.vlq[q] ++ [{ id := s.nextId, lanes := reqs.map fun r => r.map fun _ => .absent, reqs := reqs
                                                  flags := 0, nan := false, nanLane := 0 }]
      amo (.vamoSwap o) .swap ∧ amo (.vamoAdd o) .add ∧ amo (.vamoMin o) .min ∧ amo (.vamoMax o) .max ∧ amo (.vamoAnd o) .and ∧
      amo (.vamoOr o) .or ∧ amo (.vamoXor o) .xor) ∧
    (∀ d : Fin 32, (s.me.vec.vlq[q] = [] → exec (.vpop d q k) s = .next (vecHeld (.queue (14 + q.val)) s)) ∧
      ∀ e rest, s.me.vec.vlq[q] = e :: rest →
        (e.present = false → exec (.vpop d q k) s = .next (vecHeld (.queue (14 + q.val)) s)) ∧
        (e.present = true → s.me.checkLent [d] = .ok () →
          (∀ t, e.fault = some t → s.me.ctl.past = false → exec (.vpop d q k) s = .next (vecTrap t.cause t.info s)) ∧
          (e.fault = none → ∃ t p, exec (.vpop d q k) s = .next t ∧ t.me.vec.vlq[q] = rest ∧
            t.me.vec.pend = s.me.vec.pend ++ [p] ∧ p.kind = .v ∧ p.reg = d.val ∧ p.due = s.me.vec.now + 2 ∧ p.lanes = m ∧
            p.flags = e.flags ∧ t.mem = s.mem ∧
            (∀ i v, i < 64 → e.lanes[i]? = some (some (.value v)) → p.value.toList[i]? = some v) ∧
            (∀ i, i < 64 → active m i = true → e.lanes[i]? = some none → p.value.toList[i]? = some 0) ∧
            (∀ i va, i < 64 → active m i = true → e.lanes[i]? = some (some (.poison va)) → p.poison.getLsbD i = true) ∧
            ((∃ i, i < 64 ∧ active m i = true ∧ e.lanes[i]? = some (some .zeroed)) →
              t.me.csr.uezcount = s.me.csr.uezcount + 1)))) ∧
    (∀ (n i l : Nat) (a : Access) (s1 : State) (r : Result), s.flight[n]? = some a → a.back = .vlq q i l → a.parked = false →
      a.barrier = none → s.mayPerform n a = true → s.performHome a = (s1, .done r) →
      exec (.vlqEntryArrival n) s = .next (State.deliver { s1 with flight := dropNth s1.flight n } a.core a.back r))

/-- R47, R48, R103, R199, R201, R260, R362, R363. A stream that has waited more than 2^20 cycles on one queue traps QUEUE_STALL
with the code of the queue, of several that of the first operand (the model's choice, entry 119), the control stream before the vector stream, and neither while a word completes past its commit point
or a NANTRAP comes first; where the control stream has a word to offer, the vector stream's trap is left to the offers of the
cycle. The correctable errors of one cycle freeze a core for 16 cycles more, once; the last cycle of a freeze lets every count go
on; an uncorrectable error poisons the granule of its byte and changes no byte. -/
def Obligations.CoreEvents : Prop :=
  ∀ (s : State) (c : Nat),
    let x := s.core c
    let ops (w : Option Wait) : List Nat := match w with | some (.queue a more) => a :: more | _ => []
    let stalled (w : Option Wait) (n : Tab Nat) : Option Nat := (ops w).find? fun k => decide (2 ^ 20 < (n.find k).getD 0)
    let trap (code : Nat) (v : Bool) : Out := .next ((s.take c
      (.sync { cause := .queueStall, info := BitVec.ofNat 64 code } v)).modCore c fun y => { y with phase := .tick })
    (x.phase = .offer → x.running = true → x.ctl.past = false → x.ctl.nan = none → ∀ code,
      (stalled x.ctl.wait x.ctl.qcnt = some code → exec (.queueStall c) s = trap code false) ∧
      (stalled x.ctl.wait x.ctl.qcnt = none → stalled x.vec.wait x.vec.qcnt = some code →
        exec (.queueStall c) s = if x.ctl.running = true ∧ x.ctl.blk = none then .next s else trap code true) ∧
      (stalled x.ctl.wait x.ctl.qcnt = none → stalled x.vec.wait x.vec.qcnt = none →
        exec (.queueStall c) s = .next s)) ∧
    ((x.ctl.past = true ∨ x.ctl.nan ≠ none) → exec (.queueStall c) s = .next s) ∧
    (∃ t, exec (.correctableErrorFreeze c) s = .next t ∧
      (t.core c).freeze = (if x.corrected = true then x.freeze else x.freeze + 16) ∧ (t.core c).corrected = true ∧
      t.mem = s.mem ∧ (t.core c).ctl = x.ctl) ∧
    (x.freeze = 1 → ∃ t, exec (.freezeEnd c) s = .next t ∧ (t.core c).freeze = 0 ∧ t.mem = s.mem ∧ (t.core c).ctl = x.ctl ∧
      (t.core c).csr.cycle = x.csr.cycle + 1 ∧ (t.core c).csr.eccfreeze = x.csr.eccfreeze + 1) ∧
    (x.freeze ≠ 1 → exec (.freezeEnd c) s = .next s) ∧
    (∀ (p : Nat) (pa : BitVec 44), ∃ t, exec (.uncorrectableError p pa) s = .next t ∧ t.mem = s.mem ∧
      t.poisoned (key p pa.toNat) 1 = true)

/-- R178, R363, R364, R366, R370, R375. What a running core takes before its words: DEBUG first, which halts it; then at U the
watchdog, a trim event or an engine fault as a kernel trap, or an enabled V cause as a user-level interrupt with its value, its
PEND cleared. -/
def Obligations.AsynchronousEvents : Prop :=
  ∀ (s : State) (c : Nat),
    let x := s.core c
    let e := x.events
    let kernel (t : State) (v : Event) : Prop :=
      (t.core c).ctl.kernel = true ∧ (t.core c).ctl.pc = x.csr.kvec &&& ~~~7 ∧ (t.core c).csr.kcause = v.causeWord ∧
      (t.core c).csr.kinfo = v.trap.info ∧ (t.core c).csr.kframe = x.csr.kframe + 320 * 64 ∧ (t.core c).phase = .tick
    let fits := x.csr.kframe.toNat / 64 % 2 ^ 15 * 64 + 20480 ≤ 0x1F_FFC0
    x.phase = .offer → x.freeze = 0 → (x.mode = .normal ∨ x.mode = .haltPending) → x.ctl.past = false →
    (e.debug = true → fits → ∃ t, exec (.debugHalt c) s = .next t ∧ kernel t (.ofAsync { cause := .debug, info := 0 }) ∧
      (t.core c).mode = .halted ∧ (t.core c).events.debug = false) ∧
    (e.debug = false → e.thermal = true → fits → ∃ t, exec (.contextSave c) s = .next t ∧
      kernel t (.ofAsync { cause := .thermalSave, info := 0 }) ∧ (t.core c).mode = .saving .thermalSave) ∧
    (e.debug = false → e.thermal = false → x.ctl.kernel = false →
      (e.watchdog = true → fits → ∀ i, i = Instr.preemptWatchdog c ∨ i = Instr.kernelTrap c → ∃ t, exec i s = .next t ∧
        kernel t (.ofAsync { cause := .preemptWatchdog, info := BitVec.ofNat 64 (x.csr.preempt.toNat / 256 % 2 ^ 32) }) ∧
        bitOf (t.core c).csr.preempt 2 = true ∧ (t.core c).events.watchdog = false) ∧
      (e.watchdog = false → ∀ h, e.trimUe = some h → fits → ∃ t, exec (.kernelTrap c) s = .next t ∧
        kernel t (.ofAsync { cause := .trimUe, info := h }) ∧ (t.core c).events.trimUe = none) ∧
      (e.watchdog = false → e.trimUe = none → ∀ f, x.engineFault = some f → fits →
        (f.trap.cause.delegable = false ∨ bitOf x.csr.udeleg f.trap.cause.code = false ∨ bitOf x.csr.uie 1 = true) →
        ∃ t, exec (.kernelTrap c) s = .next t ∧ kernel t f.event ∧ (t.core c).events.engine = e.engine.erase f) ∧
      (e.watchdog = false → e.trimUe = none → x.engineFault = none → ∀ i cause, x.vEvent = some (i, cause) →
        x.csr.uframe.toNat / 64 % 2 ^ 15 * 64 + 20480 ≤ 0x1F_FFC0 →
        ∃ t, exec (.userLevelInterrupt c) s = .next t ∧ (t.core c).ctl.pc = x.csr.uvec &&& ~~~7 ∧
          (t.core c).ctl.kernel = false ∧ (t.core c).csr.uinfo = e.vals[i] ∧ bitOf (t.core c).csr.uie 1 = true ∧
          bitOf (t.core c).csr.uie (32 + i.val) = false ∧
          (t.core c).csr.ucause = (Event.ofAsync { cause := cause, info := e.vals[i] }).causeWord))

/-- R176 to R178, R225, R376, R377. A core that is being saved, once it is quiet, marks its slot SAVING; it then writes its image
block by block into the slot, the words of the header, the scalar, address and vector registers and the scratchpad where R376 puts
them (the rest of the image is the model's own, entry 3), and with the last block the slot is VALID and the core saved and DRAINED. In a started
launch with RESUME a VALID slot is restored into an idle core that is not DRAINED: the scratchpad comes back, the slot is EMPTY,
and the core goes on as `kret` from its last frame would; in one without RESUME nothing is. -/
def Obligations.Contexts : Prop :=
  ∀ (s : State) (c k r : Nat), s.rankOf c = some (k, r) →
    let x := s.core c
    let l := (s.part k).slot r
    (∀ cause, x.mode = .saving cause → (l.state ≠ 1 ∨ l.home ≠ c) → s.quiet c = true → ∃ t, exec (.contextSave c) s = .next t ∧
      let at_ := s.slotKey c
      t.readWord at_ = 1 ∧ (∀ a, ¬ (at_ ≤ a ∧ a < at_ + 8) → t.readByte a = s.readByte a) ∧
      ((t.part k).slot r).state = 1 ∧ ((t.part k).slot r).cause = BitVec.ofNat 64 cause.code ∧ ((t.part k).slot r).home = c ∧
      ((t.part k).slot r).rank = r ∧ ((t.part k).slot r).tenant = x.csr.tenant ∧ ((t.part k).slot r).at_ = at_ ∧
      ((t.part k).slot r).written = 0) ∧
    (∀ cause, x.mode = .saving cause → (l.state ≠ 1 ∨ l.home ≠ c) → s.quiet c = false → exec (.contextSave c) s = .next s) ∧
    (∀ cause, x.mode = .saving cause → l.state = 1 → l.home = c → l.written < 8448 → ∃ t, exec (.contextSave c) s = .next t ∧
      let block := l.at_ + 256 * l.written
      (l.written = 0 → t.readWord block = 1 ∧ t.readWord (block + 8) = BitVec.ofNat 64 l.rank ∧
        t.readWord (block + 16) = l.cause ∧ t.readWord (block + 24) = l.slice.setWidth 64 ∧ t.readWord (block + 32) = l.tenant) ∧
      (∀ n : Fin 32, n ≠ 0 → l.written = 1 → t.readWord (block + 8 * (n.val - 1)) = x.ctl.s[n]) ∧
      (l.written = 11 → (∀ n : Fin 8, t.readWord (block + 8 * n.val) = x.vec.k[n]) ∧
        ∀ n : Fin 12, t.readWord (block + 64 + 8 * n.val) = x.vec.a[n]) ∧
      (∀ (v : Fin 32) (i : Nat), i < 32 → (l.written = 16 + 2 * v.val → t.readWord (block + 8 * i) = x.vec.lane v i) ∧
        (l.written = 17 + 2 * v.val → t.readWord (block + 8 * i) = x.vec.lane v (32 + i))) ∧
      (256 ≤ l.written → ∀ i, i < 256 → t.readByte (block + i) = s.readByte (spadKey c (256 * (l.written - 256)) + i)) ∧
      (∀ a, ¬ (block ≤ a ∧ a < block + 256) → (l.written + 1 = 8448 → ¬ (l.at_ ≤ a ∧ a < l.at_ + 8)) →
        t.readByte a = s.readByte a) ∧
      (l.written + 1 < 8448 → ((t.part k).slot r).written = l.written + 1 ∧ (t.core c).mode = x.mode) ∧
      (l.written + 1 = 8448 → t.readWord l.at_ = 2 ∧ ((t.part k).slot r).state = 2 ∧ ((t.part k).slot r).image = some x ∧
        (t.core c).mode = .saved ∧ bitOf (t.core c).csr.preempt 1 = true)) ∧
    (((∀ n, (s.part k).launch = some n → n.resume = false) ∨ x.drained = true) → exec (.contextRestore c) s = .next s) ∧
    (∀ n, (s.part k).started = true → (s.part k).launch = some n → n.resume = true → x.mode = .normal → x.task = false →
        x.ctl.running = false → x.drained = false →
      (∀ img, l.state = 2 → l.image = some img →
        let f := l.movedTo (s.gang c)
        let t := s.write (spadKey c 0) (s.readBytes (l.at_ + 0x1_0000) 0x20_0000)
        let u := (l.bad.foldl (fun s o => s.poisonGranule (spadKey c o)) t).modCore c fun x => x.restored img f
        let v := (u.writeNat l.at_ 8 0).modSlot k r fun _ => CtxSlot.empty
        ∀ w, v.returnKernel c = .ok w → exec (.contextRestore c) s = .next w) ∧
      (l.state = 3 → ∃ t, exec (.contextRestore c) s = .next t ∧ ((t.part k).slot r).state = 0 ∧ t.readWord l.at_ = 0 ∧
        (∀ n g, l.rings = [(n, g)] → ∃ h, (t.core c).rings.find n = some h ∧ h.base = g.base ∧ h.size = g.size ∧
          h.claimed = g.claimed ∧ h.arrived = g.arrived ∧ h.next = g.next)) ∧
      (l.state ≠ 2 → l.state ≠ 3 → exec (.contextRestore c) s = .next s))

/-- R162 to R179, R225, R227, R386, R387. A submission that passes its checks, in every package of its partition, becomes the
launch of the partition, and one that fails is answered with its reason; a launch starts every core at its entry with rank, frame and count in s1 to s3 and the other registers
0; a resumed slice starts them idle; an idle core takes the first record of its search and starts its task; a launch or slice
that has ended writes its status word and is gone. That reason 10 with FLAGS or CADDR unreadable has no completion word is the
model's choice (entry 56), and so are the details of the search and the pop (entry 93). -/
def Obligations.Launches : Prop :=
  ∀ (s : State) (p : Nat) (f : Fin 64),
    let k := s.partOf p f.val
    let gang := s.members p k
    let x := (s.pkg p).func f.val
    let e := x.part
    (s.takes p f.val = false → exec (.launchSubmit p f) s = .next s) ∧
    (∀ va rest tr, x.subs = va :: rest → s.takes p f.val = true → (s.part k).launch = none → e.valid = true →
      let t := s.modFunc p f.val fun y => { y with subs := rest }
      t.devBytes p e.ptbase va 128 = .error tr → t.recordReason p f.val va (s.totalCores p f.val) = 10 ∧
        ∃ u, exec (.launchSubmit p f) s = .next u ∧ (u.part k).launch = none ∧
          (t.recordRest p e.ptbase va = none → u.mem = s.mem ∧ u.hostOut = s.hostOut ∧ ((u.pkg p).func f.val).subs = rest)) ∧
    (∀ va rest b, x.subs = va :: rest → s.takes p f.val = true → (s.part k).launch = none → e.valid = true →
      let t := s.modFunc p f.val fun y => { y with subs := rest }
      t.devBytes p e.ptbase va 128 = .ok b →
      let r := Record.of b
      let others := (s.partPkgs (s.pkg p).domain k).filter (· != p)
      let why := (((p :: others).map fun q => t.recordReason q f.val va (s.totalCores p f.val)).find? (· != 0)).getD 0
      (others = [] → why = r.reason (s.totalCores p f.val) e.klaunch) ∧
      (why = 0 → (r.prep = 0 ∨ r.resume = true) → ∃ u, exec (.launchSubmit p f) s = .next u ∧ u.mem = s.mem ∧
        ((u.pkg p).func f.val).subs = rest ∧ (u.part k).started = false ∧ (u.part k).launch = some
          { addr := va, entry := wordAt b 0, frame := wordAt b 8, n := at_ b 0x10 4, levels := r.levels.take r.nlevels
            flags := BitVec.ofNat 8 r.flags, msivec := at_ b 0x16 2, caddr := wordAt b 0x18, qbase := wordAt b 0x28
            slice := if r.resume then BitVec.ofNat 32 (r.state.toNat / 2 ^ 32 + 1) else 1
            prep := [], pkg := p, func := f }) ∧
      (why ≠ 0 → ∃ u, exec (.launchSubmit p f) s = .next u ∧ (u.part k).launch = none ∧
        (hasBit r.flags 0 = false → u.mem = s.mem) ∧ (hasBit r.flags 0 = true → s.devHeld p e.ptbase r.caddr = true → u = s) ∧
        ∀ v, hasBit r.flags 0 = true → s.devHeld p e.ptbase r.caddr = false → t.devStore p e.ptbase r.caddr (BitVec.ofNat 64
          ((if r.resume then r.state.toNat / 2 ^ 32 else 0) * 2 ^ 32 + why * 2 ^ 16 + 2)) = .ok v → u.mem = v.mem)) ∧
    (∀ l, (s.part k).launch = some l → (s.part k).started = false → s.canBegin f.val gang = true → gang.Nodup →
      (l.flags.getLsbD 2 = false → ∃ t, exec (.gangStart p f) s = .next t ∧ (t.part k).started = true ∧
        ∀ i c, gang[i]? = some c →
          let y := t.core c
          y.task = true ∧ y.ctl.running = true ∧ y.ctl.pc = l.entry ∧ y.ctl.kernel = l.flags.getLsbD 3 ∧
          y.ctl.s[1] = BitVec.ofNat 64 i ∧ y.ctl.s[2] = l.frame ∧ y.ctl.s[3] = BitVec.ofNat 64 l.n ∧
          (∀ n : Fin 32, n.val = 0 ∨ 4 ≤ n.val → y.ctl.s[n] = 0) ∧ y.csr.rank = BitVec.ofNat 64 i ∧
          y.csr.ncores = BitVec.ofNat 64 l.n ∧ y.csr.ptbase = (s.entry (pkgOf c) f.val).ptbase ∧
          y.csr.kvec = (s.core c).csr.kvec ∧ y.csr.fsr = 0) ∧
      (l.flags.getLsbD 2 = true → ∃ t, exec (.resumedSliceStart p f) s = .next t ∧ (t.part k).started = true ∧ t.mem = s.mem ∧
        ∀ c ∈ gang, (t.core c).task = false ∧ (t.core c).ctl.running = false)) ∧
    (∀ c n l, s.partOfCore c = some n → (s.part n).launch = some l → (s.part n).started = true → s.mayPop c n l = true →
      (s.firstLoaded c (l.search (s.gang c) c) = .ok none → exec (.idleCorePop c) s = .next s) ∧
      (∀ q keys r, s.firstLoaded c (l.search (s.gang c) c) = .ok (some (q, keys)) →
        keys.record (s.readWord keys.head).toNat = .ok r → s.writeHeld keys.head = false → s.poisoned r 32 = false →
        (s.readWord r).toNat % 8 = 0 → ∃ t, exec (.idleCorePop c) s = .next t ∧ t.readWord keys.head = s.readWord keys.head + 1 ∧
          (∀ a, ¬ (keys.head ≤ a ∧ a < keys.head + 8) → t.readByte a = s.readByte a) ∧
          (t.core c).task = true ∧ (t.core c).ctl.running = true ∧ (t.core c).ctl.kernel = false ∧
          (t.core c).ctl.pc = s.readWord r ∧ (t.core c).ctl.s[1] = (s.core c).csr.rank ∧
          (t.core c).ctl.s[2] = s.readWord (r + 8) ∧ (t.core c).ctl.s[3] = BitVec.ofNat 64 l.n ∧
          (t.core c).ctl.s[4] = s.readWord (r + 16) ∧ (t.core c).ctl.s[5] = s.readWord (r + 24) ∧
          ∀ i : Fin 32, i.val = 0 ∨ 6 ≤ i.val → (t.core c).ctl.s[i] = 0)) ∧
    (∀ l, (s.part k).launch = some l → s.endHeld l k = false →
      let word (status : Nat) : Word := BitVec.ofNat 64 (l.slice.toNat * 2 ^ 32 + status)
      let wrote (r : State) (status : Nat) (u : State) : Prop :=
        r.devStore l.pkg (r.entry l.pkg l.func.val).ptbase (l.addr + 0x30) (word status) = .ok u
      l.flags.getLsbD 0 = false →
      (∀ u, s.complete? k l gang = true → wrote s 1 u → ∃ t, exec (.launchComplete p f) s = .next t ∧ t.mem = u.mem ∧
        (t.part k).launch = none ∧ (t.part k).groups = []) ∧
      (s.complete? k l gang = false → exec (.launchComplete p f) s = .next s) ∧
      ((s.part k).started = true → (∀ c ∈ gang, bitOf (s.core c).csr.preempt 1 = true ∧ s.storesDone c = true ∧
          ((s.core c).mode ≠ .saved → (s.core c).queuesEmpty = true ∧ (s.core c).task = false)) →
        let kept := gang.zipIdx.foldl (fun r c => r.saveRings k c.2 c.1) s
        let gone := (gang.foldl (fun r c =>
          (r.abandonAll ((r.core c).mail ++ (r.core c).ctl.h.toList)).modCore c fun x => x.clearTiles false) s).emptySlots k
        (∀ u, (∀ c ∈ gang, (s.core c).mode ≠ .saved → (s.core c).clean = true) → wrote kept 3 u →
          ∃ t, exec (.sliceEnd p f) s = .next t ∧ t.mem = u.mem ∧ (t.part k).launch = none) ∧
        (∀ u, (∃ c ∈ gang, (s.core c).mode ≠ .saved ∧ (s.core c).clean = false) → wrote gone 4 u →
          ∃ t, exec (.sliceEnd p f) s = .next t ∧ t.mem = u.mem ∧ (t.part k).launch = none ∧ (t.part k).slots = [])) ∧
      ((∃ c ∈ gang, (s.core c).mode ≠ .saved ∧ ((s.core c).queuesEmpty = false ∨ (s.core c).task = true)) →
        exec (.sliceEnd p f) s = .next s))

/-- R176, R177, R379, R386, R398, R399, R401, R406, R418. In a package that works, a pre-emption request reaches every core of the
partition at once, and withdraws while none has drained; an entry becomes VALID only if its checks pass, with its block-table store
zero, and an entry made invalid resets its cores; a function-level reset ends the partition's work and empties its slots; a
submission waits in its function, the seventeenth sets OVF; a held MSI-X event goes out at the end of its interval, but not in
ERROR. That an entry made invalid drops its launch and keeps its slots is the model's choice (entry 60), and so are the entry that a
function-level reset keeps (entry 61) and the details of pre-emption and of DRAINED (entry 59). -/
def Obligations.PartitionsAndFunctions : Prop :=
  ∀ (s : State) (p : Nat) (f : Fin 64) (v : Word),
    let k := s.partOf p f.val
    let gang := s.members p k
    let x := (s.pkg p).func f.val
    (∀ i, (i = Instr.fpreemptWrite p f v ∧ s.takes p f.val = true) ∨ (i = Instr.preqWrite p f v ∧ s.takes p 0 = true) →
      (v.getLsbD 0 = true → ∃ t, exec i s = .next t ∧ t.mem = s.mem ∧ ∀ c ∈ gang, bitOf (t.core c).csr.preempt 0 = true ∧
        ((s.core c).task = false → (∀ q ∈ (s.core c).queues.toList, q.entries = []) →
          bitOf (t.core c).csr.preempt 1 = true)) ∧
      (v.getLsbD 0 = false → ∃ t, exec i s = .next t ∧ t.mem = s.mem ∧ ∀ c ∈ gang,
        ((∀ d ∈ gang, bitOf (s.core d).csr.preempt 1 = false) → bitOf (t.core c).csr.preempt 0 = false) ∧
        ((∃ d ∈ gang, bitOf (s.core d).csr.preempt 1 = true) → t.core c = s.core c))) ∧
    (s.takes p f.val = false → exec (.fpreemptWrite p f v) s = .next s ∧ exec (.fsub p f v) s = .next s) ∧
    (s.takes p 0 = false → exec (.preqWrite p f v) s = .next s ∧ exec (.partitionEntryValid p f) s = .next s ∧
      exec (.partitionEntryInvalidate p f) s = .next s) ∧
    (s.takes p f.val = true →
      (x.subs.length < 16 → ∃ t, exec (.fsub p f v) s = .next t ∧ ((t.pkg p).func f.val).subs = x.subs ++ [v] ∧ t.mem = s.mem) ∧
      (16 ≤ x.subs.length → ∃ t, exec (.fsub p f v) s = .next t ∧ ((t.pkg p).func f.val).subs = x.subs ∧
        ((t.pkg p).func f.val).ovf = true)) ∧
    (∀ n : Fin 2048, let m := x.vector n.val;
      (m.holding = false ∨ s.up p = false → exec (.msixIntervalEnd p f n) s = .next s) ∧
      (s.up p = true → m.holding = true → (m.held = 0 ∨ x.tdi = .error) → ∃ t, exec (.msixIntervalEnd p f n) s = .next t ∧
        t.hostOut = s.hostOut ∧ (((t.pkg p).func f.val).vector n.val).holding = false) ∧
      (s.up p = true → m.holding = true → m.held ≠ 0 → x.tdi ≠ .error → m.masked = false → ∃ t, exec (.msixIntervalEnd p f n) s = .next t ∧
        t.hostOut = s.hostOut ++ [(p, m.addr, leBytes 4 m.data.toNat)] ∧ (((t.pkg p).func f.val).vector n.val).held = 0)) ∧
    (let e := s.entry p f.val;
      (e.valid = true → exec (.partitionEntryValid p f) s = .next s) ∧
      (s.takes p 0 = true → e.valid = false → (s.pkg p).entryOk f.val = false → ∃ t, exec (.partitionEntryValid p f) s = .next t ∧ t.mem = s.mem ∧
        (t.entry p f.val).valid = false ∧ (t.entry p f.val).err = true) ∧
      (s.takes p 0 = true → e.valid = false → (s.pkg p).entryOk f.val = true → ∃ t, exec (.partitionEntryValid p f) s = .next t ∧
        (t.entry p f.val).valid = true ∧ ∀ i, i < 65536 * e.btblocks.toNat →
          t.readByte (key p (e.btbase.toNat % 2 ^ 44) + i) = 0) ∧
      (e.valid = false → exec (.partitionEntryInvalidate p f) s = .next s) ∧
      (s.takes p 0 = true → e.valid = true → ∃ t, exec (.partitionEntryInvalidate p f) s = .next t ∧
        (t.entry p f.val).valid = false ∧ (t.part k).launch = none ∧
        ((∀ r l, (r, l) ∈ (s.part k).slots → l.state ≠ 1) → t.mem = s.mem ∧ (t.part k).slots = (s.part k).slots) ∧ ∀ c ∈ entryCores p e, (t.core c).task = false ∧
          (t.core c).ctl.running = false ∧ (t.core c).csr.cycle = (s.core c).csr.cycle ∧
          ∀ q ∈ (t.core c).queues.toList, q.entries = []) ∧
      (s.up p = false → exec (.functionLevelReset p f) s = .next s) ∧
      (s.up p = true → f.val ≠ 0 → (s.part k).launch = none → ∃ t, exec (.functionLevelReset p f) s = .next t ∧
        ((s.part k).slots = [] → t.mem = s.mem) ∧ (e.valid = true → (t.part k).slots = []) ∧
        (t.entry p f.val).valid = e.valid ∧ ((t.pkg p).func f.val).subs = [] ∧
        ((t.pkg p).func f.val).tdi = (if x.locked then .error else x.tdi) ∧
        (e.valid = true → ∀ c ∈ gang, (t.core c).task = false ∧ (t.core c).ctl.running = false)))

/-- R4, R386, R388, R394, R398, R399, R403 to R406. Of a package that the state holds: host accesses to a function that takes none, or beyond its range or the 64 GiB
of BAR2, are Unsupported; a read and a write of the partition's range answer and change only those bytes. A locked interface goes to
CONFIG_LOCKED, RUN and ERROR as TDISP says; STOP zeroes the scratchpads, the context slots and the block tables. A write to BAR0
follows the access codes; NODEID stays while an entry is VALID; a VF BAR write with a locked function is discarded. An SPDM request of
the package's responder is answered, and only the secure session that it sets up lets TDISP messages in. The bytes of the answer are
free values, and the session is that of function 0: these are the model's choice (entries 6, 66, 67). -/
def Obligations.HostInterface : Prop :=
  ∀ (s : State) (p : Nat) (f : Fin 64) (v : Word), (s.pkg? p).isSome = true →
    let x := (s.pkg p).func f.val
    let e := x.part
    let reply (t : State) (code : Word) (b : List Byte) : Prop := (t.pkg p).out = (s.pkg p).out ++ [(code, b)]
    (∀ (off : Word) (w : Option (List Byte)) (n : Nat),
      let len := match w with | some b => b.length | none => n
      let pa := (e.membase.toNat + off.toNat) % 2 ^ 44
      (s.takes p f.val = false ∨ s.ringWay p none 4 (s.ringStop p (key p pa)) = true ∧
          s.ringWay p none 4 (s.ringStop p (key p pa + (len - 1))) = true ∧
          (e.valid = false ∨ 2 ^ 36 < off.toNat + len ∨ e.memsize.toNat < off.toNat + len) →
        ∃ t, exec (.hostBar2Access p f off w n) s = .next t ∧ reply t 1 [] ∧ t.mem = s.mem) ∧
      let way := s.ringWay p none 4 (s.ringStop p (key p pa)) && s.ringWay p none 4 (s.ringStop p (key p pa + (len - 1)))
      (s.takes p f.val = true → way = false → exec (.hostBar2Access p f off w n) s = .next s) ∧
      (s.takes p f.val = true → way = true → e.valid = true → off.toNat + len ≤ 2 ^ 36 → off.toNat + len ≤ e.memsize.toNat →
        e.inContext (e.membase.toNat + off.toNat) len = false → (s.pkg p).inPool pa len = false →
        (∀ b, w = some b → ∃ t, exec (.hostBar2Access p f off w n) s = .next t ∧ reply t 0 [] ∧
          t.readBytes (key p pa) b.length = b ∧
          ∀ a, ¬ (key p pa ≤ a ∧ a < key p pa + b.length) → t.readByte a = s.readByte a) ∧
        (w = none → ∃ t, exec (.hostBar2Access p f off w n) s = .next t ∧ t.mem = s.mem ∧
          reply t (if s.poisoned (key p pa) n then 2 else 0) (s.readBytes (key p pa) n)))) ∧
    (∀ req, s.up p = true → ∃ t, exec (.spdmRequest p req) s = .next t ∧ t.mem = s.mem ∧
      reply t 0 (Config.spdmAnswer req (s.tableBytes p) (Config.firmwareDigests p (s.pkg p).boots) (s.kernelImages p))) ∧
    (s.up p = false → ∀ i ∈ [Instr.nodeidWrite p v, .vfBarWrite p f 0 v, .vfBarWrite p f 1 v, .spdmRequest p []
      , .ideStreamFailure p f], exec i s = .next s) ∧
    (let secure := s.up p = true ∧ f.val ≠ 0 ∧ ((s.pkg p).func 0).session = true;
      (secure → x.tdi = .unlocked → e.valid = true → x.ide = true → x.subs = [] → (s.part (s.partOf p f.val)).launch = none →
        ∃ t, exec (.lockInterfaceRequest p f) s = .next t ∧ ((t.pkg p).func f.val).tdi = .locked ∧ reply t 0 []) ∧
      (secure → x.tdi = .locked → ∃ t, exec (.startInterfaceRequest p f) s = .next t ∧ ((t.pkg p).func f.val).tdi = .run ∧
        reply t 0 []) ∧
      (secure → x.tdi = .locked ∨ x.tdi = .run → ∃ t, exec (.getDeviceInterfaceReport p f) s = .next t ∧ reply t 0 x.report) ∧
      (secure → ∃ t, exec (.stopInterfaceRequest p f) s = .next t ∧ ((t.pkg p).func f.val).tdi = .unlocked ∧ reply t 0 [] ∧
        (∀ c ∈ entryCores p e, (s.funcOf c = none ∨ s.funcOf c = some f.val) → ∀ i, i < 0x20_0000 →
          t.readByte (spadKey c i) = 0) ∧
        (∀ i, i < e.ncores.toNat * 0x21_0000 → t.readByte (key p (e.ctxbase.toNat % 2 ^ 44) + i) = 0) ∧
        (∀ i, i < e.btblocks.toNat * 65536 → t.readByte (key p (e.btbase.toNat % 2 ^ 44) + i) = 0)) ∧
      (¬ secure → ∀ i ∈ [Instr.lockInterfaceRequest p f, .startInterfaceRequest p f, .getDeviceInterfaceReport p f
        , .stopInterfaceRequest p f], ∃ t, exec i s = .next t ∧ reply t 1 [] ∧ t.mem = s.mem)) ∧
    (s.up p = true → ∃ t, exec (.ideStreamFailure p f) s = .next t ∧ ((t.pkg p).func f.val).ide = false ∧
      ((t.pkg p).func f.val).tdi = (if x.locked then .error else x.tdi)) ∧
    (∀ off : BitVec 24, s.takes p f.val = false → exec (.registerWrite p f off v) s = .next s) ∧
    (s.takes p f.val = true →
      (∃ t, exec (.registerWrite p f 0x08 v) s = .next t ∧
        ((t.pkg p).func f.val).ovf = (x.ovf && !v.getLsbD 2) ∧ ((t.pkg p).func f.val).coreErr = (x.coreErr && !v.getLsbD 1)) ∧
      (∃ t, exec (.registerWrite p f 0x18 v) s = .next t ∧ ((t.pkg p).func f.val).coalInterval = v.setWidth 16 ∧
        ((t.pkg p).func f.val).coalCount = (v >>> 16).setWidth 16) ∧
      (f.val ≠ 0 → ∀ off : BitVec 24, off.toNat ≠ 8 → off.toNat ≠ 0x18 → off.toNat < 0x10_0000 ∨ 0x10_8000 ≤ off.toNat →
        exec (.registerWrite p f off v) s = .next s) ∧
      (f.val = 0 → ∀ off : BitVec 24,
        (∀ i o, i < 64 → o < 256 → off.toNat = 0x20_0000 + 256 * i + o → ((s.pkg p).func i).locked = false →
          (s.entry p i).valid = false → ∃ t, exec (.registerWrite p f off v) s = .next t ∧
            t.entry p i = (s.entry p i).write o v ∧ t.mem = s.mem) ∧
        (∀ i, i < 512 → off.toNat = 0x50_0008 + 64 * i → s.windowOpen (p * 512 + i) = true →
          ∃ t, exec (.registerWrite p f off v) s = .next t ∧ (t.core (p * 512 + i)).debugSel = v &&& 0xFF_FFFF_FFFF))) ∧
    ((∃ i y, (i, y) ∈ (s.pkg p).funcs ∧ y.part.valid = true) → exec (.nodeidWrite p v) s = .next s) ∧
    (s.up p = true → (∀ i y, (i, y) ∈ (s.pkg p).funcs → y.part.valid = false) → ∃ t, exec (.nodeidWrite p v) s = .next t ∧
      (t.pkg p).nodeid = v &&& 0x1F_FFFF) ∧
    (∀ bar : Fin 2, s.up p = true →
      ((∀ i y, (i, y) ∈ (s.pkg p).funcs → i ≠ 0 → y.locked = false) → ∃ t, exec (.vfBarWrite p f bar v) s = .next t ∧
        (if bar = 0 then ((t.pkg p).func f.val).bar0 else ((t.pkg p).func f.val).bar2) = v) ∧
      (∀ i y, (s.pkg p).funcs = [(i, y)] → i ≠ 0 → y.locked = true → ∃ t, exec (.vfBarWrite p f bar v) s = .next t ∧
        ((t.pkg p).func i).tdi = .error ∧ ((t.pkg p).func i).bar0 = y.bar0))

/-- R375, R407. Through an open debug window HALT raises DEBUG on a running core and RESUME lets a halted one go; while a core
is halted, DDATA writes the register that DSEL selects and CLEARFAULT takes the fault off a whole queue entry; an entry that is not
present stays; through a closed window nothing changes. What DDATA and CLEARFAULT do to an entry that is not present and to a whole
vector queue entry, and the value that CLEARFAULT leaves, are the model's choice (entry 68). -/
def Obligations.DebugWindow : Prop :=
  ∀ (s : State) (c : Nat) (v : Word),
    let x := s.core c
    let sel (space index item : Nat) : Prop := x.debugSel.toNat / 2 ^ 32 % 256 = space ∧
      x.debugSel.toNat / 65536 % 65536 = index ∧ x.debugSel.toNat % 65536 = item
    (s.windowOpen c = false → exec (.dctlHalt c) s = .next s ∧ exec (.dctlResume c) s = .next s ∧
      exec (.ddataWrite c v) s = .next s ∧ exec (.dqctlClearfault c) s = .next s) ∧
    (s.windowOpen c = true →
      (∃ t, exec (.dctlHalt c) s = .next t ∧ (t.core c).mode = (if x.mode = .normal then .haltPending else x.mode) ∧
        (t.core c).events.debug = true ∧ (t.core c).ctl = x.ctl) ∧
      (x.mode = .halted → ∃ t, exec (.dctlResume c) s = .next t ∧ (t.core c).mode = .resuming ∧ (t.core c).ctl = x.ctl) ∧
      (x.mode ≠ .halted → exec (.ddataWrite c v) s = .next s ∧ exec (.dqctlClearfault c) s = .next s) ∧
      (x.mode = .halted →
        (∀ r : Fin 32, r ≠ 0 → (∃ j, sel 0 r.val j) → ∃ t, exec (.ddataWrite c v) s = .next t ∧
          (t.core c).ctl.s = x.ctl.s.set r v ∧ t.mem = s.mem) ∧
        (∀ (r : Fin 32) (j : Fin 64), sel 2 r.val j.val → ∃ t, exec (.ddataWrite c v) s = .next t ∧
          (t.core c).vec.v[r][j] = v ∧ t.mem = s.mem) ∧
        (∀ r : Fin 8, r ≠ 0 → (∃ j, sel 3 r.val j) → ∃ t, exec (.ddataWrite c v) s = .next t ∧
          (t.core c).vec.k = x.vec.k.set r v) ∧
        (∀ r : Fin 12, (∃ j, sel 4 r.val j) → ∃ t, exec (.ddataWrite c v) s = .next t ∧ (t.core c).vec.a = x.vec.a.set r v) ∧
        (∀ i j, i < 2560 → sel 6 i j → ∃ t, exec (.ddataWrite c v) s = .next t ∧
          t.readWord (spadKey c (frameOff x.csr.kframe - 20480 + 8 * i)) = v) ∧
        (∀ (q : Fin 2) (item : Nat) (e : LqEntry), sel 7 q.val item → x.ctl.lq[q][item / 64]? = some e → e.datum.present = true →
          (∃ t, exec (.ddataWrite c v) s = .next t ∧
            (t.core c).ctl.lq[q][item / 64]? = some { e with datum := .value v }) ∧
          ((∃ tr, e.datum = .fault tr) → ∃ t, exec (.dqctlClearfault c) s = .next t ∧
            (t.core c).ctl.lq[q][item / 64]? = some { e with datum := .value 0 })) ∧
        (∀ (q : Fin 2) (item : Nat) (e : VlqEntry), sel 7 (2 + q.val) item → x.vec.vlq[q][item / 64]? = some e →
          (e.present = false → ∀ i ∈ [Instr.ddataWrite c v, .dqctlClearfault c], ∃ t, exec i s = .next t ∧
            (t.core c).vec.vlq[q][item / 64]? = some e) ∧
          (e.present = true → ∀ tr, e.lanes[item % 64]? = some (some (.fault tr)) →
            (∃ t y, exec (.ddataWrite c v) s = .next t ∧ (t.core c).vec.vlq[q][item / 64]? = some y ∧
              y.lanes[item % 64]? = some (some (.value v)) ∧ y.fault = none) ∧
            (∃ t y, exec (.dqctlClearfault c) s = .next t ∧ (t.core c).vec.vlq[q][item / 64]? = some y ∧
              y.lanes[item % 64]? = some (some (.value 0)) ∧ y.fault = none)))))

/-- R331, R340, R384, R385, R389 to R396. A ring flit moves one stop on when it may enter a slot of its class and is the first
of its stop, and leaves at its stop; a route table of a working package takes a link for a node, or none, and that of no other node;
failed replays of a link of a package in the state that is up are counted, and 64 of them take it down;
a chunk whose package refuses it, or does not answer within its domain, is its command's fault; a chunk comes after what its core
has sent to that package before, once it may cross the ring there and no swap holds it, and one that is performed is acknowledged; another domain's chunk is resent up to 16 times. That a flit moves as the first of its stop (entry 65), the INFO of a
refused chunk (entry 43), the counting of replays (entry 80) and the resending (entry 42) are the model's choice. -/
def Obligations.Network : Prop :=
  ∀ s : State,
    (∀ (k : Nat) (f : Flit) (a : Access), s.flits[k]? = some f → s.flight.find? (fun a => a.id == f.access) = some a →
      s.slotFor a.core f (s.freeClass a.core (s.keyOf a.place)) = true → (∀ g ∈ s.flits.take k, g.at_ ≠ f.at_ ∨ g.cw ≠ f.cw ∨ ∀ b ∈ s.flight, b.id = g.access →
        s.funcOf b.core ≠ s.funcOf a.core ∨ pkgOf b.core ≠ pkgOf a.core) →
      let n := if f.cw then (f.at_ + 1) % 5 else (f.at_ + 4) % 5
      (n = f.dst → exec (.ringFlitHop k) s = .next { s with flits := dropNth s.flits k }) ∧
      (n ≠ f.dst → exec (.ringFlitHop k) s = .next { s with flits := setNth s.flits k { f with at_ := n } })) ∧
    (∀ (p : Nat) (node : BitVec 12) (link : Option (Fin 18)),
      (s.up p = true → Tab.sorted (s.pkg p).routes = true → ∃ t, exec (.routeTableUpdate p node link) s = .next t ∧
        (t.pkg p).routes.find node.toNat = link ∧ t.mem = s.mem ∧
        ∀ m, m ≠ node.toNat → (t.pkg p).routes.find m = (s.pkg p).routes.find m) ∧
      (s.up p = false → exec (.routeTableUpdate p node link) s = .next s)) ∧
    (∀ (p : Nat) (l : Fin 18), (s.pkg? p).isSome = true →
      ((s.pkg p).linkDown[l] = false → ∀ good, ∃ t, exec (.linkFlitReplay p l good) s = .next t ∧
        (t.pkg p).replays[l] = if good then 0 else (s.pkg p).replays[l] + 1) ∧
      ((s.pkg p).linkDown[l] = true → ∀ good, ∃ t, exec (.linkFlitReplay p l good) s = .next t ∧
        (t.pkg p).replays[l] = (s.pkg p).replays[l]) ∧
      (∃ t, exec (.linkDown p l) s = .next t ∧ t.mem = s.mem ∧
        ((t.pkg p).linkDown[l] = true ↔ (s.pkg p).linkDown[l] = true ∨ 64 ≤ (s.pkg p).replays[l]))) ∧
    (∀ (k : Nat) (ch : Chunk), s.chunks[k]? = some ch →
      let fails (i : Instr) (x : Cmd) (r : Run) (t : Trap) : Prop := ∃ u, exec i s = .next u ∧ u.mem = s.mem ∧
        u.chunks = dropNth s.chunks k ∧ (u.core ch.src).queues.toList[ch.q.val]? = some
          { ((s.core ch.src).equeue ch.q.val) with run := some { r with sent := r.pos, halted := some t } } ∧
        (u.core x.issuer).events.engine = (s.core x.issuer).events.engine ++
          [{ core := ch.src, q := ch.q.val, num := x.num, c := r.pos, trap := t }]
      (s.chunkSource ch = none → exec (.inboundChunk k) s = .next { s with chunks := dropNth s.chunks k }) ∧
      (∀ x r, s.chunkSource ch = some (x, r) →
        (s.chunkTarget ch = none → s.sameDomain ch = true → fails (.inboundChunk k) x r
          { cause := .groupAbsent, info := BitVec.ofNat 64 (ch.target % 4096) }) ∧
        (∀ p, s.chunkTarget ch = some p → (s.pkg p).windowFor ch.put (ch.runs x) = none →
          fails (.inboundChunk k) x r { cause := .perm, info := BitVec.ofNat 64 ch.offset }) ∧
        (∀ p e w keys, s.chunkTarget ch = some p → (s.pkg p).windowFor ch.put (ch.runs x) = some (e, w) → ch.put = true →
          ch.performed = false → w.doorbell = 0 → r.touched = [] → s.windowKeys p w .store (ch.runs x) = some keys →
          s.sameDomain ch = true →
          let behind := s.behindSent ch.src p ch.seq s.msgs (s.chunks.take k)
          let way := s.windowWay p e keys
          (behind = true ∨ way = false ∨ (∃ y ∈ keys, s.writeHeld y.1 = true) → exec (.inboundChunk k) s = .next s) ∧
          (behind = false → way = true → (∀ y ∈ keys, s.writeHeld y.1 = false) →
            ∃ u, exec (.inboundChunk k) s = .next u ∧ u.chunks = dropNth s.chunks k ∧
              u.mem = (s.putBytes ch.src keys (ch.bytes.zipIdx.map fun b => (b.1, ch.bad.contains b.2))).mem ∧
              ∃ y, ((u.core ch.src).equeue ch.q.val).run = some y ∧ y.pos = r.pos + 1 ∧ y.done = ch.last)) ∧
        (s.sameDomain ch = false → 16 ≤ ch.resends → fails (.chunkResendTimeout k) x r
          { cause := .groupAbsent, info := BitVec.ofNat 64 ch.target })) ∧
      (s.sameDomain ch = false → ch.resends < 16 → exec (.chunkResendTimeout k) s =
        .next { s with chunks := setNth s.chunks k { ch with resends := ch.resends + 1 } }) ∧
      (s.sameDomain ch = true → exec (.chunkResendTimeout k) s = .next s))

/-- R409. Grants serve every floor's share of a demand first, never exceed a demand, and in sum never exceed the cap where it
covers the floors. -/
def Obligations.PowerGrants : Prop :=
  ∀ (cap : Nat) (floors demands : List Nat), floors.length = demands.length → floors.sum ≤ cap →
    let g : List Nat := grants cap floors demands
    g.length = demands.length ∧ g.sum ≤ cap ∧
    ∀ i d f, demands[i]? = some d → floors[i]? = some f → min d f ≤ g.getD i 0 ∧ g.getD i 0 ≤ d

/-- R196 to R198, R403, R408 to R418. Of a package that the state holds, and where it works: caps and floors as R408 says; the epoch's intervals, where a tier
without cores keeps its own; the rail one step lower after a quiet window, back to the last safe step plus one after an error below
nominal; gating and waking of a hamlet, which loses its scratchpads; sensors that fail and the trips of a die; a planned frame is
first marked and then switched. Power off takes a package's cores, contexts and own memory, and a cold start leaves it as after reset,
or in reset where a step fails. How many corrections freeze no core, and which boots succeed, are free (entries 6, 90); the rail's
safe step (entry 62), the sensors' recent readings (entry 63) and the mark and the switch of a planned frame (entry 64) are the model's
choice. -/
def Obligations.PowerHeatAndSwaps : Prop :=
  ∀ (s : State) (p : Nat), (s.pkg? p).isSome = true →
    let x := s.pkg p
    (s.takes p 0 = false → ∀ i v, exec (.powerCapWrite p i v) s = .next s) ∧
    (s.takes p 0 = true → ∀ v : Word, let cap := min (v.toNat % 65536) 1650;
      (x.floors.sum ≤ cap → ∃ t, exec (.powerCapWrite p none v) s = .next t ∧ (t.pkg p).pcap.toNat = cap ∧
        (t.pkg p).tfloor = x.tfloor ∧ t.mem = s.mem) ∧
      (cap < x.floors.sum → ∃ t, exec (.powerCapWrite p none v) s = .next t ∧ t.pkg p = x)) ∧
    (s.takes p 0 = true → ∀ (i : Fin 4) (v : Word), let fl := x.tfloor.set i (v.setWidth 16);
      ((fl.toList.map (·.toNat)).sum ≤ x.pcap.toNat → ∃ t, exec (.powerCapWrite p (some i) v) s = .next t ∧
        (t.pkg p).tfloor = fl ∧ (t.pkg p).pcap = x.pcap) ∧
      (x.pcap.toNat < (fl.toList.map (·.toNat)).sum → ∃ t, exec (.powerCapWrite p (some i) v) s = .next t ∧ t.pkg p = x)) ∧
    (s.up p = false → ∀ i ∈ [Instr.powerEpoch p, .trimWindow p 0, .trimUe p 0, .hamletGate p 0, .hamletWake p 0
      , .thermalSample p 0 [], .swapEpoch p 0, .frameSwap p 0], exec i s = .next s) ∧
    (s.up p = true → ∃ t, exec (.powerEpoch p) s = .next t ∧ t.mem = s.mem ∧ ∀ i : Fin 4,
      let old := x.interval[i]
      let new := (t.pkg p).interval[i]
      (x.tierUsed i.val = false → new = old) ∧
      (new = old ∨ new = (if old = 0 then 16 else min (2 * old) 32768) ∨ new = (if old / 2 < 16 then 0 else old / 2))) ∧
    (s.up p = true → ∀ h : Fin 32, let y := x.hamlets[h];
      (y.gated = false → ∃ t n, exec (.trimWindow p h) s = .next t ∧ (t.pkg p).hamlets[h].corrections = 0 ∧ t.mem = s.mem ∧
        let all := y.corrections + n
        let rail := if y.corrections < 9 ∧ 9 ≤ all then y.rail - 1 else y.rail
        (t.pkg p).hamlets[h].rail = (if all ≤ 2 ∧ y.noLower = 0 ∧ rail < Config.railFloor (p * 32 + h.val)
          then rail + 1 else rail) ∧
        (t.pkg p).hamlets[h].safe = (if all ≤ 2 then max y.safe rail else y.safe)) ∧
      (y.gated = true → ∃ t, exec (.trimWindow p h) s = .next t ∧ t.mem = s.mem ∧
        (t.pkg p).hamlets[h] = { y with corrections := 0 }) ∧
      (y.ue = true → ∃ t, exec (.trimUe p h) s = .next t ∧ (t.pkg p).hamlets[h].rail = y.safe - 1 ∧
        (t.pkg p).hamlets[h].ue = false ∧
        (∀ c, s.trimCore p h.val = some c → (t.core c).events.trimUe = some (BitVec.ofNat 64 (h.val % 8))) ∧
        (s.trimCore p h.val = none → (t.pkg p).trimue.toNat = min 255 (x.trimue.toNat + 1))) ∧
      (y.ue = false → exec (.trimUe p h) s = .next s) ∧
      (y.gated = false → (∀ c ∈ hamletCores p h.val, s.unused c = true) → ∃ t, exec (.hamletGate p h) s = .next t ∧
        (t.pkg p).hamlets[h].gated = true ∧ ∀ c ∈ hamletCores p h.val, (t.core c).mode = .gated) ∧
      (y.gated = true ∨ (∃ c ∈ hamletCores p h.val, s.unused c = false) → exec (.hamletGate p h) s = .next s) ∧
      (y.gated = true → y.request = true → y.hold = true → ∃ t, exec (.hamletWake p h) s = .next t ∧
        (t.pkg p).hamlets[h].hold = false ∧ (t.pkg p).hamlets[h].gated = true) ∧
      (y.gated = true → y.request = true → y.hold = false →
        (∀ i : Fin 32, i.val < h.val → i.val / 8 = h.val / 8 → x.hamlets[i].waiting = false) →
        ∃ t, exec (.hamletWake p h) s = .next t ∧ (t.pkg p).hamlets[h].gated = false ∧ ∀ c ∈ hamletCores p h.val,
          (t.core c).mode = .normal ∧ (t.core c).ctl.running = false ∧ (t.core c).csr.cycle = (s.core c).csr.cycle ∧
          ∀ q ∈ t.mem, spadOwner q.1 ≠ some c)) ∧
    (s.up p = true → ∀ (d : Fin 4) (r : List SensorReading), r.length = 8 → ∃ t, exec (.thermalSample p d r) s = .next t ∧
      (∀ (h : Fin 32) q, h.val / 8 = d.val → r[h.val % 8]? = some q →
        ((q.tl < -200 ∨ 1500 < q.tl ∨ q.td < -200 ∨ 1500 < q.td ∨ ∃ o ∈ x.hamlets[h].recent.take 10,
          100 < (q.tl - o.tl).natAbs ∨ 100 < (q.td - o.td).natAbs) → (t.pkg p).hamlets[h].failed = true) ∧
        (readingBad x.hamlets[h].recent q = false → (t.pkg p).hamlets[h].failed = x.hamlets[h].failed)) ∧
      ((∀ q ∈ r, 1000 ≤ q.tl ∧ q.td < 800) →
        (∀ (h : Fin 32) q, h.val / 8 = d.val → r[h.val % 8]? = some q →
          x.hamlets[h].failed = false ∧ readingBad x.hamlets[h].recent q = false) →
        (t.pkg p).dies[d].trip3 = true ∧ (t.pkg p).dies[d].halted = true ∧ (t.pkg p).dies[d].trip1 = (x.dies[d].trip1 &&
          r.any fun q => decide (780 ≤ q.td)))) ∧
    (∀ i, i = Instr.thermalTrip4 p ∨ i = Instr.powerDown p → ∃ t, exec i s = .next t ∧ (t.pkg p).on = false ∧
      (∀ c y, (c, y) ∈ t.cores → c / 512 ≠ p) ∧ (∀ q ∈ t.mem, q ∈ s.mem ∧ (q.1 / 2 ^ 44 = p → 0x800_0000_0000 ≤ q.1 % 2 ^ 44)) ∧
      ∀ k y r l, (k, y) ∈ t.parts → (r, l) ∈ y.slots → l.at_ / 2 ^ 44 ≠ p) ∧
    (∃ t, exec (.coldStart p) s = .next t ∧ (∀ c y, (c, y) ∈ t.cores → c / 512 ≠ p) ∧
      (bootGood (x.boots + 1) = true → t.pkg p = { Pkg.reset with boots := x.boots + 1 }) ∧
      (bootGood (x.boots + 1) = false → (t.pkg p).inReset = true ∧ (t.pkg p).on = false ∧ (t.pkg p).out = [(1, [])])) ∧
    (s.up p = true → ∀ d : Fin 4, let y := x.dies[d];
      (∃ t, exec (.swapEpoch p d) s = .next t ∧ t.mem = s.mem ∧ (t.pkg p).dies[d].counts = [] ∧
        (t.pkg p).dies[d].place = y.place ∧ (t.pkg p).dies[d].plan.length ≤ 256) ∧
      (∀ n a r, y.swapping = none → y.plan = (n, a) :: r → s.ringWay p none d.val 4 = true → movable s.pinned p y n = true → y.pool.contains a = true →
        ∃ t, exec (.frameSwap p d) s = .next t ∧ t.mem = s.mem ∧ (t.pkg p).dies[d].swapping = some (n, a) ∧
          (t.pkg p).dies[d].plan = r ∧ (t.pkg p).dies[d].place = y.place) ∧
      (∀ n a old, y.swapping = some (n, a) → y.place.find n = some old → ∃ t, exec (.frameSwap p d) s = .next t ∧
        t.mem = s.mem ∧ (t.pkg p).dies[d].swapping = none ∧ (t.pkg p).dies[d].place.find n = some a ∧
        old ∈ (t.pkg p).dies[d].pool) ∧
      (y.swapping = none → y.plan = [] → exec (.frameSwap p d) s = .next s))

/-- R62, R161. `nop` is major 0x01 with a zero body, `vnop` major 0x80 with one (the word 0x0010_0000_0000_0000); each only
issues, and major 0x80 with any non-zero body does not decode: ILLEGAL. -/
def Obligations.NopWords : Prop :=
  (∀ (w : Word) (rest : List Word), w.extractLsb' 45 8 = 0x01#8 → w.extractLsb' 0 45 = 0#45 →
    ∃ u, decodeUnit .control w rest = .ok u ∧ u.instr = .nop) ∧
  (∀ (w : Word) (rest : List Word), w.extractLsb' 45 8 = 0x80#8 →
    (w.extractLsb' 0 45 = 0#45 → ∃ u, decodeUnit .vector w rest = .ok u ∧ u.instr = .vnop) ∧
    (w.extractLsb' 0 45 ≠ 0#45 → decodeUnit .vector w rest = .error .illegal)) ∧
  decodeUnit .vector 0x0010_0000_0000_0000 [] = .ok { idle := 0, sync := false, instr := .vnop } ∧
  (∀ s : State, exec .nop s = .next (ctlNext s) ∧ exec .vnop s = .next (vecNext s))

/-- R20, R21, R33, R77, R101, R153, R161. Words that the spec writes out decode to the instructions they stand for. -/
def Obligations.DecodesSpecWords : Prop :=
  decodeUnit .control 0x0082_2280_0000_0064 [] = .ok { idle := 2, sync := false, instr := .li (.reg 5) 100 } ∧
  decodeUnit .control 0x0022_23FF_FFFF_FFFF [] = .ok { idle := 0, sync := true, instr := .li (.reg 7) (-1) } ∧
  decodeUnit .control 0x0004_2280_0000_0400 [] = .ok { idle := 0, sync := false, instr := .csrr 5 0x400 } ∧
  decodeUnit .vector 0x0016_E001_0000_0000 [] = .ok { idle := 0, sync := false, instr := .vlend .vb3 } ∧
  decodeUnit .vector 0x0014_A300_0000_0000 [] = .ok { idle := 0, sync := false, instr := .vpop 3 0 0 } ∧
  decodeUnit .vector 0x0010_0000_0000_0000 [] = .ok { idle := 0, sync := false, instr := .vnop }

/-- R19 to R40. Decoding what encoding writes gives the instruction back, with its IDLE count and its SYNC bit, whatever words
follow its unit: for every well-formed instruction that a program can hold, with every operand at every value. -/
def Obligations.DecodeEncodeRoundTrip : Prop :=
  ∀ (u : Slot) (w : Word) (ws rest : List Word), u.instr.wf = true → encode u = some (w :: ws) →
    decodeUnit (streamOf w) w (ws ++ rest) = .ok u

/-- R22, R38, R43, R88, R151. A step whose agenda names a core that is to offer its words, with no event pending, runs the
instruction that its control word decodes to, the local stores that are due performed, or where the control stream stands the one
that its vector word decodes to, before those stores; after that the core's counts advance. A control word that does not decode takes
the trap of its rejection; an event named by the agenda takes place, inside a cycle only where it is part of one. The agenda, the
phases of a cycle and the events that are part of one are the model's own (entry 4). -/
def Obligations.StepRunsDecodedWord : Prop :=
  ∀ (s : State) (c : Nat) (rest : List Move) (w : Word),
    let s0 : State := { s with agenda := rest, cur := c }
    let s1 := s0.storesDue c
    let x := s.core c
    let ends (t : State) : Out := .next (t.modCore c fun y => { y with phase := .tick })
    s.agenda = .core c :: rest → x.phase = .offer → x.mode ≠ .stopped → x.pending = none →
    (x.ctl.running = true → x.ctl.blk = none → x.ctl.words = [w] → x.ctl.idle = some 0 → x.ctl.nan = none →
      x.ctl.wait = none → x.ctl.offer ≠ .trapped → x.vec.goes = false → x.vec.nan = none → x.vec.trap = none →
      (∀ u t, decodeHead .control w = .ok (.done u.instr) → decodeUnit .control w [] = .ok u → exec u.instr s1 = .next t →
        step s = ends t) ∧
      (∀ n fin s2 l u t, decodeHead .control w = .ok (.more n fin) → s1.fetchTail c (x.ctl.pc + 8) n = (s2, .ok l) →
        decodeUnit .control w l = .ok u → exec u.instr s2 = .next t → step s = ends t) ∧
      (decodeHead .control w = .error .illegal → step s = ends (s1.take c (.sync { cause := .illegal, info := w } false)))) ∧
    (x.ctl.running = false → x.ctl.nan = none → x.ctl.offer ≠ .trapped → x.vec.goes = true → x.vec.words = [w] →
      x.vec.idle = some 0 → x.vec.nan = none → x.vec.trap = none → x.vec.wait = none →
      ∀ u t, decodeUnit .vector w [] = .ok u → u.sync = false → exec u.instr s0 = .next t →
        (((t.core c).ctl.offer = .trapped ∨ (t.core c).mode = .stopped) → step s = ends t) ∧
        ((t.core c).ctl.offer ≠ .trapped → (t.core c).mode ≠ .stopped → (t.core c).ctl.running = false →
          (t.core c).ctl.nan = none → step s = ends (t.storesDue c))) ∧
    (∀ (s : State) (i : Instr), s.agenda = .event i :: rest → isEvent i = true →
      (inCycle i = true ∨ (∀ d y, (d, y) ∈ s.cores → y.phase = .land) → step s = exec i { s with agenda := rest }) ∧
      (inCycle i = false → (∃ d y, (d, y) ∈ s.cores ∧ y.phase ≠ .land) → step s = .next { s with agenda := rest }))

/-- Entry 2 and the form of memory: whatever a step does, memory stays in its canonical form, keys strictly rising. -/
def Obligations.StepKeepsMemoryForm : Prop :=
  ∀ s t : State, memoryWf s → step s = .next t → memoryWf t

/-- R53, R182, R311, R408. After reset memory lists nothing and is in its canonical form, every CSR of a core that R53 gives the
reset 0 reads 0, bank formats are RAW, PCAP is 1650 and the floors are 0, which R408 allows. -/
def Obligations.ResetState : Prop :=
  memoryWf State.reset ∧ State.reset.mem = [] ∧ powersWf State.reset ∧
  (∀ c n, (n ∈ [0x040, 0x400, 0x402, 0x403, 0x810] ∨ 0x001 ≤ n ∧ n ≤ 0x006 ∨ 0x010 ≤ n ∧ n ≤ 0x01F ∨ 0x020 ≤ n ∧ n ≤ 0x025 ∨
      0x030 ≤ n ∧ n ≤ 0x037 ∨ 0x410 ≤ n ∧ n ≤ 0x415 ∨ 0x418 ≤ n ∧ n ≤ 0x41D ∨ 0x420 ≤ n ∧ n ≤ 0x422 ∨ 0x430 ≤ n ∧ n ≤ 0x432 ∨
      0x800 ≤ n ∧ n ≤ 0x808) → State.reset.csrGet c n = some 0) ∧
  (∀ p, (State.reset.pkg p).pcap = 1650 ∧ ∀ i : Fin 4, (State.reset.pkg p).tfloor[i] = 0)

/-- R28, R41, R45, R48, R60, R86, R201. Register 0 reads 0 and keeps it; two pops of one queue read its first two entries and take
both away; a peek takes none; a word waits for an absent entry, and traps the fault or the poison of one and leaves it; zeros in
place of a UE are counted once by a pop, not by a peek; a result into an address queue takes the next entry, and a full queue
holds the word; a word is blocked on every queue operation that it waits for, behind another wait too (R48). -/
def Obligations.OperandOutcomes : Prop :=
  ∀ (s : State) (d : Fin 32) (q : Fin 2),
    let x := s.me
    let pop : Rrr := { d := .reg d, a := .pop q, b := .pop q }
    let peek : Rrr := { d := .reg d, a := .peek q, b := .reg 0 }
    (∀ v, (x.ctl.setReg 0 v).s = x.ctl.s ∧ x.ctl.reg 0 = 0) ∧
    (∀ e0 e1 rest v0 v1, x.ctl.lq[q] = e0 :: e1 :: rest → e0.datum = .value v0 → e1.datum = .value v1 →
      ∃ t, exec (.sub pop) s = .next t ∧ t.me.ctl.lq[q] = rest ∧ (d ≠ 0 → t.me.ctl.s[d] = v0 - v1) ∧
        t.me.csr.fsr &&& 0x1F = (x.csr.fsr ||| e0.flags.setWidth 64 ||| e1.flags.setWidth 64) &&& 0x1F) ∧
    (∀ e rest, x.ctl.lq[q] = e :: rest →
      (∀ v, e.datum = .value v → ∃ t, exec (.add peek) s = .next t ∧ t.me.ctl.lq[q] = e :: rest ∧ (d ≠ 0 → t.me.ctl.s[d] = v) ∧
        t.me.csr.fsr = x.csr.fsr) ∧
      (e.datum = .absent → exec (.add peek) s = .next (ctlHeld (.queue (12 + q.val)) s)) ∧
      (∀ f, e.datum = .fault f → exec (.add peek) s = .next (ctlTrap f.cause f.info s)) ∧
      (∀ va, e.datum = .poison va → exec (.add peek) s = .next (ctlTrap .ue va s)) ∧
      (e.datum = .zeroed → ∃ t, exec (.add peek) s = .next t ∧ t.me.csr.uezcount = x.csr.uezcount ∧
        (d ≠ 0 → t.me.ctl.s[d] = 0)) ∧
      (e.datum = .zeroed → ∃ t, exec (.addImmediate { d := .reg d, a := .pop q, imm := 0 }) s = .next t ∧
        t.me.csr.uezcount = x.csr.uezcount + 1 ∧ t.me.csr.fsr.getLsbD 15 = true ∧ t.me.ctl.lq[q] = rest)) ∧
    (x.ctl.lq[q] = [] → exec (.add pop) s = .next (ctlHeld (.queue (12 + q.val)) s) ∧
      exec (.add peek) s = .next (ctlHeld (.queue (12 + q.val)) s)) ∧
    (∀ n : Fin 4, (x.vec.aq[n].length < 16 → ∃ t e, exec (.add { d := .aq n, a := .reg 0, b := .reg 0 }) s = .next t ∧
        t.me.vec.aq[n] = x.vec.aq[n] ++ [e] ∧ e.value = 0 ∧ t.me.ctl.s = x.ctl.s) ∧
      (16 ≤ x.vec.aq[n].length → ∀ a b, ∃ more, exec (.add { d := .aq n, a := a, b := b }) s =
        .next (ctlHeld (.queue (8 + n.val) more) s) ∧ (x.ctl.awaitAll [] [a, b] = .ok () → more = []))) ∧
    (x.ctl.lq[0] = [] → x.ctl.lq[1] = [] →
      exec (.add { d := .reg d, a := .pop 0, b := .pop 1 }) s = .next (ctlHeld (.queue 12 [13]) s)) ∧
    (∀ r : Fin 32, x.ctl.ready r = false → x.ctl.lq[q] = [] →
      exec (.add { d := .reg d, a := .reg r, b := .pop q }) s = .next (ctlHeld (.queue (12 + q.val)) s)) ∧
    (∀ r : Fin 32, r ≠ 0 → x.ctl.ready r = true → ∀ va, x.ctl.poison[r] = some va →
      exec (.add { d := .reg d, a := .reg r, b := .reg 0 }) s = .next (ctlTrap .ue va s)) ∧
    (∀ r : Fin 32, x.ctl.ready r = false → exec (.add { d := .reg d, a := .reg r, b := .reg 0 }) s = .next (ctlHeld .other s))

/-- R40, R41, R63 to R71, R80. What a scalar word leaves unchanged when it issues: every register but its destination, every
handle, F, the level, the vector stream but its address queues, every CSR but FSR and UEZCOUNT (which pops merge into), all of
memory, and everything of other cores. -/
def Obligations.ScalarFrame : Prop :=
  let keeps (i : Instr) (d : Dst) : Prop := ∀ s t : State, s.me.ctl.offer ≠ .issued → exec i s = .next t → t.me.ctl.offer = .issued →
    t.cur = s.cur ∧ (∀ r : Fin 32, d ≠ .reg r → t.me.ctl.s[r] = s.me.ctl.s[r]) ∧ t.me.ctl.h = s.me.ctl.h ∧ t.me.ctl.f = s.me.ctl.f ∧
    t.me.ctl.kernel = s.me.ctl.kernel ∧ t.me.vec.v = s.me.vec.v ∧ t.me.vec.k = s.me.vec.k ∧ t.me.vec.a = s.me.vec.a ∧
    (∀ q : Fin 4, d ≠ .aq q → t.me.vec.aq[q] = s.me.vec.aq[q]) ∧
    { t.me.csr with fsr := 0, uezcount := 0 } = { s.me.csr with fsr := 0, uezcount := 0 } ∧ t.me.queues = s.me.queues ∧
    t.me.tiles = s.me.tiles ∧ t.mem = s.mem ∧ t.pkgs = s.pkgs ∧ t.parts = s.parts ∧ ∀ c, c ≠ s.cur → t.core c = s.core c
  (∀ o : Rrr, ∀ i ∈ [Instr.add o, .sub o, .and o, .or o, .xor o, .andn o, .shl o, .shr o, .sra o, .rot o, .min o, .max o, .minu o
    , .maxu o, .slt o, .sltu o, .seq o, .mul o, .mulh o, .mulhu o, .div o, .divu o, .rem o, .remu o], keeps i o.d) ∧
  (∀ o : Rri, ∀ i ∈ [Instr.addImmediate o, .andImmediate o, .orImmediate o, .xorImmediate o, .shlImmediate o, .shrImmediate o
    , .sraImmediate o, .sltImmediate o, .sltuImmediate o], keeps i o.d) ∧
  (∀ (o : Rrr) c, keeps (.sel o c) o.d) ∧ (∀ d a n, keeps (.sext d a n) d ∧ keeps (.zext d a n) d) ∧
  (∀ d a lo w, keeps (.bfx d a lo w) d) ∧ (∀ d a lo w, keeps (.bfi d a lo w) (.reg d)) ∧
  (∀ d imm, keeps (.li d imm) d) ∧ (∀ d imm, keeps (.lih d imm) (.reg d)) ∧ (∀ (o : Rrr) sh disp, keeps (.lea o sh disp) o.d) ∧
  (∀ o : Rrr, keeps (.gaddr o) o.d) ∧ (∀ d, keeps (.fget d) d) ∧ (∀ d a, ∀ i ∈ [Instr.clz d a, .ctz d a, .popc d a, .bswap d a], keeps i d)

/-- R89, R99, R130 to R135. What a lane-by-lane vector word leaves unchanged when it issues: every register, mask and address
register (its results are in flight to its destination alone), the control stream, every CSR, the queues, all of memory, and
every other core. -/
def Obligations.VectorFrame : Prop :=
  let keeps (i : Instr) (d : Fin 32) : Prop := ∀ s t : State, s.me.vec.offer ≠ .issued → exec i s = .next t → t.me.vec.offer = .issued →
    t.cur = s.cur ∧ t.me.vec.v = s.me.vec.v ∧ t.me.vec.k = s.me.vec.k ∧ t.me.vec.a = s.me.vec.a ∧ t.me.vec.aq = s.me.vec.aq ∧
    t.me.vec.vlq = s.me.vec.vlq ∧ t.me.vec.poison = s.me.vec.poison ∧ t.me.ctl = s.me.ctl ∧ t.me.csr = s.me.csr ∧
    t.me.queues = s.me.queues ∧ t.me.tiles = s.me.tiles ∧ t.mem = s.mem ∧ t.pkgs = s.pkgs ∧ t.parts = s.parts ∧
    (∀ c, c ≠ s.cur → t.core c = s.core c) ∧
    ∃ e, t.me.vec.pend = s.me.vec.pend ++ [e] ∧ e.kind = .v ∧ e.reg = d.val
  (∀ o : Vvv, ∀ i ∈ [Instr.vadd o, .vsub o, .vmul o, .vmin o, .vmax o, .vdiv o, .vcsgn o, .vand o, .vor o, .vxor o, .vandn o
    , .vshl o, .vshr o, .vsra o, .vrol o], keeps i o.d) ∧
  (∀ o : Vv, ∀ i ∈ [Instr.vabs o, .vneg o, .vsqrt o, .vclass o], keeps i o.d) ∧
  (∀ o : Vvvv, ∀ i ∈ [Instr.vfma o, .vfms o, .vfnma o, .vfnms o, .vclamp o], keeps i o.d)

/-- R241, R252, R261 to R263. What an access that is performed at its home leaves unchanged: every byte of memory outside the
bytes of its element at the key of its place (computed from its place as the access computes it); of every core the scalar,
vector, mask and address registers, the handles, F, the level, the PC and the loop levels, the address queues, and every CSR but
ERRINJ, whose injection a read may fire. What may change is the queue entry that the access fills and what its home counts. -/
def Obligations.StoreFrame : Prop :=
  ∀ (s t : State) (k : Nat) (a : Access), s.flight[k]? = some a →
    (∀ i ∈ [Instr.storePerformedAtHome k, .reductionApplied k, .lqEntryArrival k, .vlqEntryArrival k], exec i s = .next t →
      (∀ j, ¬ (s.keyOf a.place ≤ j ∧ j < s.keyOf a.place + a.req.ty.size) → t.readByte j = s.readByte j) ∧
      ∀ c, let x := s.core c
        let y := t.core c
        y.ctl.s = x.ctl.s ∧ y.ctl.poison = x.ctl.poison ∧ y.ctl.h = x.ctl.h ∧ y.ctl.f = x.ctl.f ∧ y.ctl.pc = x.ctl.pc ∧
        y.ctl.kernel = x.ctl.kernel ∧ y.vec.v = x.vec.v ∧ y.vec.poison = x.vec.poison ∧ y.vec.k = x.vec.k ∧ y.vec.a = x.vec.a ∧
        y.vec.aq = x.vec.aq ∧ y.vec.pc = x.vec.pc ∧ y.vec.loops = x.vec.loops ∧
        { y.csr with errinj := 0 } = { x.csr with errinj := 0 })
end

