-- ==== Sys2Proof/Laws/State.lean ====
section
/-! SUPPORT. One lemma for each field under each update of the state and of a core, true by definition; tables read after they are
written; the core and the package found after they are stored. -/
namespace Sys2Proof.Machine

/-! ## Fields under the updates of the state -/

@[simp] theorem State.setCore_pkgs (s : State) (c : Nat) (x : Core) : (s.setCore c x).pkgs = s.pkgs := rfl
@[simp] theorem State.setCore_parts (s : State) (c : Nat) (x : Core) : (s.setCore c x).parts = s.parts := rfl
@[simp] theorem State.setCore_mem (s : State) (c : Nat) (x : Core) : (s.setCore c x).mem = s.mem := rfl
@[simp] theorem State.setCore_poison (s : State) (c : Nat) (x : Core) : (s.setCore c x).poison = s.poison := rfl
@[simp] theorem State.setCore_oldWords (s : State) (c : Nat) (x : Core) : (s.setCore c x).oldWords = s.oldWords := rfl
@[simp] theorem State.setCore_flight (s : State) (c : Nat) (x : Core) : (s.setCore c x).flight = s.flight := rfl
@[simp] theorem State.setCore_gloads (s : State) (c : Nat) (x : Core) : (s.setCore c x).gloads = s.gloads := rfl
@[simp] theorem State.setCore_msgs (s : State) (c : Nat) (x : Core) : (s.setCore c x).msgs = s.msgs := rfl
@[simp] theorem State.setCore_tokens (s : State) (c : Nat) (x : Core) : (s.setCore c x).tokens = s.tokens := rfl
@[simp] theorem State.setCore_flits (s : State) (c : Nat) (x : Core) : (s.setCore c x).flits = s.flits := rfl
@[simp] theorem State.setCore_chunks (s : State) (c : Nat) (x : Core) : (s.setCore c x).chunks = s.chunks := rfl
@[simp] theorem State.setCore_hostOut (s : State) (c : Nat) (x : Core) : (s.setCore c x).hostOut = s.hostOut := rfl
@[simp] theorem State.setCore_nextId (s : State) (c : Nat) (x : Core) : (s.setCore c x).nextId = s.nextId := rfl
@[simp] theorem State.setCore_draws (s : State) (c : Nat) (x : Core) : (s.setCore c x).draws = s.draws := rfl
@[simp] theorem State.setCore_cur (s : State) (c : Nat) (x : Core) : (s.setCore c x).cur = s.cur := rfl
@[simp] theorem State.setCore_agenda (s : State) (c : Nat) (x : Core) : (s.setCore c x).agenda = s.agenda := rfl

@[simp] theorem State.modCore_pkgs (s : State) (c : Nat) (f : Core → Core) : (s.modCore c f).pkgs = s.pkgs := rfl
@[simp] theorem State.modCore_parts (s : State) (c : Nat) (f : Core → Core) : (s.modCore c f).parts = s.parts := rfl
@[simp] theorem State.modCore_mem (s : State) (c : Nat) (f : Core → Core) : (s.modCore c f).mem = s.mem := rfl
@[simp] theorem State.modCore_poison (s : State) (c : Nat) (f : Core → Core) : (s.modCore c f).poison = s.poison := rfl
@[simp] theorem State.modCore_oldWords (s : State) (c : Nat) (f : Core → Core) : (s.modCore c f).oldWords = s.oldWords := rfl
@[simp] theorem State.modCore_flight (s : State) (c : Nat) (f : Core → Core) : (s.modCore c f).flight = s.flight := rfl
@[simp] theorem State.modCore_gloads (s : State) (c : Nat) (f : Core → Core) : (s.modCore c f).gloads = s.gloads := rfl
@[simp] theorem State.modCore_msgs (s : State) (c : Nat) (f : Core → Core) : (s.modCore c f).msgs = s.msgs := rfl
@[simp] theorem State.modCore_tokens (s : State) (c : Nat) (f : Core → Core) : (s.modCore c f).tokens = s.tokens := rfl
@[simp] theorem State.modCore_flits (s : State) (c : Nat) (f : Core → Core) : (s.modCore c f).flits = s.flits := rfl
@[simp] theorem State.modCore_chunks (s : State) (c : Nat) (f : Core → Core) : (s.modCore c f).chunks = s.chunks := rfl
@[simp] theorem State.modCore_hostOut (s : State) (c : Nat) (f : Core → Core) : (s.modCore c f).hostOut = s.hostOut := rfl
@[simp] theorem State.modCore_nextId (s : State) (c : Nat) (f : Core → Core) : (s.modCore c f).nextId = s.nextId := rfl
@[simp] theorem State.modCore_draws (s : State) (c : Nat) (f : Core → Core) : (s.modCore c f).draws = s.draws := rfl
@[simp] theorem State.modCore_cur (s : State) (c : Nat) (f : Core → Core) : (s.modCore c f).cur = s.cur := rfl
@[simp] theorem State.modCore_agenda (s : State) (c : Nat) (f : Core → Core) : (s.modCore c f).agenda = s.agenda := rfl

@[simp] theorem State.onMe_pkgs (s : State) (f : Core → Core) : (s.onMe f).pkgs = s.pkgs := rfl
@[simp] theorem State.onMe_parts (s : State) (f : Core → Core) : (s.onMe f).parts = s.parts := rfl
@[simp] theorem State.onMe_mem (s : State) (f : Core → Core) : (s.onMe f).mem = s.mem := rfl
@[simp] theorem State.onMe_poison (s : State) (f : Core → Core) : (s.onMe f).poison = s.poison := rfl
@[simp] theorem State.onMe_oldWords (s : State) (f : Core → Core) : (s.onMe f).oldWords = s.oldWords := rfl
@[simp] theorem State.onMe_flight (s : State) (f : Core → Core) : (s.onMe f).flight = s.flight := rfl
@[simp] theorem State.onMe_gloads (s : State) (f : Core → Core) : (s.onMe f).gloads = s.gloads := rfl
@[simp] theorem State.onMe_msgs (s : State) (f : Core → Core) : (s.onMe f).msgs = s.msgs := rfl
@[simp] theorem State.onMe_tokens (s : State) (f : Core → Core) : (s.onMe f).tokens = s.tokens := rfl
@[simp] theorem State.onMe_flits (s : State) (f : Core → Core) : (s.onMe f).flits = s.flits := rfl
@[simp] theorem State.onMe_chunks (s : State) (f : Core → Core) : (s.onMe f).chunks = s.chunks := rfl
@[simp] theorem State.onMe_hostOut (s : State) (f : Core → Core) : (s.onMe f).hostOut = s.hostOut := rfl
@[simp] theorem State.onMe_nextId (s : State) (f : Core → Core) : (s.onMe f).nextId = s.nextId := rfl
@[simp] theorem State.onMe_draws (s : State) (f : Core → Core) : (s.onMe f).draws = s.draws := rfl
@[simp] theorem State.onMe_cur (s : State) (f : Core → Core) : (s.onMe f).cur = s.cur := rfl
@[simp] theorem State.onMe_agenda (s : State) (f : Core → Core) : (s.onMe f).agenda = s.agenda := rfl

@[simp] theorem State.setPkg_cores (s : State) (p : Nat) (x : Pkg) : (s.setPkg p x).cores = s.cores := rfl
@[simp] theorem State.setPkg_parts (s : State) (p : Nat) (x : Pkg) : (s.setPkg p x).parts = s.parts := rfl
@[simp] theorem State.setPkg_mem (s : State) (p : Nat) (x : Pkg) : (s.setPkg p x).mem = s.mem := rfl
@[simp] theorem State.setPkg_poison (s : State) (p : Nat) (x : Pkg) : (s.setPkg p x).poison = s.poison := rfl
@[simp] theorem State.setPkg_oldWords (s : State) (p : Nat) (x : Pkg) : (s.setPkg p x).oldWords = s.oldWords := rfl
@[simp] theorem State.setPkg_flight (s : State) (p : Nat) (x : Pkg) : (s.setPkg p x).flight = s.flight := rfl
@[simp] theorem State.setPkg_gloads (s : State) (p : Nat) (x : Pkg) : (s.setPkg p x).gloads = s.gloads := rfl
@[simp] theorem State.setPkg_msgs (s : State) (p : Nat) (x : Pkg) : (s.setPkg p x).msgs = s.msgs := rfl
@[simp] theorem State.setPkg_tokens (s : State) (p : Nat) (x : Pkg) : (s.setPkg p x).tokens = s.tokens := rfl
@[simp] theorem State.setPkg_flits (s : State) (p : Nat) (x : Pkg) : (s.setPkg p x).flits = s.flits := rfl
@[simp] theorem State.setPkg_chunks (s : State) (p : Nat) (x : Pkg) : (s.setPkg p x).chunks = s.chunks := rfl
@[simp] theorem State.setPkg_hostOut (s : State) (p : Nat) (x : Pkg) : (s.setPkg p x).hostOut = s.hostOut := rfl
@[simp] theorem State.setPkg_nextId (s : State) (p : Nat) (x : Pkg) : (s.setPkg p x).nextId = s.nextId := rfl
@[simp] theorem State.setPkg_draws (s : State) (p : Nat) (x : Pkg) : (s.setPkg p x).draws = s.draws := rfl
@[simp] theorem State.setPkg_cur (s : State) (p : Nat) (x : Pkg) : (s.setPkg p x).cur = s.cur := rfl
@[simp] theorem State.setPkg_agenda (s : State) (p : Nat) (x : Pkg) : (s.setPkg p x).agenda = s.agenda := rfl

@[simp] theorem State.modPart_cores (s : State) (k : Nat) (g : Part → Part) : (s.modPart k g).cores = s.cores := rfl
@[simp] theorem State.modPart_pkgs (s : State) (k : Nat) (g : Part → Part) : (s.modPart k g).pkgs = s.pkgs := rfl
@[simp] theorem State.modPart_mem (s : State) (k : Nat) (g : Part → Part) : (s.modPart k g).mem = s.mem := rfl
@[simp] theorem State.modPart_poison (s : State) (k : Nat) (g : Part → Part) : (s.modPart k g).poison = s.poison := rfl
@[simp] theorem State.modPart_oldWords (s : State) (k : Nat) (g : Part → Part) : (s.modPart k g).oldWords = s.oldWords := rfl
@[simp] theorem State.modPart_flight (s : State) (k : Nat) (g : Part → Part) : (s.modPart k g).flight = s.flight := rfl
@[simp] theorem State.modPart_gloads (s : State) (k : Nat) (g : Part → Part) : (s.modPart k g).gloads = s.gloads := rfl
@[simp] theorem State.modPart_msgs (s : State) (k : Nat) (g : Part → Part) : (s.modPart k g).msgs = s.msgs := rfl
@[simp] theorem State.modPart_tokens (s : State) (k : Nat) (g : Part → Part) : (s.modPart k g).tokens = s.tokens := rfl
@[simp] theorem State.modPart_flits (s : State) (k : Nat) (g : Part → Part) : (s.modPart k g).flits = s.flits := rfl
@[simp] theorem State.modPart_chunks (s : State) (k : Nat) (g : Part → Part) : (s.modPart k g).chunks = s.chunks := rfl
@[simp] theorem State.modPart_hostOut (s : State) (k : Nat) (g : Part → Part) : (s.modPart k g).hostOut = s.hostOut := rfl
@[simp] theorem State.modPart_nextId (s : State) (k : Nat) (g : Part → Part) : (s.modPart k g).nextId = s.nextId := rfl
@[simp] theorem State.modPart_draws (s : State) (k : Nat) (g : Part → Part) : (s.modPart k g).draws = s.draws := rfl
@[simp] theorem State.modPart_cur (s : State) (k : Nat) (g : Part → Part) : (s.modPart k g).cur = s.cur := rfl
@[simp] theorem State.modPart_agenda (s : State) (k : Nat) (g : Part → Part) : (s.modPart k g).agenda = s.agenda := rfl

@[simp] theorem State.writeRuns_cores (s : State) (r : List (Nat × List Byte)) : (s.writeRuns r).cores = s.cores := rfl
@[simp] theorem State.writeRuns_pkgs (s : State) (r : List (Nat × List Byte)) : (s.writeRuns r).pkgs = s.pkgs := rfl
@[simp] theorem State.writeRuns_parts (s : State) (r : List (Nat × List Byte)) : (s.writeRuns r).parts = s.parts := rfl
@[simp] theorem State.writeRuns_flight (s : State) (r : List (Nat × List Byte)) : (s.writeRuns r).flight = s.flight := rfl
@[simp] theorem State.writeRuns_gloads (s : State) (r : List (Nat × List Byte)) : (s.writeRuns r).gloads = s.gloads := rfl
@[simp] theorem State.writeRuns_msgs (s : State) (r : List (Nat × List Byte)) : (s.writeRuns r).msgs = s.msgs := rfl
@[simp] theorem State.writeRuns_tokens (s : State) (r : List (Nat × List Byte)) : (s.writeRuns r).tokens = s.tokens := rfl
@[simp] theorem State.writeRuns_flits (s : State) (r : List (Nat × List Byte)) : (s.writeRuns r).flits = s.flits := rfl
@[simp] theorem State.writeRuns_chunks (s : State) (r : List (Nat × List Byte)) : (s.writeRuns r).chunks = s.chunks := rfl
@[simp] theorem State.writeRuns_hostOut (s : State) (r : List (Nat × List Byte)) : (s.writeRuns r).hostOut = s.hostOut := rfl
@[simp] theorem State.writeRuns_nextId (s : State) (r : List (Nat × List Byte)) : (s.writeRuns r).nextId = s.nextId := rfl
@[simp] theorem State.writeRuns_draws (s : State) (r : List (Nat × List Byte)) : (s.writeRuns r).draws = s.draws := rfl
@[simp] theorem State.writeRuns_cur (s : State) (r : List (Nat × List Byte)) : (s.writeRuns r).cur = s.cur := rfl
@[simp] theorem State.writeRuns_agenda (s : State) (r : List (Nat × List Byte)) : (s.writeRuns r).agenda = s.agenda := rfl

@[simp] theorem State.write_cores (s : State) (k : Nat) (b : List Byte) : (s.write k b).cores = s.cores := rfl
@[simp] theorem State.write_pkgs (s : State) (k : Nat) (b : List Byte) : (s.write k b).pkgs = s.pkgs := rfl
@[simp] theorem State.write_parts (s : State) (k : Nat) (b : List Byte) : (s.write k b).parts = s.parts := rfl
@[simp] theorem State.write_flight (s : State) (k : Nat) (b : List Byte) : (s.write k b).flight = s.flight := rfl
@[simp] theorem State.write_gloads (s : State) (k : Nat) (b : List Byte) : (s.write k b).gloads = s.gloads := rfl
@[simp] theorem State.write_msgs (s : State) (k : Nat) (b : List Byte) : (s.write k b).msgs = s.msgs := rfl
@[simp] theorem State.write_tokens (s : State) (k : Nat) (b : List Byte) : (s.write k b).tokens = s.tokens := rfl
@[simp] theorem State.write_flits (s : State) (k : Nat) (b : List Byte) : (s.write k b).flits = s.flits := rfl
@[simp] theorem State.write_chunks (s : State) (k : Nat) (b : List Byte) : (s.write k b).chunks = s.chunks := rfl
@[simp] theorem State.write_hostOut (s : State) (k : Nat) (b : List Byte) : (s.write k b).hostOut = s.hostOut := rfl
@[simp] theorem State.write_nextId (s : State) (k : Nat) (b : List Byte) : (s.write k b).nextId = s.nextId := rfl
@[simp] theorem State.write_draws (s : State) (k : Nat) (b : List Byte) : (s.write k b).draws = s.draws := rfl
@[simp] theorem State.write_cur (s : State) (k : Nat) (b : List Byte) : (s.write k b).cur = s.cur := rfl
@[simp] theorem State.write_agenda (s : State) (k : Nat) (b : List Byte) : (s.write k b).agenda = s.agenda := rfl

@[simp] theorem State.writeNat_cores (s : State) (k n v : Nat) : (s.writeNat k n v).cores = s.cores := rfl
@[simp] theorem State.writeNat_pkgs (s : State) (k n v : Nat) : (s.writeNat k n v).pkgs = s.pkgs := rfl
@[simp] theorem State.writeNat_parts (s : State) (k n v : Nat) : (s.writeNat k n v).parts = s.parts := rfl
@[simp] theorem State.writeNat_flight (s : State) (k n v : Nat) : (s.writeNat k n v).flight = s.flight := rfl
@[simp] theorem State.writeNat_gloads (s : State) (k n v : Nat) : (s.writeNat k n v).gloads = s.gloads := rfl
@[simp] theorem State.writeNat_msgs (s : State) (k n v : Nat) : (s.writeNat k n v).msgs = s.msgs := rfl
@[simp] theorem State.writeNat_tokens (s : State) (k n v : Nat) : (s.writeNat k n v).tokens = s.tokens := rfl
@[simp] theorem State.writeNat_flits (s : State) (k n v : Nat) : (s.writeNat k n v).flits = s.flits := rfl
@[simp] theorem State.writeNat_chunks (s : State) (k n v : Nat) : (s.writeNat k n v).chunks = s.chunks := rfl
@[simp] theorem State.writeNat_hostOut (s : State) (k n v : Nat) : (s.writeNat k n v).hostOut = s.hostOut := rfl
@[simp] theorem State.writeNat_nextId (s : State) (k n v : Nat) : (s.writeNat k n v).nextId = s.nextId := rfl
@[simp] theorem State.writeNat_draws (s : State) (k n v : Nat) : (s.writeNat k n v).draws = s.draws := rfl
@[simp] theorem State.writeNat_cur (s : State) (k n v : Nat) : (s.writeNat k n v).cur = s.cur := rfl
@[simp] theorem State.writeNat_agenda (s : State) (k n v : Nat) : (s.writeNat k n v).agenda = s.agenda := rfl

@[simp] theorem State.send_cores (s : State) (a : Access) : (s.send a).cores = s.cores := rfl
@[simp] theorem State.send_pkgs (s : State) (a : Access) : (s.send a).pkgs = s.pkgs := rfl
@[simp] theorem State.send_parts (s : State) (a : Access) : (s.send a).parts = s.parts := rfl
@[simp] theorem State.send_mem (s : State) (a : Access) : (s.send a).mem = s.mem := rfl
@[simp] theorem State.send_poison (s : State) (a : Access) : (s.send a).poison = s.poison := rfl
@[simp] theorem State.send_oldWords (s : State) (a : Access) : (s.send a).oldWords = s.oldWords := rfl
@[simp] theorem State.send_gloads (s : State) (a : Access) : (s.send a).gloads = s.gloads := rfl
@[simp] theorem State.send_msgs (s : State) (a : Access) : (s.send a).msgs = s.msgs := rfl
@[simp] theorem State.send_chunks (s : State) (a : Access) : (s.send a).chunks = s.chunks := rfl
@[simp] theorem State.send_hostOut (s : State) (a : Access) : (s.send a).hostOut = s.hostOut := rfl
@[simp] theorem State.send_draws (s : State) (a : Access) : (s.send a).draws = s.draws := rfl
@[simp] theorem State.send_cur (s : State) (a : Access) : (s.send a).cur = s.cur := rfl
@[simp] theorem State.send_agenda (s : State) (a : Access) : (s.send a).agenda = s.agenda := rfl

@[simp] theorem State.sendGroup_cores (s : State) (g : GLoad) : (s.sendGroup g).cores = s.cores := rfl
@[simp] theorem State.sendGroup_pkgs (s : State) (g : GLoad) : (s.sendGroup g).pkgs = s.pkgs := rfl
@[simp] theorem State.sendGroup_parts (s : State) (g : GLoad) : (s.sendGroup g).parts = s.parts := rfl
@[simp] theorem State.sendGroup_mem (s : State) (g : GLoad) : (s.sendGroup g).mem = s.mem := rfl
@[simp] theorem State.sendGroup_poison (s : State) (g : GLoad) : (s.sendGroup g).poison = s.poison := rfl
@[simp] theorem State.sendGroup_oldWords (s : State) (g : GLoad) : (s.sendGroup g).oldWords = s.oldWords := rfl
@[simp] theorem State.sendGroup_flight (s : State) (g : GLoad) : (s.sendGroup g).flight = s.flight := rfl
@[simp] theorem State.sendGroup_msgs (s : State) (g : GLoad) : (s.sendGroup g).msgs = s.msgs := rfl
@[simp] theorem State.sendGroup_tokens (s : State) (g : GLoad) : (s.sendGroup g).tokens = s.tokens := rfl
@[simp] theorem State.sendGroup_flits (s : State) (g : GLoad) : (s.sendGroup g).flits = s.flits := rfl
@[simp] theorem State.sendGroup_chunks (s : State) (g : GLoad) : (s.sendGroup g).chunks = s.chunks := rfl
@[simp] theorem State.sendGroup_hostOut (s : State) (g : GLoad) : (s.sendGroup g).hostOut = s.hostOut := rfl
@[simp] theorem State.sendGroup_draws (s : State) (g : GLoad) : (s.sendGroup g).draws = s.draws := rfl
@[simp] theorem State.sendGroup_cur (s : State) (g : GLoad) : (s.sendGroup g).cur = s.cur := rfl
@[simp] theorem State.sendGroup_agenda (s : State) (g : GLoad) : (s.sendGroup g).agenda = s.agenda := rfl

@[simp] theorem State.post_cores (s : State) (m : Msg) : (s.post m).cores = s.cores := rfl
@[simp] theorem State.post_pkgs (s : State) (m : Msg) : (s.post m).pkgs = s.pkgs := rfl
@[simp] theorem State.post_parts (s : State) (m : Msg) : (s.post m).parts = s.parts := rfl
@[simp] theorem State.post_mem (s : State) (m : Msg) : (s.post m).mem = s.mem := rfl
@[simp] theorem State.post_poison (s : State) (m : Msg) : (s.post m).poison = s.poison := rfl
@[simp] theorem State.post_oldWords (s : State) (m : Msg) : (s.post m).oldWords = s.oldWords := rfl
@[simp] theorem State.post_flight (s : State) (m : Msg) : (s.post m).flight = s.flight := rfl
@[simp] theorem State.post_gloads (s : State) (m : Msg) : (s.post m).gloads = s.gloads := rfl
@[simp] theorem State.post_tokens (s : State) (m : Msg) : (s.post m).tokens = s.tokens := rfl
@[simp] theorem State.post_flits (s : State) (m : Msg) : (s.post m).flits = s.flits := rfl
@[simp] theorem State.post_chunks (s : State) (m : Msg) : (s.post m).chunks = s.chunks := rfl
@[simp] theorem State.post_hostOut (s : State) (m : Msg) : (s.post m).hostOut = s.hostOut := rfl
@[simp] theorem State.post_nextId (s : State) (m : Msg) : (s.post m).nextId = s.nextId := rfl
@[simp] theorem State.post_draws (s : State) (m : Msg) : (s.post m).draws = s.draws := rfl
@[simp] theorem State.post_cur (s : State) (m : Msg) : (s.post m).cur = s.cur := rfl
@[simp] theorem State.post_agenda (s : State) (m : Msg) : (s.post m).agenda = s.agenda := rfl

@[simp] theorem State.unpark_cores (s : State) (l : List Nat) : (s.unpark l).cores = s.cores := rfl
@[simp] theorem State.unpark_pkgs (s : State) (l : List Nat) : (s.unpark l).pkgs = s.pkgs := rfl
@[simp] theorem State.unpark_parts (s : State) (l : List Nat) : (s.unpark l).parts = s.parts := rfl
@[simp] theorem State.unpark_mem (s : State) (l : List Nat) : (s.unpark l).mem = s.mem := rfl
@[simp] theorem State.unpark_poison (s : State) (l : List Nat) : (s.unpark l).poison = s.poison := rfl
@[simp] theorem State.unpark_oldWords (s : State) (l : List Nat) : (s.unpark l).oldWords = s.oldWords := rfl
@[simp] theorem State.unpark_gloads (s : State) (l : List Nat) : (s.unpark l).gloads = s.gloads := rfl
@[simp] theorem State.unpark_msgs (s : State) (l : List Nat) : (s.unpark l).msgs = s.msgs := rfl
@[simp] theorem State.unpark_tokens (s : State) (l : List Nat) : (s.unpark l).tokens = s.tokens := rfl
@[simp] theorem State.unpark_flits (s : State) (l : List Nat) : (s.unpark l).flits = s.flits := rfl
@[simp] theorem State.unpark_chunks (s : State) (l : List Nat) : (s.unpark l).chunks = s.chunks := rfl
@[simp] theorem State.unpark_hostOut (s : State) (l : List Nat) : (s.unpark l).hostOut = s.hostOut := rfl
@[simp] theorem State.unpark_nextId (s : State) (l : List Nat) : (s.unpark l).nextId = s.nextId := rfl
@[simp] theorem State.unpark_draws (s : State) (l : List Nat) : (s.unpark l).draws = s.draws := rfl
@[simp] theorem State.unpark_cur (s : State) (l : List Nat) : (s.unpark l).cur = s.cur := rfl
@[simp] theorem State.unpark_agenda (s : State) (l : List Nat) : (s.unpark l).agenda = s.agenda := rfl

/-! ## Fields under the updates of a core -/

@[simp] theorem Core.withCtl_vec (x : Core) (f : Ctl → Ctl) : (x.withCtl f).vec = x.vec := rfl
@[simp] theorem Core.withCtl_csr (x : Core) (f : Ctl → Ctl) : (x.withCtl f).csr = x.csr := rfl
@[simp] theorem Core.withCtl_landed (x : Core) (f : Ctl → Ctl) : (x.withCtl f).landed = x.landed := rfl
@[simp] theorem Core.withCtl_fresh (x : Core) (f : Ctl → Ctl) : (x.withCtl f).fresh = x.fresh := rfl
@[simp] theorem Core.withCtl_landedMem (x : Core) (f : Ctl → Ctl) : (x.withCtl f).landedMem = x.landedMem := rfl
@[simp] theorem Core.withCtl_corrected (x : Core) (f : Ctl → Ctl) : (x.withCtl f).corrected = x.corrected := rfl
@[simp] theorem Core.withCtl_queues (x : Core) (f : Ctl → Ctl) : (x.withCtl f).queues = x.queues := rfl
@[simp] theorem Core.withCtl_order (x : Core) (f : Ctl → Ctl) : (x.withCtl f).order = x.order := rfl
@[simp] theorem Core.withCtl_past (x : Core) (f : Ctl → Ctl) : (x.withCtl f).past = x.past := rfl
@[simp] theorem Core.withCtl_rr (x : Core) (f : Ctl → Ctl) : (x.withCtl f).rr = x.rr := rfl
@[simp] theorem Core.withCtl_mill (x : Core) (f : Ctl → Ctl) : (x.withCtl f).mill = x.mill := rfl
@[simp] theorem Core.withCtl_tiles (x : Core) (f : Ctl → Ctl) : (x.withCtl f).tiles = x.tiles := rfl
@[simp] theorem Core.withCtl_rings (x : Core) (f : Ctl → Ctl) : (x.withCtl f).rings = x.rings := rfl
@[simp] theorem Core.withCtl_boxes (x : Core) (f : Ctl → Ctl) : (x.withCtl f).boxes = x.boxes := rfl
@[simp] theorem Core.withCtl_coming (x : Core) (f : Ctl → Ctl) : (x.withCtl f).coming = x.coming := rfl
@[simp] theorem Core.withCtl_tlb (x : Core) (f : Ctl → Ctl) : (x.withCtl f).tlb = x.tlb := rfl
@[simp] theorem Core.withCtl_events (x : Core) (f : Ctl → Ctl) : (x.withCtl f).events = x.events := rfl
@[simp] theorem Core.withCtl_phase (x : Core) (f : Ctl → Ctl) : (x.withCtl f).phase = x.phase := rfl
@[simp] theorem Core.withCtl_mode (x : Core) (f : Ctl → Ctl) : (x.withCtl f).mode = x.mode := rfl
@[simp] theorem Core.withCtl_freeze (x : Core) (f : Ctl → Ctl) : (x.withCtl f).freeze = x.freeze := rfl
@[simp] theorem Core.withCtl_wakes (x : Core) (f : Ctl → Ctl) : (x.withCtl f).wakes = x.wakes := rfl
@[simp] theorem Core.withCtl_live (x : Core) (f : Ctl → Ctl) : (x.withCtl f).live = x.live := rfl
@[simp] theorem Core.withCtl_start (x : Core) (f : Ctl → Ctl) : (x.withCtl f).start = x.start := rfl
@[simp] theorem Core.withCtl_task (x : Core) (f : Ctl → Ctl) : (x.withCtl f).task = x.task := rfl
@[simp] theorem Core.withCtl_lost (x : Core) (f : Ctl → Ctl) : (x.withCtl f).lost = x.lost := rfl
@[simp] theorem Core.withCtl_elapsed (x : Core) (f : Ctl → Ctl) : (x.withCtl f).elapsed = x.elapsed := rfl
@[simp] theorem Core.withCtl_lastPush (x : Core) (f : Ctl → Ctl) : (x.withCtl f).lastPush = x.lastPush := rfl
@[simp] theorem Core.withCtl_debugSel (x : Core) (f : Ctl → Ctl) : (x.withCtl f).debugSel = x.debugSel := rfl
@[simp] theorem Core.withCtl_ctl (x : Core) (f : Ctl → Ctl) : (x.withCtl f).ctl = f x.ctl := rfl

@[simp] theorem Core.withVec_ctl (x : Core) (f : Vec → Vec) : (x.withVec f).ctl = x.ctl := rfl
@[simp] theorem Core.withVec_csr (x : Core) (f : Vec → Vec) : (x.withVec f).csr = x.csr := rfl
@[simp] theorem Core.withVec_landed (x : Core) (f : Vec → Vec) : (x.withVec f).landed = x.landed := rfl
@[simp] theorem Core.withVec_fresh (x : Core) (f : Vec → Vec) : (x.withVec f).fresh = x.fresh := rfl
@[simp] theorem Core.withVec_landedMem (x : Core) (f : Vec → Vec) : (x.withVec f).landedMem = x.landedMem := rfl
@[simp] theorem Core.withVec_corrected (x : Core) (f : Vec → Vec) : (x.withVec f).corrected = x.corrected := rfl
@[simp] theorem Core.withVec_queues (x : Core) (f : Vec → Vec) : (x.withVec f).queues = x.queues := rfl
@[simp] theorem Core.withVec_order (x : Core) (f : Vec → Vec) : (x.withVec f).order = x.order := rfl
@[simp] theorem Core.withVec_past (x : Core) (f : Vec → Vec) : (x.withVec f).past = x.past := rfl
@[simp] theorem Core.withVec_rr (x : Core) (f : Vec → Vec) : (x.withVec f).rr = x.rr := rfl
@[simp] theorem Core.withVec_mill (x : Core) (f : Vec → Vec) : (x.withVec f).mill = x.mill := rfl
@[simp] theorem Core.withVec_tiles (x : Core) (f : Vec → Vec) : (x.withVec f).tiles = x.tiles := rfl
@[simp] theorem Core.withVec_rings (x : Core) (f : Vec → Vec) : (x.withVec f).rings = x.rings := rfl
@[simp] theorem Core.withVec_boxes (x : Core) (f : Vec → Vec) : (x.withVec f).boxes = x.boxes := rfl
@[simp] theorem Core.withVec_coming (x : Core) (f : Vec → Vec) : (x.withVec f).coming = x.coming := rfl
@[simp] theorem Core.withVec_tlb (x : Core) (f : Vec → Vec) : (x.withVec f).tlb = x.tlb := rfl
@[simp] theorem Core.withVec_events (x : Core) (f : Vec → Vec) : (x.withVec f).events = x.events := rfl
@[simp] theorem Core.withVec_phase (x : Core) (f : Vec → Vec) : (x.withVec f).phase = x.phase := rfl
@[simp] theorem Core.withVec_mode (x : Core) (f : Vec → Vec) : (x.withVec f).mode = x.mode := rfl
@[simp] theorem Core.withVec_freeze (x : Core) (f : Vec → Vec) : (x.withVec f).freeze = x.freeze := rfl
@[simp] theorem Core.withVec_wakes (x : Core) (f : Vec → Vec) : (x.withVec f).wakes = x.wakes := rfl
@[simp] theorem Core.withVec_live (x : Core) (f : Vec → Vec) : (x.withVec f).live = x.live := rfl
@[simp] theorem Core.withVec_start (x : Core) (f : Vec → Vec) : (x.withVec f).start = x.start := rfl
@[simp] theorem Core.withVec_task (x : Core) (f : Vec → Vec) : (x.withVec f).task = x.task := rfl
@[simp] theorem Core.withVec_lost (x : Core) (f : Vec → Vec) : (x.withVec f).lost = x.lost := rfl
@[simp] theorem Core.withVec_elapsed (x : Core) (f : Vec → Vec) : (x.withVec f).elapsed = x.elapsed := rfl
@[simp] theorem Core.withVec_lastPush (x : Core) (f : Vec → Vec) : (x.withVec f).lastPush = x.lastPush := rfl
@[simp] theorem Core.withVec_debugSel (x : Core) (f : Vec → Vec) : (x.withVec f).debugSel = x.debugSel := rfl
@[simp] theorem Core.withVec_vec (x : Core) (f : Vec → Vec) : (x.withVec f).vec = f x.vec := rfl

@[simp] theorem Core.withCsr_ctl (x : Core) (f : Csrs → Csrs) : (x.withCsr f).ctl = x.ctl := rfl
@[simp] theorem Core.withCsr_vec (x : Core) (f : Csrs → Csrs) : (x.withCsr f).vec = x.vec := rfl
@[simp] theorem Core.withCsr_landed (x : Core) (f : Csrs → Csrs) : (x.withCsr f).landed = x.landed := rfl
@[simp] theorem Core.withCsr_fresh (x : Core) (f : Csrs → Csrs) : (x.withCsr f).fresh = x.fresh := rfl
@[simp] theorem Core.withCsr_landedMem (x : Core) (f : Csrs → Csrs) : (x.withCsr f).landedMem = x.landedMem := rfl
@[simp] theorem Core.withCsr_corrected (x : Core) (f : Csrs → Csrs) : (x.withCsr f).corrected = x.corrected := rfl
@[simp] theorem Core.withCsr_queues (x : Core) (f : Csrs → Csrs) : (x.withCsr f).queues = x.queues := rfl
@[simp] theorem Core.withCsr_order (x : Core) (f : Csrs → Csrs) : (x.withCsr f).order = x.order := rfl
@[simp] theorem Core.withCsr_past (x : Core) (f : Csrs → Csrs) : (x.withCsr f).past = x.past := rfl
@[simp] theorem Core.withCsr_rr (x : Core) (f : Csrs → Csrs) : (x.withCsr f).rr = x.rr := rfl
@[simp] theorem Core.withCsr_mill (x : Core) (f : Csrs → Csrs) : (x.withCsr f).mill = x.mill := rfl
@[simp] theorem Core.withCsr_tiles (x : Core) (f : Csrs → Csrs) : (x.withCsr f).tiles = x.tiles := rfl
@[simp] theorem Core.withCsr_rings (x : Core) (f : Csrs → Csrs) : (x.withCsr f).rings = x.rings := rfl
@[simp] theorem Core.withCsr_boxes (x : Core) (f : Csrs → Csrs) : (x.withCsr f).boxes = x.boxes := rfl
@[simp] theorem Core.withCsr_coming (x : Core) (f : Csrs → Csrs) : (x.withCsr f).coming = x.coming := rfl
@[simp] theorem Core.withCsr_tlb (x : Core) (f : Csrs → Csrs) : (x.withCsr f).tlb = x.tlb := rfl
@[simp] theorem Core.withCsr_events (x : Core) (f : Csrs → Csrs) : (x.withCsr f).events = x.events := rfl
@[simp] theorem Core.withCsr_phase (x : Core) (f : Csrs → Csrs) : (x.withCsr f).phase = x.phase := rfl
@[simp] theorem Core.withCsr_mode (x : Core) (f : Csrs → Csrs) : (x.withCsr f).mode = x.mode := rfl
@[simp] theorem Core.withCsr_freeze (x : Core) (f : Csrs → Csrs) : (x.withCsr f).freeze = x.freeze := rfl
@[simp] theorem Core.withCsr_wakes (x : Core) (f : Csrs → Csrs) : (x.withCsr f).wakes = x.wakes := rfl
@[simp] theorem Core.withCsr_live (x : Core) (f : Csrs → Csrs) : (x.withCsr f).live = x.live := rfl
@[simp] theorem Core.withCsr_start (x : Core) (f : Csrs → Csrs) : (x.withCsr f).start = x.start := rfl
@[simp] theorem Core.withCsr_task (x : Core) (f : Csrs → Csrs) : (x.withCsr f).task = x.task := rfl
@[simp] theorem Core.withCsr_lost (x : Core) (f : Csrs → Csrs) : (x.withCsr f).lost = x.lost := rfl
@[simp] theorem Core.withCsr_elapsed (x : Core) (f : Csrs → Csrs) : (x.withCsr f).elapsed = x.elapsed := rfl
@[simp] theorem Core.withCsr_lastPush (x : Core) (f : Csrs → Csrs) : (x.withCsr f).lastPush = x.lastPush := rfl
@[simp] theorem Core.withCsr_debugSel (x : Core) (f : Csrs → Csrs) : (x.withCsr f).debugSel = x.debugSel := rfl
@[simp] theorem Core.withCsr_csr (x : Core) (f : Csrs → Csrs) : (x.withCsr f).csr = f x.csr := rfl

@[simp] theorem Core.issuedCtl_vec (x : Core) (pc : Word) : (x.issuedCtl pc).vec = x.vec := rfl
@[simp] theorem Core.issuedCtl_csr (x : Core) (pc : Word) : (x.issuedCtl pc).csr = x.csr := rfl
@[simp] theorem Core.issuedCtl_landed (x : Core) (pc : Word) : (x.issuedCtl pc).landed = x.landed := rfl
@[simp] theorem Core.issuedCtl_fresh (x : Core) (pc : Word) : (x.issuedCtl pc).fresh = x.fresh := rfl
@[simp] theorem Core.issuedCtl_landedMem (x : Core) (pc : Word) : (x.issuedCtl pc).landedMem = x.landedMem := rfl
@[simp] theorem Core.issuedCtl_corrected (x : Core) (pc : Word) : (x.issuedCtl pc).corrected = x.corrected := rfl
@[simp] theorem Core.issuedCtl_queues (x : Core) (pc : Word) : (x.issuedCtl pc).queues = x.queues := rfl
@[simp] theorem Core.issuedCtl_order (x : Core) (pc : Word) : (x.issuedCtl pc).order = x.order := rfl
@[simp] theorem Core.issuedCtl_past (x : Core) (pc : Word) : (x.issuedCtl pc).past = x.past := rfl
@[simp] theorem Core.issuedCtl_rr (x : Core) (pc : Word) : (x.issuedCtl pc).rr = x.rr := rfl
@[simp] theorem Core.issuedCtl_mill (x : Core) (pc : Word) : (x.issuedCtl pc).mill = x.mill := rfl
@[simp] theorem Core.issuedCtl_tiles (x : Core) (pc : Word) : (x.issuedCtl pc).tiles = x.tiles := rfl
@[simp] theorem Core.issuedCtl_rings (x : Core) (pc : Word) : (x.issuedCtl pc).rings = x.rings := rfl
@[simp] theorem Core.issuedCtl_boxes (x : Core) (pc : Word) : (x.issuedCtl pc).boxes = x.boxes := rfl
@[simp] theorem Core.issuedCtl_coming (x : Core) (pc : Word) : (x.issuedCtl pc).coming = x.coming := rfl
@[simp] theorem Core.issuedCtl_tlb (x : Core) (pc : Word) : (x.issuedCtl pc).tlb = x.tlb := rfl
@[simp] theorem Core.issuedCtl_events (x : Core) (pc : Word) : (x.issuedCtl pc).events = x.events := rfl
@[simp] theorem Core.issuedCtl_phase (x : Core) (pc : Word) : (x.issuedCtl pc).phase = x.phase := rfl
@[simp] theorem Core.issuedCtl_mode (x : Core) (pc : Word) : (x.issuedCtl pc).mode = x.mode := rfl
@[simp] theorem Core.issuedCtl_freeze (x : Core) (pc : Word) : (x.issuedCtl pc).freeze = x.freeze := rfl
@[simp] theorem Core.issuedCtl_wakes (x : Core) (pc : Word) : (x.issuedCtl pc).wakes = x.wakes := rfl
@[simp] theorem Core.issuedCtl_live (x : Core) (pc : Word) : (x.issuedCtl pc).live = x.live := rfl
@[simp] theorem Core.issuedCtl_start (x : Core) (pc : Word) : (x.issuedCtl pc).start = x.start := rfl
@[simp] theorem Core.issuedCtl_task (x : Core) (pc : Word) : (x.issuedCtl pc).task = x.task := rfl
@[simp] theorem Core.issuedCtl_lost (x : Core) (pc : Word) : (x.issuedCtl pc).lost = x.lost := rfl
@[simp] theorem Core.issuedCtl_elapsed (x : Core) (pc : Word) : (x.issuedCtl pc).elapsed = x.elapsed := rfl
@[simp] theorem Core.issuedCtl_lastPush (x : Core) (pc : Word) : (x.issuedCtl pc).lastPush = x.lastPush := rfl
@[simp] theorem Core.issuedCtl_debugSel (x : Core) (pc : Word) : (x.issuedCtl pc).debugSel = x.debugSel := rfl

@[simp] theorem Core.heldCtl_vec (x : Core) (w : Wait) : (x.heldCtl w).vec = x.vec := rfl
@[simp] theorem Core.heldCtl_csr (x : Core) (w : Wait) : (x.heldCtl w).csr = x.csr := rfl
@[simp] theorem Core.heldCtl_landed (x : Core) (w : Wait) : (x.heldCtl w).landed = x.landed := rfl
@[simp] theorem Core.heldCtl_fresh (x : Core) (w : Wait) : (x.heldCtl w).fresh = x.fresh := rfl
@[simp] theorem Core.heldCtl_landedMem (x : Core) (w : Wait) : (x.heldCtl w).landedMem = x.landedMem := rfl
@[simp] theorem Core.heldCtl_corrected (x : Core) (w : Wait) : (x.heldCtl w).corrected = x.corrected := rfl
@[simp] theorem Core.heldCtl_queues (x : Core) (w : Wait) : (x.heldCtl w).queues = x.queues := rfl
@[simp] theorem Core.heldCtl_order (x : Core) (w : Wait) : (x.heldCtl w).order = x.order := rfl
@[simp] theorem Core.heldCtl_past (x : Core) (w : Wait) : (x.heldCtl w).past = x.past := rfl
@[simp] theorem Core.heldCtl_rr (x : Core) (w : Wait) : (x.heldCtl w).rr = x.rr := rfl
@[simp] theorem Core.heldCtl_mill (x : Core) (w : Wait) : (x.heldCtl w).mill = x.mill := rfl
@[simp] theorem Core.heldCtl_tiles (x : Core) (w : Wait) : (x.heldCtl w).tiles = x.tiles := rfl
@[simp] theorem Core.heldCtl_rings (x : Core) (w : Wait) : (x.heldCtl w).rings = x.rings := rfl
@[simp] theorem Core.heldCtl_boxes (x : Core) (w : Wait) : (x.heldCtl w).boxes = x.boxes := rfl
@[simp] theorem Core.heldCtl_coming (x : Core) (w : Wait) : (x.heldCtl w).coming = x.coming := rfl
@[simp] theorem Core.heldCtl_tlb (x : Core) (w : Wait) : (x.heldCtl w).tlb = x.tlb := rfl
@[simp] theorem Core.heldCtl_events (x : Core) (w : Wait) : (x.heldCtl w).events = x.events := rfl
@[simp] theorem Core.heldCtl_phase (x : Core) (w : Wait) : (x.heldCtl w).phase = x.phase := rfl
@[simp] theorem Core.heldCtl_mode (x : Core) (w : Wait) : (x.heldCtl w).mode = x.mode := rfl
@[simp] theorem Core.heldCtl_freeze (x : Core) (w : Wait) : (x.heldCtl w).freeze = x.freeze := rfl
@[simp] theorem Core.heldCtl_wakes (x : Core) (w : Wait) : (x.heldCtl w).wakes = x.wakes := rfl
@[simp] theorem Core.heldCtl_live (x : Core) (w : Wait) : (x.heldCtl w).live = x.live := rfl
@[simp] theorem Core.heldCtl_start (x : Core) (w : Wait) : (x.heldCtl w).start = x.start := rfl
@[simp] theorem Core.heldCtl_task (x : Core) (w : Wait) : (x.heldCtl w).task = x.task := rfl
@[simp] theorem Core.heldCtl_lost (x : Core) (w : Wait) : (x.heldCtl w).lost = x.lost := rfl
@[simp] theorem Core.heldCtl_elapsed (x : Core) (w : Wait) : (x.heldCtl w).elapsed = x.elapsed := rfl
@[simp] theorem Core.heldCtl_lastPush (x : Core) (w : Wait) : (x.heldCtl w).lastPush = x.lastPush := rfl
@[simp] theorem Core.heldCtl_debugSel (x : Core) (w : Wait) : (x.heldCtl w).debugSel = x.debugSel := rfl

@[simp] theorem Core.putReg_vec (x : Core) (r : Fin 32) (v : Word) (n : Nat) : (x.putReg r v n).vec = x.vec := rfl
@[simp] theorem Core.putReg_csr (x : Core) (r : Fin 32) (v : Word) (n : Nat) : (x.putReg r v n).csr = x.csr := rfl
@[simp] theorem Core.putReg_landed (x : Core) (r : Fin 32) (v : Word) (n : Nat) : (x.putReg r v n).landed = x.landed := rfl
@[simp] theorem Core.putReg_fresh (x : Core) (r : Fin 32) (v : Word) (n : Nat) : (x.putReg r v n).fresh = x.fresh := rfl
@[simp] theorem Core.putReg_landedMem (x : Core) (r : Fin 32) (v : Word) (n : Nat) : (x.putReg r v n).landedMem = x.landedMem := rfl
@[simp] theorem Core.putReg_corrected (x : Core) (r : Fin 32) (v : Word) (n : Nat) : (x.putReg r v n).corrected = x.corrected := rfl
@[simp] theorem Core.putReg_queues (x : Core) (r : Fin 32) (v : Word) (n : Nat) : (x.putReg r v n).queues = x.queues := rfl
@[simp] theorem Core.putReg_order (x : Core) (r : Fin 32) (v : Word) (n : Nat) : (x.putReg r v n).order = x.order := rfl
@[simp] theorem Core.putReg_past (x : Core) (r : Fin 32) (v : Word) (n : Nat) : (x.putReg r v n).past = x.past := rfl
@[simp] theorem Core.putReg_rr (x : Core) (r : Fin 32) (v : Word) (n : Nat) : (x.putReg r v n).rr = x.rr := rfl
@[simp] theorem Core.putReg_mill (x : Core) (r : Fin 32) (v : Word) (n : Nat) : (x.putReg r v n).mill = x.mill := rfl
@[simp] theorem Core.putReg_tiles (x : Core) (r : Fin 32) (v : Word) (n : Nat) : (x.putReg r v n).tiles = x.tiles := rfl
@[simp] theorem Core.putReg_rings (x : Core) (r : Fin 32) (v : Word) (n : Nat) : (x.putReg r v n).rings = x.rings := rfl
@[simp] theorem Core.putReg_boxes (x : Core) (r : Fin 32) (v : Word) (n : Nat) : (x.putReg r v n).boxes = x.boxes := rfl
@[simp] theorem Core.putReg_coming (x : Core) (r : Fin 32) (v : Word) (n : Nat) : (x.putReg r v n).coming = x.coming := rfl
@[simp] theorem Core.putReg_tlb (x : Core) (r : Fin 32) (v : Word) (n : Nat) : (x.putReg r v n).tlb = x.tlb := rfl
@[simp] theorem Core.putReg_events (x : Core) (r : Fin 32) (v : Word) (n : Nat) : (x.putReg r v n).events = x.events := rfl
@[simp] theorem Core.putReg_phase (x : Core) (r : Fin 32) (v : Word) (n : Nat) : (x.putReg r v n).phase = x.phase := rfl
@[simp] theorem Core.putReg_mode (x : Core) (r : Fin 32) (v : Word) (n : Nat) : (x.putReg r v n).mode = x.mode := rfl
@[simp] theorem Core.putReg_freeze (x : Core) (r : Fin 32) (v : Word) (n : Nat) : (x.putReg r v n).freeze = x.freeze := rfl
@[simp] theorem Core.putReg_wakes (x : Core) (r : Fin 32) (v : Word) (n : Nat) : (x.putReg r v n).wakes = x.wakes := rfl
@[simp] theorem Core.putReg_live (x : Core) (r : Fin 32) (v : Word) (n : Nat) : (x.putReg r v n).live = x.live := rfl
@[simp] theorem Core.putReg_start (x : Core) (r : Fin 32) (v : Word) (n : Nat) : (x.putReg r v n).start = x.start := rfl
@[simp] theorem Core.putReg_task (x : Core) (r : Fin 32) (v : Word) (n : Nat) : (x.putReg r v n).task = x.task := rfl
@[simp] theorem Core.putReg_lost (x : Core) (r : Fin 32) (v : Word) (n : Nat) : (x.putReg r v n).lost = x.lost := rfl
@[simp] theorem Core.putReg_elapsed (x : Core) (r : Fin 32) (v : Word) (n : Nat) : (x.putReg r v n).elapsed = x.elapsed := rfl
@[simp] theorem Core.putReg_lastPush (x : Core) (r : Fin 32) (v : Word) (n : Nat) : (x.putReg r v n).lastPush = x.lastPush := rfl
@[simp] theorem Core.putReg_debugSel (x : Core) (r : Fin 32) (v : Word) (n : Nat) : (x.putReg r v n).debugSel = x.debugSel := rfl

@[simp] theorem Core.pend_ctl (x : Core) (e : PEntry) : (x.pend e).ctl = x.ctl := rfl
@[simp] theorem Core.pend_csr (x : Core) (e : PEntry) : (x.pend e).csr = x.csr := rfl
@[simp] theorem Core.pend_landed (x : Core) (e : PEntry) : (x.pend e).landed = x.landed := rfl
@[simp] theorem Core.pend_fresh (x : Core) (e : PEntry) : (x.pend e).fresh = x.fresh := rfl
@[simp] theorem Core.pend_landedMem (x : Core) (e : PEntry) : (x.pend e).landedMem = x.landedMem := rfl
@[simp] theorem Core.pend_corrected (x : Core) (e : PEntry) : (x.pend e).corrected = x.corrected := rfl
@[simp] theorem Core.pend_queues (x : Core) (e : PEntry) : (x.pend e).queues = x.queues := rfl
@[simp] theorem Core.pend_order (x : Core) (e : PEntry) : (x.pend e).order = x.order := rfl
@[simp] theorem Core.pend_past (x : Core) (e : PEntry) : (x.pend e).past = x.past := rfl
@[simp] theorem Core.pend_rr (x : Core) (e : PEntry) : (x.pend e).rr = x.rr := rfl
@[simp] theorem Core.pend_mill (x : Core) (e : PEntry) : (x.pend e).mill = x.mill := rfl
@[simp] theorem Core.pend_tiles (x : Core) (e : PEntry) : (x.pend e).tiles = x.tiles := rfl
@[simp] theorem Core.pend_rings (x : Core) (e : PEntry) : (x.pend e).rings = x.rings := rfl
@[simp] theorem Core.pend_boxes (x : Core) (e : PEntry) : (x.pend e).boxes = x.boxes := rfl
@[simp] theorem Core.pend_coming (x : Core) (e : PEntry) : (x.pend e).coming = x.coming := rfl
@[simp] theorem Core.pend_tlb (x : Core) (e : PEntry) : (x.pend e).tlb = x.tlb := rfl
@[simp] theorem Core.pend_events (x : Core) (e : PEntry) : (x.pend e).events = x.events := rfl
@[simp] theorem Core.pend_phase (x : Core) (e : PEntry) : (x.pend e).phase = x.phase := rfl
@[simp] theorem Core.pend_mode (x : Core) (e : PEntry) : (x.pend e).mode = x.mode := rfl
@[simp] theorem Core.pend_freeze (x : Core) (e : PEntry) : (x.pend e).freeze = x.freeze := rfl
@[simp] theorem Core.pend_wakes (x : Core) (e : PEntry) : (x.pend e).wakes = x.wakes := rfl
@[simp] theorem Core.pend_live (x : Core) (e : PEntry) : (x.pend e).live = x.live := rfl
@[simp] theorem Core.pend_start (x : Core) (e : PEntry) : (x.pend e).start = x.start := rfl
@[simp] theorem Core.pend_task (x : Core) (e : PEntry) : (x.pend e).task = x.task := rfl
@[simp] theorem Core.pend_lost (x : Core) (e : PEntry) : (x.pend e).lost = x.lost := rfl
@[simp] theorem Core.pend_elapsed (x : Core) (e : PEntry) : (x.pend e).elapsed = x.elapsed := rfl
@[simp] theorem Core.pend_lastPush (x : Core) (e : PEntry) : (x.pend e).lastPush = x.lastPush := rfl
@[simp] theorem Core.pend_debugSel (x : Core) (e : PEntry) : (x.pend e).debugSel = x.debugSel := rfl

/-! ## Tables -/

/-- An entry is found after it is put. -/
@[simp] theorem Tab.find_put_self {α : Type} (t : Tab α) (k : Nat) (a : α) : Tab.find (Tab.put t k a) k = some a := by
  induction t with
  | nil => simp [Tab.put, Tab.find]
  | cons x r ih =>
    obtain ⟨j, b⟩ := x
    simp only [Tab.put]
    split
    · simp [Tab.find]
    · split
      · simp [Tab.find]
      · rename_i h
        have h' : j ≠ k := fun e => h e.symm
        simp [Tab.find, ih, h']

/-- Another entry is found as before. -/
theorem Tab.find_put_ne {α : Type} (t : Tab α) (k j : Nat) (a : α) (h : j ≠ k) :
    Tab.find (Tab.put t k a) j = Tab.find t j := by
  induction t with
  | nil => simp [Tab.put, Tab.find, Ne.symm h]
  | cons x r ih =>
    obtain ⟨i, b⟩ := x
    simp only [Tab.put]
    split
    · simp [Tab.find, Ne.symm h]
    · split
      · rename_i e; subst e; simp [Tab.find, Ne.symm h]
      · simp [Tab.find, ih]

/-- Putting twice under one key leaves the second entry. -/
@[simp] theorem Tab.put_put {α : Type} (t : Tab α) (k : Nat) (a b : α) : Tab.put (Tab.put t k a) k b = Tab.put t k b := by
  induction t with
  | nil => simp [Tab.put]
  | cons x r ih =>
    obtain ⟨j, c⟩ := x
    simp only [Tab.put]
    split
    · simp [Tab.put]
    · split
      · rename_i h; subst h; simp [Tab.put]
      · rename_i h1 h2; simp [Tab.put, h1, h2, ih]

/-! ## Cores and packages -/

/-- The core that was stored is the core. -/
@[simp] theorem State.core_setCore (s : State) (c : Nat) (x : Core) : (s.setCore c x).core c = x := by
  simp [State.core, State.setCore]
/-- Every other core is as before. -/
theorem State.core_setCore_ne (s : State) (c d : Nat) (x : Core) (h : d ≠ c) : (s.setCore c x).core d = s.core d := by
  simp [State.core, State.setCore, Tab.find_put_ne _ _ _ _ h]
/-- The core that was changed is changed so. -/
@[simp] theorem State.core_modCore (s : State) (c : Nat) (f : Core → Core) : (s.modCore c f).core c = f (s.core c) := by
  simp [State.modCore]
/-- Every other core is as before. -/
theorem State.core_modCore_ne (s : State) (c d : Nat) (f : Core → Core) (h : d ≠ c) :
    (s.modCore c f).core d = s.core d := by
  simp [State.modCore, State.core_setCore_ne _ _ _ _ h]
/-- A core stored over another leaves the second. -/
@[simp] theorem State.setCore_setCore (s : State) (c : Nat) (x y : Core) : (s.setCore c x).setCore c y = s.setCore c y := by
  simp [State.setCore]
/-- A core changed after it is stored. -/
@[simp] theorem State.modCore_setCore (s : State) (c : Nat) (x : Core) (f : Core → Core) :
    (s.setCore c x).modCore c f = s.setCore c (f x) := by
  simp [State.modCore]
/-- The running core after it is stored. -/
@[simp] theorem State.me_setCore (s : State) (x : Core) : (s.setCore s.cur x).me = x := by simp [State.me]
/-- The running core after it is changed. -/
@[simp] theorem State.me_onMe (s : State) (f : Core → Core) : (s.onMe f).me = f s.me := by simp [State.me, State.onMe]
/-- The package that was stored is the package. -/
@[simp] theorem State.pkg_setPkg (s : State) (p : Nat) (x : Pkg) : (s.setPkg p x).pkg p = x := by
  simp [State.pkg, State.pkg?, State.setPkg]
/-- Every other package is as before. -/
theorem State.pkg_setPkg_ne (s : State) (p q : Nat) (x : Pkg) (h : q ≠ p) : (s.setPkg p x).pkg q = s.pkg q := by
  simp [State.pkg, State.pkg?, State.setPkg, Tab.find_put_ne _ _ _ _ h]
/-- The partition that was changed is changed so. -/
@[simp] theorem State.part_modPart (s : State) (k : Nat) (g : Part → Part) : (s.modPart k g).part k = g (s.part k) := by
  simp [State.part, State.modPart]

end Sys2Proof.Machine
end

