-- ==== Sys2Proof/Laws/Memory.lean ====
section
/-! SUPPORT. Memory: every write keeps the canonical form, a byte read after a write is the byte written, and a write leaves every
other byte alone. -/
namespace Sys2Proof.Machine

/-- Sorted cells as a pairwise order of their keys. -/
theorem Memory.wf_iff (m : List Host.Cell) : Memory.wf m = true ↔ m.Pairwise fun a b => a.1 < b.1 := by
  induction m with
  | nil => simp [Memory.wf, Tab.sorted]
  | cons x r ih =>
    simp only [Memory.wf] at ih
    simp [Memory.wf, Tab.sorted, List.pairwise_cons, ih, List.all_eq_true]

/-- The keys of a run of bytes. -/
theorem mem_enumFrom (k : Nat) (bs : List Byte) (x : Host.Cell) (h : x ∈ enumFrom k bs) :
    k ≤ x.1 ∧ x.1 < k + bs.length := by
  induction bs generalizing k with
  | nil => simp [enumFrom] at h
  | cons b r ih =>
    simp only [enumFrom, List.mem_cons] at h
    rcases h with h | h
    · subst h; simp
    · have := ih (k + 1) h; simp only [List.length_cons]; omega

/-- A run of bytes has rising keys. -/
theorem enumFrom_pairwise (k : Nat) (bs : List Byte) : (enumFrom k bs).Pairwise fun a b => a.1 < b.1 := by
  induction bs generalizing k with
  | nil => simp [enumFrom]
  | cons b r ih =>
    simp only [enumFrom, List.pairwise_cons]
    exact ⟨fun x h => by have := mem_enumFrom _ _ _ h; omega, ih (k + 1)⟩

/-- A write of a run keeps the canonical form. -/
theorem writeCells_wf (m : List Host.Cell) (k : Nat) (bs : List Byte) (h : Memory.wf m = true) :
    Memory.wf (writeCells m k bs) = true := by
  rw [Memory.wf_iff] at h ⊢
  simp only [writeCells, cellsBelow, cellsFrom, List.append_assoc, List.pairwise_append, List.mem_append,
    List.mem_filter, decide_eq_true_eq]
  refine ⟨h.filter _, ⟨enumFrom_pairwise k bs, h.filter _, fun a ha b hb => ?_⟩, fun a ha b hb => ?_⟩
  · have := mem_enumFrom _ _ _ ha; have := hb.2; omega
  · rcases hb with hb | hb
    · have := mem_enumFrom _ _ _ hb; have := ha.2; omega
    · have := ha.2; have := hb.2; omega

/-- Cells filtered by their keys keep the canonical form. -/
theorem Memory.wf_filter (m : List Host.Cell) (p : Host.Cell → Bool) (h : Memory.wf m = true) :
    Memory.wf (m.filter p) = true := by
  rw [Memory.wf_iff] at h ⊢; exact h.filter _

/-- A byte of a list put before another is found in the first that lists it. -/
theorem cellAt_append (a b : List Host.Cell) (k : Nat) : cellAt (a ++ b) k = (cellAt a k).or (cellAt b k) := by
  induction a with
  | nil => simp [cellAt]
  | cons x r ih => obtain ⟨j, v⟩ := x; simp only [List.cons_append, cellAt]; split <;> simp [ih]
/-- Cells filtered by their keys. -/
theorem cellAt_filter (m : List Host.Cell) (p : Nat → Bool) (k : Nat) :
    cellAt (m.filter fun x => p x.1) k = if p k then cellAt m k else none := by
  induction m with
  | nil => simp [cellAt]
  | cons x r ih =>
    obtain ⟨j, v⟩ := x
    by_cases hj : j = k
    · subst hj; by_cases hp : p j <;> simp [cellAt, hp, ih]
    · by_cases hp : p j <;> simp [cellAt, hp, hj, ih]
/-- A byte of a run. -/
theorem cellAt_enumFrom (k j : Nat) (bs : List Byte) :
    cellAt (enumFrom k bs) j = if k ≤ j then bs[j - k]? else none := by
  induction bs generalizing k with
  | nil => simp [enumFrom, cellAt]
  | cons b r ih =>
    simp only [enumFrom, cellAt, ih]
    by_cases h : k = j
    · subst h; simp
    · simp only [h, if_false]
      by_cases h1 : k ≤ j
      · have h2 : k + 1 ≤ j := by omega
        have e : j - k = (j - (k + 1)) + 1 := by omega
        simp [h1, h2, e]
      · have h2 : ¬ k + 1 ≤ j := by omega
        simp [h1, h2]
/-- Reading a byte of the cells after a write. -/
theorem cellAt_writeCells (m : List Host.Cell) (k j : Nat) (bs : List Byte) :
    cellAt (writeCells m k bs) j = if k ≤ j ∧ j < k + bs.length then bs[j - k]? else cellAt m j := by
  simp only [writeCells, cellAt_append, cellsBelow, cellsFrom, cellAt_filter _ (fun x => decide (x < k)),
    cellAt_filter _ (fun x => decide (k + bs.length ≤ x)), cellAt_enumFrom, decide_eq_true_eq]
  by_cases h1 : j < k
  · have h2 : ¬ k ≤ j := by omega
    have h3 : ¬ k + bs.length ≤ j := by omega
    simp [h1, h2, h3]
  · have h2 : k ≤ j := by omega
    by_cases h4 : j < k + bs.length
    · have h3 : ¬ k + bs.length ≤ j := by omega
      simp [h1, h2, h3, h4]
    · have h3 : k + bs.length ≤ j := by omega
      have h5 : bs[j - k]? = none := by simp; omega
      simp [h1, h2, h3, h4, h5]

/-- The epoch of a byte depends on the cores alone. -/
theorem State.epoch_writeRuns (s : State) (r : List (Nat × List Byte)) (j : Nat) : (s.writeRuns r).epoch j = s.epoch j := rfl
/-- A byte that a write covers reads as written. -/
theorem State.readByte_write (s : State) (k i : Nat) (bs : List Byte) (h : i < bs.length) :
    (s.write k bs).readByte (k + i) = bs[i] := by
  have e : (s.write k bs).mem = writeCells s.mem k bs := rfl
  simp [State.readByte, e, cellAt_writeCells, h]
/-- A byte outside a write reads as before. -/
theorem State.readByte_write_outside (s : State) (k j : Nat) (bs : List Byte) (h : j < k ∨ k + bs.length ≤ j) :
    (s.write k bs).readByte j = s.readByte j := by
  have e : (s.write k bs).mem = writeCells s.mem k bs := rfl
  have n : ¬ (k ≤ j ∧ j < k + bs.length) := by omega
  simp only [State.readByte, e, cellAt_writeCells, n, if_false]
  rfl
/-- The bytes of a run read after its write. -/
theorem State.readBytes_write (s : State) (k : Nat) (bs : List Byte) : (s.write k bs).readBytes k bs.length = bs := by
  apply List.ext_getElem
  · simp [State.readBytes, upto]
  · intro i h1 h2
    simp [State.readBytes, upto, State.readByte_write s k i bs h2]

/-- A write of runs keeps the canonical form. -/
theorem State.writeRuns_wf (s : State) (r : List (Nat × List Byte)) (h : Memory.wf s.mem = true) :
    Memory.wf (s.writeRuns r).mem = true := by
  show Memory.wf (r.foldl (fun m r => writeCells m r.1 r.2) s.mem) = true
  generalize s.mem = m at h
  induction r generalizing m with
  | nil => exact h
  | cons x l ih => exact ih _ (writeCells_wf _ _ _ h)
/-- A write of one run keeps the canonical form. -/
theorem State.write_wf (s : State) (k : Nat) (b : List Byte) (h : Memory.wf s.mem = true) :
    Memory.wf (s.write k b).mem = true := s.writeRuns_wf _ h
/-- A write of a number keeps the canonical form. -/
theorem State.writeNat_wf (s : State) (k n v : Nat) (h : Memory.wf s.mem = true) :
    Memory.wf (s.writeNat k n v).mem = true := s.write_wf _ _ h

/-- Reset memory has the canonical form. -/
theorem State.reset_mem_wf : Memory.wf State.reset.mem = true := rfl

end Sys2Proof.Machine
end

