-- ==== Sys2Proof/Laws/Translate.lean ====
section
/-! SUPPORT. What counting and translation leave alone: memory, poison and the accesses in flight, whatever the outcome. -/
namespace Sys2Proof.Machine

/-- Two states that hold the same memory, poison and accesses in flight. -/
def SameBytes (s t : State) : Prop := t.mem = s.mem ∧ t.poison = s.poison ∧ t.flight = s.flight

theorem SameBytes.rfl' (s : State) : SameBytes s s := ⟨rfl, rfl, rfl⟩
theorem SameBytes.trans {s t u : State} (h : SameBytes s t) (k : SameBytes t u) : SameBytes s u :=
  ⟨k.1.trans h.1, k.2.1.trans h.2.1, k.2.2.trans h.2.2⟩
theorem sameBytes_modCore (s : State) (c : Nat) (f : Core → Core) : SameBytes s (s.modCore c f) := ⟨rfl, rfl, rfl⟩
theorem sameBytes_modPkg (s : State) (p : Nat) (f : Pkg → Pkg) : SameBytes s (s.modPkg p f) := by
  unfold State.modPkg; split <;> exact ⟨rfl, rfl, rfl⟩
theorem sameBytes_modDie (s : State) (p d : Nat) (f : Die → Die) : SameBytes s (s.modDie p d f) := sameBytes_modPkg ..
theorem sameBytes_countFrame (s : State) (k n : Nat) : SameBytes s (s.countFrame k n) := by
  unfold State.countFrame; split
  · exact sameBytes_modDie ..
  · exact .rfl' s
theorem sameBytes_countWalkFrom (p va fuel level table : Nat) (s : State) : SameBytes s (s.countWalkFrom p va fuel level table) := by
  induction fuel generalizing s level table with
  | zero => exact .rfl' s
  | succ n ih =>
    unfold State.countWalkFrom
    split
    · exact .rfl' s
    · dsimp only
      split
      · exact .rfl' s
      · split
        · exact sameBytes_countFrame ..
        · split
          · exact (sameBytes_countFrame ..).trans (ih ..)
          · exact sameBytes_countFrame ..
/-- A lookup of a page changes caches and counts only. -/
theorem sameBytes_lookup (s : State) (c va : Nat) : SameBytes s (s.lookup c va).1 := by
  unfold State.lookup
  dsimp only
  split
  · exact .rfl' s
  · split
    · exact ⟨rfl, rfl, rfl⟩
    · split
      · exact ((sameBytes_countWalkFrom ..).trans (sameBytes_modCore ..)).trans (sameBytes_modDie ..)
      · exact sameBytes_countWalkFrom ..
/-- So does a translation, whatever its outcome. -/
theorem sameBytes_translate (s : State) (c : Nat) (va : Word) (n : Nat) (need : Need) (kernel guard : Bool) :
    SameBytes s (s.translate c va n need kernel guard).1 := by
  unfold State.translate
  split
  · exact .rfl' s
  · split
    · exact .rfl' s
    · exact sameBytes_lookup ..

end Sys2Proof.Machine
end

