-- ==== Sys2Proof/Laws/Words.lean ====
section
/-! SUPPORT. How the shared ends of a control word and of a vector word read in the terms of the statements: issue, transfer, wait
and trap, and what the operand operations answer. -/
namespace Sys2Proof.Machine
open Sys2Proof.Safety

/-- A control word that issues: the word after it follows (R43). -/
theorem ctl_go (s t : State) (h : t.cur = s.cur) : ctl s (.ok (.go t)) = .next (ctlNext t) := by
  simp only [ctl, State.settleCtl, ← h]; rfl
/-- A control word that transfers to an aligned address (R43). -/
theorem ctl_jump (s t : State) (pc : Word) (h : t.cur = s.cur) (a : pc.toNat % 8 = 0) :
    ctl s (.ok (.jump t pc)) = .next (ctlTo pc t) := by
  simp only [ctl, State.settleCtl, a, ← h]; rfl
/-- A control word that transfers to an address that is not aligned traps (R43). -/
theorem ctl_jump_misaligned (s t : State) (pc : Word) (a : pc.toNat % 8 ≠ 0) :
    ctl s (.ok (.jump t pc)) = .next (ctlTrap .misalign pc s) := by
  simp only [ctl, State.settleCtl, ctlTrap, if_pos a]
/-- A control word that waits (R45). -/
theorem ctl_hold (s : State) (w : Wait) : ctl s (.error (.hold w)) = .next (ctlHeld w s) := rfl
/-- A control word that traps (R56). -/
theorem ctl_trap (s : State) (c : Cause) (i : Word) :
    ctl s (.error (.trap { cause := c, info := i })) = .next (ctlTrap c i s) := rfl
/-- A vector word that issues (R88, R97). -/
theorem vec_go (s t : State) (h : t.cur = s.cur) : vec s (.ok (.go t)) = .next (vecNext t) := by
  simp only [vec, State.settleVec, ← h]; rfl
/-- A vector word that transfers. -/
theorem vec_jump (s t : State) (pc : Word) (h : t.cur = s.cur) :
    vec s (.ok (.jump t pc)) = .next (vecTo pc t.me.vec.loops t) := by
  simp only [vec, State.settleVec, ← h]; rfl
/-- A vector word that waits. -/
theorem vec_hold (s : State) (w : Wait) : vec s (.error (.hold w)) = .next (vecHeld w s) := rfl
/-- A vector word that traps, no word of the control stream being past its commit point. -/
theorem vec_trap (s : State) (c : Cause) (i : Word) (h : s.me.ctl.past = false) :
    vec s (.error (.trap { cause := c, info := i })) = .next (vecTrap c i s) := by
  have h' : (s.core s.cur).ctl.past = false := h
  simp [vec, State.settleVec, State.vecTrap, h', Sys2Proof.Safety.vecTrap]

/-- The merge of no flags changes nothing. -/
@[simp] theorem Core.mergeCtl_none (x : Core) (pc : Word) : x.mergeCtl 0 false pc = x := by
  simp [Core.mergeCtl, Core.mergeFlags, Core.mergeFsr]
/-- Flags merged into the control stream leave its PC. -/
@[simp] theorem Core.mergeCtl_pc (x : Core) (f : BitVec 5) (n : Bool) (pc : Word) : (x.mergeCtl f n pc).ctl.pc = x.ctl.pc := by
  simp only [Core.mergeCtl]; split <;> rfl
/-- Substitutions counted leave the PC. -/
theorem Core.countUez_foldl_pc (l : List LqEntry) (x : Core) :
    (l.foldl (fun y e => match e.datum with | .zeroed => y.countUez | _ => y) x).ctl.pc = x.ctl.pc := by
  induction l generalizing x with
  | nil => rfl
  | cons e r ih => rw [List.foldl_cons, ih]; split <;> rfl
/-- The pops of a word leave the PC. -/
@[simp] theorem Core.commitPops_pc (x : Core) (l : List Src) : (x.commitPops l).ctl.pc = x.ctl.pc := by
  simp only [Core.commitPops, Core.mergeCtl_pc]
  exact (Core.countUez_foldl_pc _ _).trans rfl
/-- What one source answers is the value read and the core with its pop made. -/
theorem Core.src1_core (x y : Core) (a : Src) (v : Word) (h : x.src1 a = .ok (v, y)) : y = x.commitPops [a] := by
  simp only [Core.src1, Core.srcs, bind, Except.bind] at h
  cases h1 : x.ctl.awaitAll [] [a] with
  | error e => simp [h1] at h
  | ok u =>
    cases h2 : x.ctl.readAll [] [a] with
    | error e => simp [h1, h2] at h
    | ok vs => simp only [h1, h2, Except.ok.injEq, Prod.mk.injEq] at h; exact h.2.symm

end Sys2Proof.Machine
end

