-- ==== Sys2Proof/Tests/Slice0.lean ====
section
/-! SUPPORT. Tests: words of the spec's encoding tables through the decoder; terms that WellFormed refuses; one word or one step
on small states; and for every statement with hypotheses a state and operands that meet them. The expected results come from
the rules named. -/
open Sys2Proof Sys2Proof.Machine Sys2Proof.Safety
namespace Sys2Proof.Tests

/-! ## Decoding, against words written out from the field tables -/

/-- What the decoder reads from a unit's words in a stream. -/
noncomputable def readIn (st : Stream) (p : Nat × List Nat) : Option Instr :=
  match decodeUnit st (BitVec.ofNat 64 p.1) (p.2.map (BitVec.ofNat 64)) with
  | .ok u => some u.instr
  | .error _ => none
/-- In the control stream. -/
noncomputable def readCtl := readIn .control
/-- In the vector stream. -/
noncomputable def readVec := readIn .vector

/-- Words from the field tables of R24, R27, R63. -/
theorem test_decode_alu_1 :
    [(0x0000428938000000, []), (0x0000504830040000, []), (0x000050CD20080000, []), (0x0000514A880C0000, []),
     (0x000051BD38100000, []), (0x0000400830140000, []), (0x00004FC920180000, []), (0x000042CC881C0000, []),
     (0x0000504B38200000, []), (0x000050BC30240000, []), (0x0000510920280000, []),
     (0x000051C8882C0000, [])].map readCtl =
    [some (.add ⟨.reg 5, .reg 4, .peek 1⟩), some (.sub ⟨.aq 0, .pop 0, .reg 6⟩),
     some (.and ⟨.aq 1, .peek 0, .pop 0⟩), some (.or ⟨.aq 2, .pop 1, .reg 17⟩),
     some (.xor ⟨.aq 3, .reg 30, .peek 1⟩), some (.andn ⟨.reg 0, .reg 4, .reg 6⟩),
     some (.shl ⟨.reg 31, .pop 0, .pop 0⟩), some (.shr ⟨.reg 5, .peek 0, .reg 17⟩),
     some (.sra ⟨.aq 0, .pop 1, .peek 1⟩), some (.rot ⟨.aq 1, .reg 30, .reg 6⟩), some (.min ⟨.aq 2, .reg 4, .pop 0⟩),
     some (.max ⟨.aq 3, .pop 0, .reg 17⟩)] := rfl

/-- Words from the field tables of R24, R27, R63. -/
theorem test_decode_alu_2 :
    [(0x0000404D38300000, []), (0x00004FCA30340000, []), (0x000042BD20380000, []), (0x00005008883C0000, []),
     (0x000050C938400000, []), (0x0000448A30440008, [])].map readCtl =
    [some (.minu ⟨.reg 0, .peek 0, .peek 1⟩), some (.maxu ⟨.reg 31, .pop 1, .reg 6⟩),
     some (.slt ⟨.reg 5, .reg 30, .pop 0⟩), some (.sltu ⟨.aq 0, .reg 4, .reg 17⟩),
     some (.seq ⟨.aq 1, .pop 0, .peek 1⟩), some (.sel ⟨.reg 9, .reg 5, .reg 6⟩ 8)] := rfl

/-- Words from the field tables of R24, R64 to R66. -/
theorem test_decode_immediate_and_multiply_1 :
    [(0x0000630FFFFFFFFF, []), (0x000091CAFFFFFFFF, []), (0x0000A0CD00000000, []), (0x0000C30E00000005, []),
     (0x0000F1CA00000000, []), (0x000100CC00000020, []), (0x0001230E0000003F, []), (0x000151CA00000005, []),
     (0x000160CDFFFFFFFF, []), (0x00018528F0000000, []), (0x000185AAE8040000, []),
     (0x0001862CE0080000, [])].map readCtl =
    [some (.addImmediate ⟨.reg 6, .reg 7, -1⟩), some (.andImmediate ⟨.aq 3, .pop 1, 4294967295⟩),
     some (.orImmediate ⟨.reg 1, .peek 0, -4294967296⟩), some (.xorImmediate ⟨.reg 6, .reg 7, 5⟩),
     some (.shlImmediate ⟨.aq 3, .pop 1, 0⟩), some (.shrImmediate ⟨.reg 1, .peek 0, 32⟩),
     some (.sraImmediate ⟨.reg 6, .reg 7, 63⟩), some (.sltImmediate ⟨.aq 3, .pop 1, 5⟩),
     some (.sltuImmediate ⟨.reg 1, .peek 0, -1⟩), some (.mul ⟨.reg 10, .reg 20, .reg 30⟩),
     some (.mulh ⟨.reg 11, .reg 21, .reg 29⟩), some (.mulhu ⟨.reg 12, .reg 22, .reg 28⟩)] := rfl

/-- Words from the field tables of R24, R64 to R66. -/
theorem test_decode_immediate_and_multiply_2 :
    [(0x0001B14808000000, []), (0x0001B14810040000, []), (0x0001B14818080000, []),
     (0x0001B148200C0000, [])].map readCtl =
    [some (.div ⟨.aq 2, .pop 0, .reg 1⟩), some (.divu ⟨.aq 2, .pop 0, .reg 2⟩), some (.rem ⟨.aq 2, .pop 0, .reg 3⟩),
     some (.remu ⟨.aq 2, .pop 0, .reg 4⟩)] := rfl

/-- Words from the field tables of R62, R67 to R71. -/
theorem test_decode_bits_and_constants_1 :
    [(0x0001C1C800000000, []), (0x0001C24A00040000, []), (0x0001C2CC00080000, []), (0x0001C34E000C0000, []),
     (0x0001D0040010003F, []), (0x0001C24E00140007, []), (0x0001E288000001FC, []), (0x0002034800000FC3, []),
     (0x000231C000000000, []), (0x000242800001C000, []), (0x000263892802FFFD, []),
     (0x0002841250000000, [])].map readCtl =
    [some (.clz (.reg 3) (.pop 0)), some (.ctz (.reg 4) (.pop 1)), some (.popc (.reg 5) (.peek 0)),
     some (.bswap (.reg 6) (.peek 1)), some (.sext (.aq 0) (.reg 2) 63), some (.zext (.reg 4) (.peek 1) 7),
     some (.bfx (.reg 5) (.reg 4) 60 7), some (.bfi 6 (.pop 0) 3 63), some (.li (.aq 3) (-0x4000000000)),
     some (.lih 5 0x1C000), some (.lea ⟨.reg 7, .reg 4, .pop 1⟩ 5 (-3)),
     some (.gaddr ⟨.reg 8, .reg 9, .reg 10⟩)] := rfl

/-- Words from the field tables of R62, R67 to R71. -/
theorem test_decode_bits_and_constants_2 :
    [(0x0000200000000000, [])].map readCtl =
    [some (.nop)] := rfl

/-- Words from the field tables of R25, R72 to R81. -/
theorem test_decode_control_1 :
    [(0x000301207FFFFFF9, []), (0x000303289FFFFFFE, []), (0x00030530A0000003, []), (0x00030738C0000008, []),
     (0x00030920E000000D, []), (0x00030B2900000012, []), (0x00030C000FFFFFFF, []), (0x00030E000FFFFFFE, []),
     (0x000310000FFFFFFD, []), (0x000312000FFFFFFC, []), (0x0003400010000000, []),
     (0x00032F0E00000000, [])].map readCtl =
    [some (.bEq ⟨.pop 0, .reg 3, -7⟩), some (.bNe ⟨.pop 1, .reg 4, -2⟩), some (.bLt ⟨.peek 0, .reg 5, 3⟩),
     some (.bGe ⟨.peek 1, .reg 6, 8⟩), some (.bLtu ⟨.pop 0, .reg 7, 13⟩), some (.bGeu ⟨.pop 1, .reg 8, 18⟩),
     some (.bAl 268435455), some (.bFany 268435454), some (.bFall 268435453), some (.bFnone 268435452),
     some (.call (-0x10000000)), some (.jr 30 (.reg 7))] := rfl

/-- Words from the field tables of R25, R72 to R81. -/
theorem test_decode_control_2 :
    [(0x000380000000000C, []), (0x0003A00000000000, []), (0x0003C00000000000, []), (0x00040001FFFFFFFB, []),
     (0x0003E000FFFFFFFF, []), (0x0004228000000400, []), (0x0004204A00040FFF, []), (0x0004239000080001, []),
     (0x0004200C000C0000, []), (0x0004400000000000, []), (0x0004400000040000, []),
     (0x0004848000000000, [])].map readCtl =
    [some (.vgo 12), some (.vjoin), some (.halt), some (.trap (-5)), some (.sys 0xFFFFFFFF), some (.csrr 5 0x400),
     some (.csrw 0xFFF (.pop 1)), some (.csrs 7 1 (.reg 8)), some (.csrc 0 0 (.reg 6)), some (.uret), some (.kret),
     some (.uie 9)] := rfl

/-- Words from the field tables of R25, R72 to R81. -/
theorem test_decode_control_3 :
    [(0x0004850000040000, []), (0x0004B08000000000, []), (0x0004E00620000000, []), (0x0004E00A00040000, []),
     (0x0004E00000080000, [])].map readCtl =
    [some (.uid 10), some (.fget (.aq 1)), some (.tlbiPage 3 4), some (.tlbiContext 5), some (.tlbiAll)] := rfl

/-- Words from the field tables of R30 to R32, R82, R85. -/
theorem test_decode_loads_and_stores_1 :
    [(0x0008048800FFFFF8, []), (0x00082F8801000000, []), (0x0008048A457FFFFF, []), (0x00082F0A46000010, []),
     (0x0008048C8A800000, []), (0x00082E8C88000020, []), (0x0008048ECCFFFFF8, []), (0x00082E0ECD000030, []),
     (0x000804D9117FFFFF, []), (0x00082DD812000040, []), (0x0008049356800000, []),
     (0x00082D1254000050, [])].map readCtl =
    [some (.ld 9 (.plain 4 (-8)) .b .plain), some (.st 31 (.plain 4 0) .b .sync),
     some (.ld 9 (.loc 5 0x7FFFFF) .h .sync), some (.st 30 (.loc 5 16) .h .strong),
     some (.ld 9 (.postInc 6 (-0x800000)) .w .strong), some (.st 29 (.postInc 6 32) .w .plain),
     some (.ld 9 (.preInc 7 (-8)) .d .plain), some (.st 28 (.preInc 7 48) .d .sync),
     some (.ld 9 (.handle 4 0x7FFFFF) .bu .sync), some (.st 27 (.handle 4 64) .b .strong),
     some (.ld 9 (.group 9 (-0x800000)) .hu .strong), some (.st 26 (.group 9 80) .h .plain)] := rfl

/-- Words from the field tables of R30 to R32, R82, R85. -/
theorem test_decode_loads_and_stores_2 :
    [(0x00084016C0000000, []), (0x000840EF11000008, []), (0x0008401B56000010, []),
     (0x0008409D98000018, [])].map readCtl =
    [some (.ldq 0 (.plain 11 0) .d .plain), some (.ldq 1 (.handle 15 8) .bu .sync),
     some (.ldq 0 (.group 13 16) .hu .strong), some (.ldq 1 (.zue 14 24) .wu .plain)] := rfl

/-- Words from the field tables of R258, R261 to R264. -/
theorem test_decode_atomics_1 :
    [(0x0008600920000000, []), (0x0008608B28040009, []), (0x0008804CF0040011, []), (0x0008600D30080012, []),
     (0x0008804EE8080002, []), (0x0008608F380C0003, []), (0x00088048E00C000B, []), (0x0008601120100008, []),
     (0x0008804AD8100010, []), (0x0008609328140011, []), (0x0008804CD0140001, []),
     (0x0008601530180002, [])].map readCtl =
    [some (.amoSwap ⟨0, .reg 4, .pop 0, .b, .plain⟩), some (.amoAdd ⟨1, .reg 5, .pop 1, .h, .sync⟩),
     some (.redAdd ⟨.peek 0, .reg 30, .h, .strong⟩), some (.amoAnd ⟨0, .reg 6, .peek 0, .w, .strong⟩),
     some (.redAnd ⟨.peek 1, .reg 29, .w, .plain⟩), some (.amoOr ⟨1, .reg 7, .peek 1, .d, .plain⟩),
     some (.redOr ⟨.pop 0, .reg 28, .d, .sync⟩), some (.amoXor ⟨0, .reg 8, .pop 0, .b, .sync⟩),
     some (.redXor ⟨.pop 1, .reg 27, .b, .strong⟩), some (.amoMin ⟨1, .reg 9, .pop 1, .h, .strong⟩),
     some (.redMin ⟨.peek 0, .reg 26, .h, .plain⟩), some (.amoMax ⟨0, .reg 10, .peek 0, .w, .plain⟩)] := rfl

/-- Words from the field tables of R258, R261 to R264. -/
theorem test_decode_atomics_2 :
    [(0x0008804EC818000A, []), (0x00086097381C000B, []), (0x00088048C01C0013, []), (0x0008601920200010, []),
     (0x0008804AB8200000, []), (0x0008609B28240001, []), (0x0008804CB0240009, []), (0x0008601D3028000A, []),
     (0x0008804EA8280012, []), (0x0008609F382C0013, []), (0x00088048A02C0003, []),
     (0x0008602120300001, [])].map readCtl =
    [some (.redMax ⟨.peek 1, .reg 25, .w, .sync⟩), some (.amoMinu ⟨1, .reg 11, .peek 1, .d, .sync⟩),
     some (.redMinu ⟨.pop 0, .reg 24, .d, .strong⟩), some (.amoMaxu ⟨0, .reg 12, .pop 0, .b, .strong⟩),
     some (.redMaxu ⟨.pop 1, .reg 23, .b, .plain⟩), some (.amoFadd ⟨1, .reg 13, .pop 1, .h, .plain⟩),
     some (.redFadd ⟨.peek 0, .reg 22, .h, .sync⟩), some (.amoFmin ⟨0, .reg 14, .peek 0, .w, .sync⟩),
     some (.redFmin ⟨.peek 1, .reg 21, .w, .strong⟩), some (.amoFmax ⟨1, .reg 15, .peek 1, .d, .strong⟩),
     some (.redFmax ⟨.pop 0, .reg 20, .d, .plain⟩), some (.amoBfadd ⟨0, .reg 16, .pop 0, .h, .plain⟩)] := rfl

/-- Words from the field tables of R258, R261 to R264. -/
theorem test_decode_atomics_3 :
    [(0x0008804A98300009, []), (0x000860A328340009, []), (0x0008804C90340011, []), (0x0008602530380011, []),
     (0x0008804E88380001, []), (0x0008A08828000286, [])].map readCtl =
    [some (.redBfadd ⟨.pop 1, .reg 19, .h, .sync⟩), some (.amoBfmin ⟨1, .reg 17, .pop 1, .h, .sync⟩),
     some (.redBfmin ⟨.peek 0, .reg 18, .h, .strong⟩), some (.amoBfmax ⟨0, .reg 18, .peek 0, .h, .strong⟩),
     some (.redBfmax ⟨.peek 1, .reg 17, .h, .plain⟩), some (.cas ⟨1, .reg 4, .reg 5, .w, .sync⟩ 6)] := rfl

/-- Words from the field tables of R240, R258, R265 to R285. -/
theorem test_decode_handles_and_tasks_1 :
    [(0x0008C00000000001, []), (0x0008C00000040003, []), (0x0008C00000080004, []), (0x0004C00A00000001, []),
     (0x000914882800002A, []), (0x0009144830000000, []), (0x0009375400000000, []), (0x0009406E00000000, []),
     (0x0009605448000007, []), (0x0009968000000002, []), (0x0009A45A00000000, []),
     (0x0009C00828003087, [])].map readCtl =
    [some (.fenceAcq .die), some (.fenceRel .dom), some (.fenceFull .sys), some (.wait 1 (.reg 5)),
     some (.tnew 1 (some 2) (.reg 4) (.reg 5)), some (.tnew 0 none (.pop 0) (.reg 6)), some (.hdup 6 2),
     some (.hdrop 15), some (.hsend 2 (.reg 9) 3 true), some (.hrecv 5 2), some (.hinfo 8 5),
     some (.tring (.reg 4) (.reg 5) 7 2 3)] := rfl

/-- Words from the field tables of R240, R258, R265 to R285. -/
theorem test_decode_handles_and_tasks_2 :
    [(0x0009F58800002802, []), (0x000A160800002C12, []), (0x000A204C0000000F, []), (0x000A400828000000, []),
     (0x000A604A00000000, []), (0x000A958828007FE9, []), (0x000B000CE0000000, []), (0x000B200800000000, []),
     (0x000B400A30000005, []), (0x000B630800000000, []), (0x000B638A00040000, []),
     (0x000B640B20080000, [])].map readCtl =
    [some (.tclaim 3 (.reg 4) 2 10), some (.tnext 4 (.reg 4) 2 1 11), some (.tclose (.peek 0) 15),
     some (.gdef (.reg 4) (.reg 5)), some (.gdel (.pop 1)), some (.gsee 3 (.reg 4) (.reg 5) 9 62 31),
     some (.spawn (.reg 6) 28), some (.join 0 (.reg 4)), some (.enq (.reg 5) (.reg 6) 5), some (.btAlloc 6 (.reg 4)),
     some (.btFree 7 (.reg 5)), some (.btShare 8 (.reg 5) (.pop 0))] := rfl

/-- Words from the field tables of R240, R258, R265 to R285. -/
theorem test_decode_handles_and_tasks_3 :
    [(0x000B64CE000C0000, [])].map readCtl =
    [some (.btXl 9 (.peek 1))] := rfl

/-- Words from the field tables of R33, R34, R329. -/
theorem test_decode_carter_1 :
    [(0x000C000007200000, [10, 20, 30, 0x8000000000000004]), (0x000C220001400000, [10, 20, 30, 0x8000000000000004]),
     (0x000C26001F600001, [10, 20, 30, 0x8000000000000004]), (0x000C440003000000, [10, 20, 30, 0x8000000000000004]),
     (0x000C640005200001, [10, 20, 30, 0x8000000000000004]), (0x000C820001600000, [10, 20, 30, 0x8000000000000004]),
     (0x000CA0000F000000, [10, 20, 30, 0x8000000000000004]), (0x000CC20003400011, [10, 20, 30, 0x8000000000000004]),
     (0x000CC40005200022, [10, 20, 30, 0x8000000000000004]), (0x000CC60007600033, [10, 20, 30, 0x8000000000000004]),
     (0x000CC00009000004, [10, 20, 30, 0x8000000000000004]),
     (0x000CC2000B400015, [10, 20, 30, 0x8000000000000004])].map readCtl =
    [some (.cCopy ⟨0, 3, false, true, ⟨10, 20, 30, 0x8000000000000004⟩, none⟩),
     some (.cGath ⟨1, 0, true, false, ⟨10, 20, 30, 0x8000000000000004⟩, none⟩),
     some (.cGathZ ⟨3, 15, true, true, ⟨10, 20, 30, 0x8000000000000004⟩, none⟩),
     some (.cScat ⟨2, 1, false, false, ⟨10, 20, 30, 0x8000000000000004⟩, none⟩),
     some (.cFill ⟨2, 2, false, true, ⟨10, 20, 30, 0x8000000000000004⟩, none⟩ true),
     some (.cPut ⟨1, 0, true, true, ⟨10, 20, 30, 0x8000000000000004⟩, none⟩),
     some (.cGet ⟨0, 7, false, false, ⟨10, 20, 30, 0x8000000000000004⟩, none⟩),
     some (.cRedAdd ⟨1, 1, true, false, ⟨10, 20, 30, 0x8000000000000004⟩, none⟩ .h),
     some (.cRedAnd ⟨2, 2, false, true, ⟨10, 20, 30, 0x8000000000000004⟩, none⟩ .w),
     some (.cRedOr ⟨3, 3, true, true, ⟨10, 20, 30, 0x8000000000000004⟩, none⟩ .d),
     some (.cRedXor ⟨0, 4, false, false, ⟨10, 20, 30, 0x8000000000000004⟩, none⟩ .b),
     some (.cRedMin ⟨1, 5, true, false, ⟨10, 20, 30, 0x8000000000000004⟩, none⟩ .h)] := rfl

/-- Words from the field tables of R33, R34, R329. -/
theorem test_decode_carter_2 :
    [(0x000CC4000D200026, [10, 20, 30, 0x8000000000000004]), (0x000CC6000F600037, [10, 20, 30, 0x8000000000000004]),
     (0x000CC00011000008, [10, 20, 30, 0x8000000000000004]), (0x000CC20013400019, [10, 20, 30, 0x8000000000000004]),
     (0x000CC4001520002A, [10, 20, 30, 0x8000000000000004]), (0x000CC6001760003B, [10, 20, 30, 0x8000000000000004]),
     (0x000CC0001900001C, [10, 20, 30, 0x8000000000000004]), (0x000CC2001B40001D, [10, 20, 30, 0x8000000000000004]),
     (0x000CC4001D20001E, [10, 20, 30, 0x8000000000000004]), (0x000CE20001200000, [10, 20, 30, 0x8000000000000004]),
     (0x000CE40001400001, [10, 20, 30, 0x8000000000000004]),
     (0x000C040009A00000, [10, 20, 30, 0x8000000000000004, 0x000D4A0001400001, 1, 2, 3, 4])].map readCtl =
    [some (.cRedMax ⟨2, 6, false, true, ⟨10, 20, 30, 0x8000000000000004⟩, none⟩ .w),
     some (.cRedMinu ⟨3, 7, true, true, ⟨10, 20, 30, 0x8000000000000004⟩, none⟩ .d),
     some (.cRedMaxu ⟨0, 8, false, false, ⟨10, 20, 30, 0x8000000000000004⟩, none⟩ .b),
     some (.cRedFadd ⟨1, 9, true, false, ⟨10, 20, 30, 0x8000000000000004⟩, none⟩ .h),
     some (.cRedFmin ⟨2, 10, false, true, ⟨10, 20, 30, 0x8000000000000004⟩, none⟩ .w),
     some (.cRedFmax ⟨3, 11, true, true, ⟨10, 20, 30, 0x8000000000000004⟩, none⟩ .d),
     some (.cRedBfadd ⟨0, 12, false, false, ⟨10, 20, 30, 0x8000000000000004⟩, none⟩ .h),
     some (.cRedBfmin ⟨1, 13, true, false, ⟨10, 20, 30, 0x8000000000000004⟩, none⟩ .h),
     some (.cRedBfmax ⟨2, 14, false, true, ⟨10, 20, 30, 0x8000000000000004⟩, none⟩ .h),
     some (.cPin ⟨1, 0, false, true, ⟨10, 20, 30, 0x8000000000000004⟩, none⟩),
     some (.cPinOff ⟨2, 0, true, false, ⟨10, 20, 30, 0x8000000000000004⟩, none⟩),
     some (.cCopy ⟨2, 4, false, true, ⟨10, 20, 30, 0x8000000000000004⟩, some ⟨⟨1, true, false, ⟨1, 2, 3, 4⟩⟩, .mm 1⟩⟩)] := rfl

/-- Words from the field tables of R33, R34, R329. -/
theorem test_decode_mill_and_queues :
    [(0x000D080001200011, [10, 20, 30, 0x8000000000000004]), (0x000D4A0001400001, [10, 20, 30, 0x8000000000000004]),
     (0x000D6800016207DC, [10, 20, 30, 0x8000000000000004]), (0x000D8A0001003FFF, [10, 20, 30, 0x8000000000000004]),
     (0x000DA80001200001, [10, 20, 30, 0x8000000000000004]), (0x000DCA0001000003, [10, 20, 30, 0x8000000000000004]),
     (0x000DE8000140000E, [10, 20, 30, 0x8000000000000004]), (0x000E0A0001400004, [10, 20, 30, 0x8000000000000004]),
     (0x000E22000020002A, []), (0x000E460000600000, []), (0x000E680000000000, []),
     (0x000E612800000001, [])].map readCtl =
    [some (.mLds ⟨0, false, true, ⟨10, 20, 30, 0x8000000000000004⟩⟩ 1 .wb3),
     some (.mMm ⟨1, true, false, ⟨10, 20, 30, 0x8000000000000004⟩⟩ 1),
     some (.mMmr ⟨0, true, true, ⟨10, 20, 30, 0x8000000000000004⟩⟩ 0 14 62 64),
     some (.mRelax ⟨1, false, false, ⟨10, 20, 30, 0x8000000000000004⟩⟩ 1 63 127),
     some (.mRelaxb ⟨0, false, true, ⟨10, 20, 30, 0x8000000000000004⟩⟩ 1),
     some (.mPwl ⟨1, false, false, ⟨10, 20, 30, 0x8000000000000004⟩⟩ 3),
     some (.mChain ⟨0, true, false, ⟨10, 20, 30, 0x8000000000000004⟩⟩ 0 7),
     some (.qWait ⟨5, true, false⟩ 4 ⟨10, 20, 30, 0x8000000000000004⟩), some (.qFence ⟨1, false, true⟩ 0x2A),
     some (.qSig ⟨3, true, true⟩), some (.qResume 4 none), some (.qResume 0 (some (.pop 1)))] := rfl

/-- Words from the field tables of R26, R29, R131, R134. -/
theorem test_decode_vector_arithmetic_1 :
    [(0x001021FA80280000, []), (0x001022F2C0400100, []), (0x001023EB009C0200, []), (0x001024E340EC0300, []),
     (0x001025DB81200400, []), (0x001026D001680500, []), (0x001027C801800600, []), (0x001028C441EC0700, []),
     (0x001029B800200800, []), (0x00102AB4C0640900, []), (0x0010450886200000, []),
     (0x0010450888640100, [])].map readVec =
    [some (.vadd ⟨.f32, 1, 31, 10, 0⟩), some (.vsub ⟨.i8, 2, 30, 11, 1⟩), some (.vmul ⟨.u64, 3, 29, 12, 2⟩),
     some (.vmin ⟨.f64, 4, 28, 13, 3⟩), some (.vmax ⟨.f16, 5, 27, 14, 4⟩), some (.vabs ⟨.f32, 6, 26, 5⟩),
     some (.vneg ⟨.i8, 7, 25, 6⟩), some (.vdiv ⟨.f64, 8, 24, 17, 7⟩), some (.vsqrt ⟨.f16, 9, 23, 0⟩),
     some (.vcsgn ⟨.bf16, 10, 22, 19, 1⟩), some (.vfma ⟨.f16, 5, 1, 2, 3, 0⟩),
     some (.vfms ⟨.bf16, 5, 1, 2, 4, 1⟩)] := rfl

/-- Words from the field tables of R26, R29, R131, R134. -/
theorem test_decode_vector_arithmetic_2 :
    [(0x001045088AA80200, []), (0x001045088CEC0300, [])].map readVec =
    [some (.vfnma ⟨.f32, 5, 1, 2, 5, 2⟩), some (.vfnms ⟨.f64, 5, 1, 2, 6, 3⟩)] := rfl

/-- Words from the field tables of R135 to R140. -/
theorem test_decode_vector_logic_1 :
    [(0x0010600880000000, []), (0x00106110C0440100, []), (0x0010621900880200, []), (0x0010632140CC0300, []),
     (0x0010642981100400, []), (0x0010646800CC0CFA, []), (0x00106531C1540500, []), (0x0010657000880DFB, []),
     (0x0010663A01980600, []), (0x0010667800440EFC, []), (0x0010674241DC0700, []),
     (0x0010678000000FFD, [])].map readVec =
    [some (.vand ⟨.i8, 0, 1, 2, 0⟩), some (.vor ⟨.i16, 1, 2, 3, 1⟩), some (.vxor ⟨.i32, 2, 3, 4, 2⟩),
     some (.vandn ⟨.i64, 3, 4, 5, 3⟩), some (.vshl ⟨.u8, 4, 5, 6, 4⟩), some (.vshlImmediate ⟨.i64, 4, 13, 250, 3⟩),
     some (.vshr ⟨.u16, 5, 6, 7, 5⟩), some (.vshrImmediate ⟨.i32, 5, 14, 251, 2⟩), some (.vsra ⟨.u32, 6, 7, 8, 6⟩),
     some (.vsraImmediate ⟨.i16, 6, 15, 252, 1⟩), some (.vrol ⟨.u64, 7, 8, 9, 7⟩),
     some (.vrolImmediate ⟨.i8, 7, 16, 253, 0⟩)] := rfl

/-- Words from the field tables of R135 to R140. -/
theorem test_decode_vector_logic_2 :
    [(0x001087A540000000, []), (0x001086A580540100, []), (0x001085A5C0A00200, []), (0x001084A600E40300, []),
     (0x001083A641280400, []), (0x001082A6816C0500, []), (0x001081A6C1A00600, []), (0x001080A701EC0700, []),
     (0x0012042800F40000, []), (0x0010AC1800301A00, []), (0x0010C110CF000000, []),
     (0x0010E110C9580000, [])].map readVec =
    [some (.vcmpEq ⟨.i8, 7, 20, 21, 0⟩), some (.vcmpNe ⟨.u16, 6, 20, 22, 1⟩), some (.vcmpLt ⟨.f16, 5, 20, 23, 2⟩),
     some (.vcmpLe ⟨.bf16, 4, 20, 24, 3⟩), some (.vcmpGt ⟨.f32, 3, 20, 25, 4⟩), some (.vcmpGe ⟨.f64, 2, 20, 26, 5⟩),
     some (.vcmpUn ⟨.f16, 1, 20, 27, 6⟩), some (.vcmpOrd ⟨.f64, 0, 20, 28, 7⟩), some (.vclass ⟨.e5m2, 4, 5, 3⟩),
     some (.vcvt ⟨.e4m3, 12, 3, 0⟩ .f32 true), some (.vsel 1 2 3 7 4), some (.vclamp ⟨.u32, 1, 2, 3, 4, 5⟩)] := rfl

/-- Words from the field tables of R135 to R140. -/
theorem test_decode_vector_logic_3 :
    [(0x00110110FD640000, [])].map readVec =
    [some (.vpwl ⟨.bf16, 1, 2, 3, 30, 5⟩)] := rfl

/-- Words from the field tables of R141 to R146. -/
theorem test_decode_vector_moves_and_masks_1 :
    [(0x00112110C1000000, []), (0x0011411000C0003F, []), (0x0011611000C00005, []), (0x0011615800C00100, []),
     (0x0011617000000100, []), (0x0011890000980000, []), (0x0012284800400000, []), (0x0011B490012C0000, []),
     (0x0011D598002C0000, []), (0x0011B49001200100, []), (0x0011D59800600100, []),
     (0x0011B490010C0200, [])].map readVec =
    [some (.vperm 1 2 3 4), some (.vrot 1 2 63 3), some (.vbcast 1 2 5 3), some (.vbcastScalar 1 (.areg 11) 3),
     some (.vbcastScalar 1 (.aq 2) 0), some (.viota .u32 9 2), some (.vmov 8 9 1),
     some (.vfoldAdd ⟨.f64, 20, 18, 4⟩), some (.vscanAdd ⟨.f64, 21, 19, 0⟩), some (.vfoldMin ⟨.f16, 20, 18, 4⟩),
     some (.vscanMin ⟨.f16, 21, 19, 1⟩), some (.vfoldMax ⟨.i64, 20, 18, 4⟩)] := rfl

/-- Words from the field tables of R141 to R146. -/
theorem test_decode_vector_moves_and_masks_2 :
    [(0x0011D598008C0200, []), (0x0011B49001100300, []), (0x0011D59800D00300, []), (0x0011B49001140400, []),
     (0x0011D59801140400, []), (0x0011B490011C0500, []), (0x0011D598015C0500, []), (0x0011E8180000000B, []),
     (0x00130121C0000000, []), (0x0013022980000100, []), (0x0013033140000200, []),
     (0x0013011000000300, [])].map readVec =
    [some (.vscanMax ⟨.i64, 21, 19, 2⟩), some (.vfoldAnd ⟨.u8, 20, 18, 4⟩), some (.vscanAnd ⟨.u8, 21, 19, 3⟩),
     some (.vfoldOr ⟨.u16, 20, 18, 4⟩), some (.vscanOr ⟨.u16, 21, 19, 4⟩), some (.vfoldXor ⟨.u64, 20, 18, 4⟩),
     some (.vscanXor ⟨.u64, 21, 19, 5⟩), some (.vpart 8 3 11), some (.kand 1 4 7), some (.kor 2 5 6),
     some (.kxor 3 6 5), some (.knot 1 2)] := rfl

/-- Words from the field tables of R141 to R146. -/
theorem test_decode_vector_moves_and_masks_3 :
    [(0x0013032000000400, []), (0x0013050000000540, []), (0x0013052000000600, []), (0x0013067800000600, []),
     (0x0013200801C00000, [])].map readVec =
    [some (.kmov 3 4), some (.kset 5 64), some (.ksetRegister 5 (.areg 4)), some (.ksetRegister 6 (.aq 3)),
     some (.vflag 1 7)] := rfl

/-- Words from the field tables of R147, R152 to R155. -/
theorem test_decode_vector_memory_1 :
    [(0x0014041542000100, []), (0x001404F583FFFF00, []), (0x0014273124000080, []), (0x00144A2B668FFFFF, []),
     (0x00146A2A03F00005, []), (0x001481610C000000, []), (0x001480C28A000008, []), (0x00148002A0000008, []),
     (0x0014A30400000001, []), (0x0014C00160000000, []), (0x0014C11342300008, []),
     (0x0014FE13443FFFF8, [])].map readVec =
    [some (.vld .f32 4 (.loc (.areg 1) 256) 2), some (.vld .e4m3 4 (.loc (.aq 3) (-256)) 2),
     some (.vst .bf16 7 (.postInc 3 128) 0), some (.vldx .f64 10 (.preInc 2 (-1)) 8 5),
     some (.vstx .i8 10 (.loc (.areg 2) 5) 31 5), some (.vldq .f16 1 (.zue (.areg 6) 0) 0),
     some (.vldq .u8 0 (.group (.aq 0) 8) 1), some (.vldq .u16 0 (.plain (.areg 0) 8) 1), some (.vpop 3 1 2),
     some (.vamoSwap ⟨.f64, 0, 0, .plain (.areg 0) 0, 0⟩), some (.vamoAdd ⟨.f32, 1, 1, .loc (.areg 1) 8, 1⟩),
     some (.vredmAdd ⟨.f32, 30, .postInc 1 (-8), 1⟩)] := rfl

/-- Words from the field tables of R147, R152 to R155. -/
theorem test_decode_vector_memory_2 :
    [(0x0014C22520400010, []), (0x0014FD25265FFFF8, []), (0x0014C33602700018, []), (0x0014FC36027FFFF8, []),
     (0x0014C44820800020, []), (0x0014FB48249FFFF8, []), (0x0014C55A42B00028, []), (0x0014FA5A46BFFFF8, []),
     (0x0014C66C60C00030, []), (0x0014F96C62DFFFF8, [])].map readVec =
    [some (.vamoMin ⟨.bf16, 0, 2, .plain (.areg 2) 16, 2⟩), some (.vredmMin ⟨.bf16, 29, .preInc 2 (-8), 2⟩),
     some (.vamoMax ⟨.i8, 1, 3, .loc (.areg 3) 24, 3⟩), some (.vredmMax ⟨.i8, 28, .loc (.areg 3) (-8), 3⟩),
     some (.vamoAnd ⟨.i16, 0, 4, .plain (.areg 4) 32, 4⟩), some (.vredmAnd ⟨.i16, 27, .postInc 4 (-8), 4⟩),
     some (.vamoOr ⟨.i32, 1, 5, .loc (.areg 5) 40, 5⟩), some (.vredmOr ⟨.i32, 26, .preInc 5 (-8), 5⟩),
     some (.vamoXor ⟨.i64, 0, 6, .plain (.areg 6) 48, 6⟩),
     some (.vredmXor ⟨.i64, 25, .loc (.areg 6) (-8), 6⟩)] := rfl

/-- Words from the field tables of R156 to R161. -/
theorem test_decode_vector_control_1 :
    [(0x00160240FFFFFFFC, []), (0x0016038100000004, []), (0x001606820000003F, []), (0x001607E300000000, []),
     (0x001606840000000B, []), (0x00160AA500000004, []), (0x00162A0000000040, []), (0x001657C000000000, []),
     (0x0016606200000009, []), (0x0016600700000000, []), (0x00168000FFFFFFFD, []),
     (0x0016820100000005, [])].map readVec =
    [some (.aadd 1 (.areg 2) (-4)), some (.asub 1 (.aq 0) 4), some (.ashl 3 (.areg 4) 63), some (.amov 3 (.aq 3)),
     some (.aaddRegister 3 (.areg 4) 11), some (.asubRegister 5 (.areg 5) 4), some (.ali 5 64), some (.apop 11 2),
     some (.loop 2 (.areg 3) 9), some (.loopOff 3), some (.vbr (-3)), some (.vbrZ 1 5)] := rfl

/-- Words from the field tables of R156 to R161. -/
theorem test_decode_vector_control_2 :
    [(0x0016840200000006, []), (0x0016860300000007, []), (0x0016960400000008, []), (0x001680E500000009, []),
     (0x001680C60000000A, []), (0x0016C00000000000, []), (0x0016E00100000000, []), (0x0016E00200000000, []),
     (0x0010000000000000, [])].map readVec =
    [some (.vbrNz 2 6), some (.vbrNeg 3 7), some (.vbrNneg 11 8), some (.vbrKany 7 9), some (.vbrKnone 6 10),
     some (.vend), some (.vlend .vb3), some (.vreclaim .vb2), some (.vnop)] := rfl

/-- Words that the spec prints, from the program listings of files 04 to 20. -/
theorem test_decode_printed_control_words_1 :
    [(0x000804E0D0000000, []), (0x000A981A00000000, []), (0x000880168004000B, []), (0x0009F49200000000, []),
     (0x000A201200000000, []), (0x0009C01C78000043, []), (0x0002702AD0038000, []), (0x0008402CC0000000, []),
     (0x0004C00C00000004, []), (0x0004400000000000, []), (0x000C200003200000, [0, 0, 0, 0]),
     (0x000D080001000004, [0, 0, 0, 0])].map readCtl =
    [some (.ld 9 (.handle 8 0) .d .plain), some (.gsee 8 (.reg 13) (.reg 0) 0 0 0),
     some (.redAdd ⟨.reg 11, .reg 16, .d, .sync⟩), some (.tclaim 1 (.reg 9) 0 0), some (.tclose (.reg 9) 0),
     some (.tring (.reg 14) (.reg 15) 3 1 0), some (.lea ⟨.aq 0, .reg 21, .reg 26⟩ 7 0),
     some (.ldq 0 (.plain 22 0) .d .plain), some (.wait 4 (.reg 6)), some (.uret),
     some (.cGath ⟨0, 1, false, true, ⟨0, 0, 0, 0⟩, none⟩),
     some (.mLds ⟨0, false, false, ⟨0, 0, 0, 0⟩⟩ 0 .f32)] := rfl

/-- Words that the spec prints, from the program listings of files 04 to 20. -/
theorem test_decode_printed_control_words_2 :
    [(0x000D680001201000, [0, 0, 0, 0]), (0x000D880001000184, [0, 0, 0, 0])].map readCtl =
    [some (.mMmr ⟨0, false, true, ⟨0, 0, 0, 0⟩⟩ 0 0 0 2),
     some (.mRelax ⟨0, false, false, ⟨0, 0, 0, 0⟩⟩ 0 2 3)] := rfl

/-- Words that the spec prints, from the program listings of files 07 to 15. -/
theorem test_decode_printed_vector_words_1 :
    [(0x0010210000280000, []), (0x0010450886280000, []), (0x0010822180680200, []), (0x0014041542000100, []),
     (0x00144A1B42800000, []), (0x0011E81800000004, []), (0x0113052000000600, []), (0x00162A0000000040, []),
     (0x00160AA500000004, []), (0x0011646000000100, []), (0x0011AA48002C0000, []),
     (0x0016608000000007, [])].map readVec =
    [some (.vadd ⟨.f32, 1, 0, 0, 0⟩), some (.vfma ⟨.f32, 5, 1, 2, 3, 0⟩), some (.vcmpLt ⟨.f32, 2, 4, 6, 1⟩),
     some (.vld .f32 4 (.loc (.areg 1) 256) 2), some (.vldx .f32 10 (.loc (.areg 1) 0) 8 5), some (.vpart 8 3 4),
     some (.ksetRegister 5 (.areg 4)), some (.ali 5 64), some (.asubRegister 5 (.areg 5) 4),
     some (.vbcastScalar 4 (.aq 0) 0), some (.vfoldAdd ⟨.f64, 10, 9, 0⟩), some (.loop 0 (.areg 4) 7)] := rfl

/-- Words that the spec prints, from the program listings of files 07 to 15. -/
theorem test_decode_printed_vector_words_2 :
    [(0x0013010000000501, []), (0x001480C10C000000, [])].map readVec =
    [some (.kset 1 1), some (.vldq .f16 0 (.zue (.aq 0) 0) 0)] := rfl

/-! ## Terms that are refused -/

/-- Three registers of a type. -/
def vvvA (ty : Ty) : Vvv := { ty := ty, d := 1, a := 2, b := 3, k := 0 }
/-- Two registers of a type. -/
def vvA (ty : Ty) : Vv := { ty := ty, d := 1, a := 2, k := 0 }
/-- Four registers of a type. -/
def vvvvA (ty : Ty) : Vvvv := { ty := ty, d := 1, a := 2, b := 3, c := 4, k := 0 }
/-- An atomic of a size. -/
def amoA (sz : Sz) : Amo := { q := 0, a := .reg 1, b := .reg 2, sz := sz, ord := .plain }
/-- A reduction of a size. -/
def redA (sz : Sz) : Red := { a := .reg 1, b := .reg 2, sz := sz, ord := .plain }
/-- A mill unit. -/
def millU : MillWord := { q := 0, i := false, w := true, p := { p0 := 0, p1 := 0, p2 := 0, p3 := 0 } }
/-- A carter unit with a follow-on or without. -/
def carterU (h : Fin 16) (f : Option MillCmd) : CarterWord :=
  { q := 0, h := h, i := false, w := true, p := { p0 := 0, p1 := 0, p2 := 0, p3 := 0 }, follow := f.map fun c => { word := millU, cmd := c } }
/-- R38, R64, R82, R157, R261: scalar terms that no word holds. -/
theorem test_wf_refuses_scalar :
    [Instr.shlImmediate { d := .reg 1, a := .reg 2, imm := 64 }, .shrImmediate { d := .reg 1, a := .reg 2, imm := 100 }
    , .sraImmediate { d := .reg 1, a := .reg 2, imm := -1 }, .ld 5 (.postInc 5 8) .d .plain, .ld 5 (.preInc 5 8) .d .plain
    , .amoFadd (amoA .b), .amoBfmin (amoA .w), .redFmax (redA .b), .redBfadd (redA .d), .tnew 3 (some 3) (.reg 1) (.reg 2)
    , .spawn (.reg 1) 0, .spawn (.reg 1) 29, .loop 0 (.areg 1) 0, .loop 0 (.areg 1) (-1)].map Instr.wf = List.replicate 14 false := by decide
/-- R328, R329: engine terms that no unit holds. -/
theorem test_wf_refuses_engine :
    [Instr.cPut (carterU 0 (some (.pwl 0))), .cPin (carterU 1 none), .cPinOff (carterU 0 (some (.pwl 0))), .cCopy (carterU 0 (some (.lds 0 .raw)))
    , .cFill (carterU 0 (some (.mmr 0 0 0 0))) false, .cRedAdd (carterU 0 (some (.lds 1 .i32))) .h, .cRedFadd (carterU 0 none) .b
    , .cRedBfmax (carterU 0 none) .w, .mLds millU 0 .raw, .mLds millU 0 .i32, .mMmr millU 0 0 0 0, .mMmr millU 0 0 0 65].map Instr.wf
      = List.replicate 12 false := by decide
/-- R130: vector terms of a type that their words do not take. -/
theorem test_wf_refuses_vector :
    [Instr.vadd (vvvA .e4m3), .vdiv (vvvA .i32), .vabs (vvA .e4m3), .vsqrt (vvA .u8), .vclass (vvA .i8), .vfma (vvvvA .i32), .vclamp (vvvvA .e5m2)
    , .vpwl { vvvvA .f32 with c := 5 }, .vpwl (vvvvA .i32), .vand (vvvA .f32), .vshlImmediate { ty := .f16, d := 1, a := 2, n := 3, k := 0 }
    , .vcmpEq { ty := .e4m3, d := 1, a := 2, b := 3, k := 0 }, .vcmpUn { ty := .i32, d := 1, a := 2, b := 3, k := 0 }, .viota .f32 1 0
    , .vfoldAdd (vvA .e5m2), .vscanXor (vvA .f64), .vpart 3 0 0, .vamoSwap { ty := .e4m3, q := 0, s := 1, addr := .plain (.areg 1) 0, k := 0 }
    , .vamoXor { ty := .f32, q := 0, s := 1, addr := .plain (.areg 1) 0, k := 0 }, .vredmMin { ty := .e4m3, s := 1, addr := .loc (.areg 1) 0, k := 0 }
    , .vredmOr { ty := .f64, s := 1, addr := .loc (.areg 1) 0, k := 0 }].map Instr.wf = List.replicate 21 false := by decide
/-- Events have no encoding. -/
theorem test_wf_refuses_events : [Instr.freezeEnd 0, .coldStart 0, .fenceTokenForward 0].map Instr.wf = List.replicate 3 false := by decide

/-! ## Small states -/

/-- The state after reset with core 0 changed. -/
def with0 (f : Core → Core) : State := { State.reset with cores := [(0, f .reset)] }
/-- Core 0 with another control stream. -/
def ctl0 (f : Ctl → Ctl) : State := with0 fun x => { x with ctl := f x.ctl }
/-- Core 0 with another vector stream. -/
def vec0 (f : Vec → Vec) : State := with0 fun x => { x with vec := f x.vec }
/-- Core 0 with s1 = a and s2 = b. -/
def regs (a b : Word) : State := ctl0 fun c => { c with s := (c.s.set 1 a).set 2 b }
/-- `d = s3, a = s1, b = s2`. -/
def r312 : Rrr := { d := .reg 3, a := .reg 1, b := .reg 2 }
/-- A core whose frames stand at offset `b`. -/
def framesAt (b : Word) : State := with0 fun x => { x with csr := { x.csr with kframe := b, uframe := b } }
/-- A queue of `n` chains. -/
def chains (n : Nat) : EQueue := { entries := List.replicate n (.chain 0 0 false 0 0 none none 0), run := none, since := none }

/-! ## One step or one word on a small state -/

/-- The value of register `r` after a word, where it issues. -/
def regAfter (r : Fin 32) (o : Out) : Option Word :=
  match o with
  | .next t => if t.me.ctl.offer = .issued then some t.me.ctl.s[r] else none
  | _ => none
/-- R63: sums wrap at 64 bits. -/
theorem test_add_wraps : regAfter 3 (exec (.add r312) (regs (-1) 2)) = some 1 := by decide
/-- R63: the second source is subtracted from the first. -/
theorem test_sub_order : regAfter 3 (exec (.sub r312) (regs 5 7)) = some (-2) := by decide
/-- R63: a comparison of signed and of unsigned words. -/
theorem test_slt_signed : regAfter 3 (exec (.slt r312) (regs (-1) 2)) = some 1 ∧ regAfter 3 (exec (.sltu r312) (regs (-1) 2)) = some 0 := by decide
/-- R66: the most negative number divided by -1 gives itself. -/
theorem test_div_overflow : regAfter 3 (exec (.div r312) (regs 0x8000_0000_0000_0000 (-1))) = some 0x8000_0000_0000_0000 := by decide
/-- R66: division by 0. -/
theorem test_div_by_zero : regAfter 3 (exec (.div r312) (regs 5 0)) = some (-1) ∧ regAfter 3 (exec (.rem r312) (regs 5 0)) = some 5 := by decide
/-- R65: the upper half of a signed product. -/
theorem test_mulh_signed : regAfter 3 (exec (.mulh r312) (regs (-1) 2)) = some (-1) ∧ regAfter 3 (exec (.mulhu r312) (regs (-1) 2)) = some 1 := by decide
/-- R67: a byte swap. -/
theorem test_bswap : regAfter 3 (exec (.bswap (.reg 3) (.reg 1)) (regs 0x0102_0304_0506_0708 0)) = some 0x0807_0605_0403_0201 := by decide
/-- R63: the shift amount is b[5:0], and sign copies come in. -/
theorem test_shift_amount : regAfter 3 (exec (.sra r312) (regs 0x8000_0000_0000_0000 127)) = some (-1) := by decide
/-- R77: a word fetched by a step: `li s5, 100`. -/
theorem test_step_li :
    (match step (State.reset.withFetchWord 64 0x0002_2280_0000_0064) with
      | .next t => (t.core 0).ctl.s[(5 : Fin 32)]
      | _ => 0) = 100 := by rfl
/-- R161: a step that runs `vnop` of the vector stream. -/
theorem test_step_vnop :
    (match step (State.reset.withFetchWord 64 0x0010_0000_0000_0000) with
      | .next t => (t.core 0).vec.offer == .issued && (t.core 0).vec.pc == (State.reset.core 0).vec.pc + 8
      | _ => false) = true := by rfl

/-! ## Witnesses of the statements -/

theorem witness_AluWords :
    (∃ (s : State) (o : Rrr) (y : Core), s.me.awaitDst o.d = .ok () ∧ s.me.src2 o.a o.b = .ok (5, -7, y)) ∧
    (∃ (s : State) (o : Rrr) (r : Fin 32) (y : Core), s.me.awaitDst o.d = .ok () ∧
      s.me.srcs [o.a, o.b, .reg r] = .ok ([5, -7, 0], y)) ∧
    (∃ (s : State) (o : Rri) (y : Core), s.me.awaitDst o.d = .ok () ∧ s.me.src1 o.a = .ok (5, y)) :=
  ⟨⟨regs 5 (-7), r312, _, rfl, rfl⟩, ⟨regs 5 (-7), r312, 0, _, rfl, rfl⟩,
    ⟨regs 5 0, { d := .reg 3, a := .reg 1, imm := -1 }, _, rfl, rfl⟩⟩
theorem witness_MultiplyAndDivide :
    (∃ (s : State) (y : Core), s.me.awaitDst r312.d = .ok () ∧ s.me.src2 r312.a r312.b = .ok (-7, 0, y) ∧ s.me.ctl.div = 0) ∧
    (∃ (s : State) (y : Core), s.me.awaitDst r312.d = .ok () ∧ s.me.src2 r312.a r312.b = .ok (0, 0, y) ∧ s.me.ctl.div ≠ 0) :=
  ⟨⟨regs (-7) 0, _, rfl, rfl, rfl⟩, ⟨ctl0 fun c => { c with div := 1 }, _, rfl, rfl, by decide⟩⟩
theorem witness_BitAndConstantWords :
    (∃ (s : State) (y : Core), s.me.awaitDst (.reg 3) = .ok () ∧ s.me.src1 (.reg 1) = .ok (5, y) ∧
      s.me.src2 (.reg 1) (.reg 3) = .ok (5, 0, y) ∧ s.me.src1 (.reg 3) = .ok (0, y)) ∧
    (∃ (s : State) (y : Core), s.me.src2 (.reg 1) (.reg 2) = .ok (0x20_0000, 0, y) ∧ s.me.awaitDst (.reg 3) = .ok ()) ∧
    (∃ (s : State) (y : Core), s.me.src2 (.reg 1) (.reg 2) = .ok (0x1F_FFFF, 0, y) ∧ s.me.csr.ncores.toNat ≤ (0 : Word).toNat) ∧
    (∃ (s : State) (y : Core), s.me.src2 (.reg 1) (.reg 2) = .ok (0x1F_FFFF, 0, y) ∧ (0 : Word).toNat < s.me.csr.ncores.toNat) :=
  ⟨⟨regs 5 0, _, rfl, rfl, rfl, rfl⟩, ⟨regs 0x20_0000 0, _, rfl, rfl⟩, ⟨regs 0x1F_FFFF 0, _, rfl, by decide⟩,
    ⟨with0 fun x => { x with ctl := { x.ctl with s := x.ctl.s.set 1 0x1F_FFFF }, csr := { x.csr with ncores := 1 } }, _, rfl, by decide⟩⟩
theorem witness_ControlTransfers :
    (∃ (s : State) (o : Bcc) (y : Core), s.me.src2 o.a o.b = .ok (5, -7, y) ∧
      (s.me.ctl.pc + BitVec.ofInt 64 (8 * o.disp.toInt)).toNat % 8 = 0) ∧
    (∃ (s : State) (y : Core), s.me.src1 (.reg 1) = .ok (8, y)) ∧ (∃ (s : State) (y : Core), s.me.src1 (.reg 1) = .ok (9, y)) :=
  ⟨⟨regs 5 (-7), { a := .reg 1, b := .reg 2, disp := -1 }, _, rfl, by decide⟩, ⟨regs 8 0, _, rfl⟩, ⟨regs 9 0, _, rfl⟩⟩
theorem witness_VectorStartAndJoin :
    (∃ s : State, s.me.vec.run = .held ∧ s.me.ctl.kernel = false) ∧
    (∃ s : State, s.me.vec.run = .stopped ∧ s.me.vec.offer ≠ .issued ∧ s.me.vec.pend = []) ∧
    (∃ s : State, s.me.vec.run = .held ∧ s.me.ctl.kernel = true ∧ s.me.vec.offer ≠ .issued ∧ s.me.vec.pend = []) ∧
    (∃ s : State, s.me.vec.run = .running) ∧ (∃ s : State, s.me.vec.run = .kernelRun) ∧
    (∃ s : State, s.me.vec.run = .stopped ∧ s.me.vec.pend ≠ []) :=
  ⟨⟨vec0 fun v => { v with run := .held }, rfl, rfl⟩, ⟨State.reset, rfl, by decide, rfl⟩,
    ⟨with0 fun x => { x with ctl := { x.ctl with kernel := true }, vec := { x.vec with run := .held } }, rfl, rfl, by decide, rfl⟩,
    ⟨vec0 fun v => { v with run := .running }, rfl⟩, ⟨vec0 fun v => { v with run := .kernelRun }, rfl⟩,
    ⟨with0 fun x => x.pend (x.blank .v 0 2 .u64), rfl, by decide⟩⟩
/-- Core 0 with a fill handle in h15. -/
def filled : State := ctl0 fun c => { c with h := c.h.set 15 (.fill { core := 0, tile := 0, gen := 0 }) }
theorem no_handles : ∀ i : Fin 16, State.reset.me.ctl.h[i] = .null := by decide
theorem filled_below : ∀ i : Fin 16, i < 15 → filled.me.ctl.h[i] = .null := by decide
theorem witness_HaltAndTraps :
    (∃ s : State, (s.me.vec.run = .stopped ∧ s.me.vec.offer ≠ .issued ∧ s.me.vec.pend = []) ∧
      (∀ q : Fin 6, (s.me.csr.seq[q] - s.me.lastPush[q]).toNat < 2 ^ 31) ∧ ∀ i : Fin 16, ∀ t, s.me.ctl.h[i] ≠ .fill t) ∧
    (∃ (s : State) (i : Fin 16), (s.me.vec.run = .stopped ∧ s.me.vec.offer ≠ .issued ∧ s.me.vec.pend = []) ∧
      (∀ q : Fin 6, (s.me.csr.seq[q] - s.me.lastPush[q]).toNat < 2 ^ 31) ∧ (∃ t, s.me.ctl.h[i] = .fill t) ∧
      ∀ j < i, ∀ t, s.me.ctl.h[j] ≠ .fill t) ∧
    (∃ s : State, s.me.vec.run = .running) ∧ (∃ s : State, ∃ q : Fin 6, ¬ (s.me.csr.seq[q] - s.me.lastPush[q]).toNat < 2 ^ 31) :=
  ⟨⟨State.reset, ⟨rfl, by decide, rfl⟩, by decide, fun i _ h => by rw [no_handles i] at h; cases h⟩,
    ⟨filled, 15, ⟨rfl, by decide, rfl⟩, by decide, ⟨_, rfl⟩, fun j hj _ h => by rw [filled_below j hj] at h; cases h⟩,
    ⟨vec0 fun v => { v with run := .running }, rfl⟩, ⟨with0 fun x => { x with lastPush := x.lastPush.set 5 1 }, 5, by decide⟩⟩
theorem witness_Delegation :
    (∃ (s : State) (e : Event), e.trap.cause.delegable = true ∧ (s.core 0).csr.udeleg.getLsbD e.trap.cause.code = true ∧
      (s.core 0).ctl.kernel = false ∧ (s.core 0).csr.uie.getLsbD 1 = false) ∧
    (∃ e : Event, e.trap.cause.delegable = false) ∧
    (∃ s : State, (s.core 0).csr.udeleg.getLsbD 27 = false) ∧ (∃ s : State, (s.core 0).ctl.kernel = true) ∧
    (∃ s : State, (s.core 0).csr.uie.getLsbD 1 = true) :=
  ⟨⟨with0 fun x => { x with csr := { x.csr with udeleg := 0x0800_0000 } }, .sync { cause := .swt, info := 0 } false,
    rfl, by decide, rfl, by decide⟩, ⟨.sync { cause := .priv, info := 0 } false, rfl⟩, ⟨State.reset, by decide⟩,
    ⟨ctl0 fun c => { c with kernel := true }, rfl⟩, ⟨with0 fun x => { x with csr := { x.csr with uie := 2 } }, by decide⟩⟩
theorem witness_KernelEntry :
    (∃ s : State, (s.core 0).csr.kframe.toNat / 64 % 2 ^ 15 * 64 + 20480 = 0x1F_FFC0 ∧ (s.core 0).ctl.loads = []) ∧
    (∃ s : State, 0x1F_FFC0 < (s.core 0).csr.kframe.toNat / 64 % 2 ^ 15 * 64 + 20480) :=
  ⟨⟨framesAt 0x1F_AFC0, by decide, rfl⟩, ⟨framesAt 0x1F_B000, by decide⟩⟩
theorem witness_UserInterruptEntry :
    (∃ s : State, (s.core 0).csr.uframe.toNat / 64 % 2 ^ 15 * 64 + 20480 = 0x1F_FFC0 ∧ (s.core 0).ctl.loads = []) ∧
    (∃ s : State, 0x1F_FFC0 < (s.core 0).csr.uframe.toNat / 64 % 2 ^ 15 * 64 + 20480) :=
  ⟨⟨framesAt 0x1F_AFC0, by decide, rfl⟩, ⟨framesAt 0x1F_B000, by decide⟩⟩
/-- A frame of zeros but for the lowest byte of its CPC and its CAUSE. -/
def frameOf (pc cause : Byte) (n : Nat) : List Byte := (pc :: List.replicate 31 0) ++ cause :: List.replicate n 0
theorem frameOf_length (p c : Byte) (n : Nat) : (frameOf p c n).length = n + 33 := by
  simp only [frameOf, List.length_append, List.length_cons, List.length_replicate]; omega
theorem at_frame (p c : Byte) (m off n : Nat) (h : 33 ≤ off) (hn : off + n ≤ m + 33) :
    ((frameOf p c m).drop off).take n = List.replicate n 0 := by
  obtain ⟨k, rfl⟩ := Nat.exists_eq_add_of_le h
  apply List.ext_getElem
  · simp only [List.length_take, List.length_drop, frameOf_length, List.length_replicate]; omega
  · intro i h1 h2
    simp only [List.getElem_take, List.getElem_drop, frameOf, List.getElem_replicate]
    rw [List.getElem_append_right (by simp only [List.length_cons, List.length_replicate]; omega), List.getElem_cons]
    rw [dif_neg (by simp only [List.length_cons, List.length_replicate]; omega)]
    exact List.getElem_replicate ..
theorem entry_zeros : (FrameEntry.parse (List.replicate 576 0)).isSome = true := by
  set_option maxRecDepth 4000 in decide
theorem level_zeros : (Level.parse (List.replicate 32 0)).isSome = true := by
  decide
theorem at_zero (p c : Byte) (m off n : Nat) (h : 33 ≤ off) (hn : off + n ≤ m + 33) : at_ (frameOf p c m) off n = 0 := by
  rw [at_, at_frame p c m off n h hn]
  induction n with
  | zero => rfl
  | succ n ih => rw [List.replicate_succ, leNat, ih (by omega)]; rfl
theorem at_head (p : Byte) (l : List Byte) (off n : Nat) (h : off + 1 + n ≤ 32) :
    at_ ((p :: List.replicate 31 0) ++ l) (off + 1) n = 0 := by
  rw [at_, List.drop_append_of_le_length (by simp only [List.length_cons, List.length_replicate]; omega), List.drop_succ_cons,
    List.drop_replicate, List.take_append_of_le_length (by simp only [List.length_replicate]; omega), List.take_replicate]
  generalize min n (31 - off) = m
  induction m with
  | zero => rfl
  | succ n ih => rw [List.replicate_succ, leNat, ih]; rfl
theorem at_pc (p c : Byte) (n : Nat) : at_ (frameOf p c n) 0 8 = p.toNat := by
  simp [at_, frameOf, leNat, List.replicate]
theorem at_cause (p c : Byte) (n : Nat) : at_ (frameOf p c (n + 7)) 0x20 8 = c.toNat := by
  rw [at_, frameOf, List.drop_append, List.drop_succ_cons, List.drop_replicate, List.length_cons, List.length_replicate]
  simp [leNat, List.replicate]
theorem filterMap_some {α β : Type} (f : α → Option β) (b : β) (l : List α) (h : ∀ x ∈ l, f x = some b) :
    l.filterMap f = List.replicate l.length b := by
  induction l with
  | nil => rfl
  | cons a l ih => rw [List.filterMap_cons_some (h a (by simp)), ih (fun x hx => h x (by simp [hx]))]; rfl
theorem frame_parses (p c : Byte) : ∃ f, Frame.parse (frameOf p c 20447) = some f ∧ f.cpc = BitVec.ofNat 64 p.toNat ∧
    f.cause = BitVec.ofNat 64 c.toNat ∧ ∃ l, f.loops[0]? = some l := by
  obtain ⟨e, he⟩ := Option.isSome_iff_exists.mp entry_zeros
  obtain ⟨l, hl⟩ := Option.isSome_iff_exists.mp level_zeros
  have h0 : at_ (frameOf p c 20447) 0 8 = p.toNat := at_pc p c _
  have h1 : at_ (frameOf p c 20447) 0x10 8 = 0 := at_head _ _ 15 _ (by omega)
  have h2 : at_ (frameOf p c 20447) 0x18 8 = 0 := at_head _ _ 23 _ (by omega)
  have h3 : at_ (frameOf p c 20447) 0x20 8 = c.toNat := at_cause p c 20440
  have z : ∀ off n, 33 ≤ off → off + n ≤ 20480 → at_ (frameOf p c 20447) off n = 0 := fun off n h h' => at_zero p c _ off n h h'
  have hL : ((upto 4).filterMap fun i => Level.parse (((frameOf p c 20447).drop (0x50 + 32 * i)).take 32)) = List.replicate 4 l := by
    refine filterMap_some _ _ _ fun i hi => ?_
    have : i < 4 := by revert i; decide
    rw [at_frame _ _ _ _ _ (by omega) (by omega), hl]
  have hE : ((upto 32).filterMap fun i => FrameEntry.parse (((frameOf p c 20447).drop (0x800 + 576 * i)).take 576)) = List.replicate 32 e := by
    refine filterMap_some _ _ _ fun i hi => ?_
    have : i < 32 := by revert i; decide
    rw [at_frame _ _ _ _ _ (by omega) (by omega), he]
  have hA : (((frameOf p c 20447).drop 0xD8).take (0x800 - 0xD8)).any (· != 0) = false := by
    rw [at_frame _ _ _ _ _ (by omega) (by omega), List.any_eq_false]
    intro x hx; rw [List.eq_of_mem_replicate hx]; decide
  have hc : c.toNat < 256 := c.isLt
  unfold Frame.parse
  simp only [hL, hE, h1, h2, h3, hA, z 0x30 8 (by omega) (by omega), z 0x38 8 (by omega) (by omega), z 0xD0 8 (by omega) (by omega), z 0x40 8 (by omega) (by omega), z 0x48 8 (by omega) (by omega)]
  rw [if_neg (by simp [hasBit]; omega)]
  exact ⟨_, rfl, congrArg (BitVec.ofNat 64) h0, congrArg (BitVec.ofNat 64) h3, _, rfl⟩
/-- Core 0 with its frame address at `b`, a frame written at offset 0, and another change. -/
def framed (pc cause : Byte) (f : Core → Core) : State := (with0 f).write (spadKey 0 0) (frameOf pc cause 20447)
theorem framed_frame (p c : Byte) (f : Core → Core) (hf : (f .reset).ctl.stores = []) : ∃ g, (framed p c f).frameAt 0 0 = some g ∧
    g.cpc = BitVec.ofNat 64 p.toNat ∧ g.cause = BitVec.ofNat 64 c.toNat ∧ ∃ l, g.loops[0]? = some l := by
  obtain ⟨g, h, h1, h2, h3⟩ := frame_parses p c
  refine ⟨g, ?_, h1, h2, h3⟩
  have : (framed p c f).localBytes 0 0 frameSize = frameOf p c 20447 := by
    have := State.readBytes_write (with0 f) (spadKey 0 0) (frameOf p c 20447)
    rw [frameOf_length] at this
    simp only [Nat.reduceAdd] at this
    have e : (framed p c f).core 0 = f .reset := rfl
    rw [State.localBytes, frameSize, e, hf, List.foldl_nil]; exact this
  rw [State.frameAt, this, h]
theorem framed_me (p c : Byte) (f : Core → Core) : (framed p c f).me = f .reset := rfl
/-- A core in kernel mode whose newest frame is at offset 0. -/
def inHandler (x : Core) : Core := { x with csr := { x.csr with kframe := 20480, uie := 2, preempt := 5 }, ctl := { x.ctl with kernel := true } }
theorem witness_ReturnsFromHandlers :
    (∃ s : State, s.me.csr.uie.getLsbD 1 = false) ∧
    (∃ s : State, 0x1F_FFC0 < s.me.csr.uframe.toNat / 64 % 2 ^ 15 * 64 + 20480) ∧
    (∀ pc : Byte, ∃ (s : State) (f : Frame), s.me.csr.uie.getLsbD 1 = true ∧
      s.me.csr.uframe.toNat / 64 % 2 ^ 15 * 64 + 20480 ≤ 0x1F_FFC0 ∧
      s.frameAt s.cur (s.me.csr.uframe.toNat / 64 % 2 ^ 15 * 64) = some f ∧ f.cpc = BitVec.ofNat 64 pc.toNat ∧
      ∃ l, f.loops[0]? = some l) ∧
    (∃ s : State, s.me.ctl.kernel = false) ∧
    (∃ s : State, s.me.ctl.kernel = true ∧ s.me.vec.run = .kernelRun) ∧
    (∃ s : State, s.me.ctl.kernel = true ∧ s.me.vec.run = .held ∧ s.me.vec.pend ≠ []) ∧
    (∃ s : State, (s.me.ctl.kernel = true ∧ s.me.vec.run ≠ .kernelRun ∧ (s.me.vec.run = .held → s.me.vec.pend = [])) ∧
      s.me.csr.kframe.toNat / 64 % 2 ^ 15 < 320) ∧
    (∀ (pc : Byte) (saves : Bool), ∃ (s : State) (f : Frame),
      (s.me.ctl.kernel = true ∧ s.me.vec.run ≠ .kernelRun ∧ (s.me.vec.run = .held → s.me.vec.pend = [])) ∧
      320 ≤ s.me.csr.kframe.toNat / 64 % 2 ^ 15 ∧ s.frameAt s.cur (s.me.csr.kframe.toNat / 64 % 2 ^ 15 * 64 - 20480) = some f ∧
      f.cpc = BitVec.ofNat 64 pc.toNat ∧ (∃ l, f.loops[0]? = some l) ∧
      (decide (f.cause.toNat % 256 = 30) && s.me.csr.preempt.getLsbD 0 && s.me.csr.preempt.getLsbD 2) = saves) := by
  refine ⟨⟨State.reset, rfl⟩, ⟨framesAt 0x1F_B000, by decide⟩, ?_, ⟨State.reset, rfl⟩,
    ⟨with0 fun x => { x with ctl := { x.ctl with kernel := true }, vec := { x.vec with run := .kernelRun } }, rfl, rfl⟩,
    ⟨with0 fun x => { (x.pend (x.blank .v 0 2 .u64)) with ctl := { x.ctl with kernel := true }, vec := { (x.pend (x.blank .v 0 2 .u64)).vec with run := .held } }, rfl, rfl, by decide⟩,
    ⟨ctl0 fun c => { c with kernel := true }, ⟨rfl, by decide, by decide⟩, by decide⟩, fun pc saves => ?_⟩
  · intro pc
    obtain ⟨f, h1, h2, -, h4⟩ := framed_frame pc 0 inHandler rfl
    exact ⟨framed pc 0 inHandler, f, by rw [framed_me]; rfl, by rw [framed_me]; decide, by rw [framed_me]; exact h1, h2, h4⟩
  · obtain ⟨f, h1, h2, h3, h4⟩ := framed_frame pc (if saves then 30 else 0) inHandler rfl
    refine ⟨framed pc (if saves then 30 else 0) inHandler, f, ⟨rfl, by rw [framed_me]; decide, by rw [framed_me]; decide⟩, by rw [framed_me]; decide, by rw [framed_me]; exact h1, h2, h4, ?_⟩
    rw [h3, framed_me]; cases saves <;> rfl
/-- Core 0 in kernel mode. -/
def kern (f : Ctl → Ctl) : State := ctl0 fun c => f { c with kernel := true }
/-- A translation of the lowest 64 TB to themselves, readable and writable at both levels. -/
def flat : TlbEntry := { va := 0, bits := 46, ctx := 0, glob := true, pte := 0x1F }
/-- Core 0 with that translation, a = s1, b = s2. -/
def mapped (a b : Word) : State :=
  with0 fun x => { x with ctl := { x.ctl with s := (x.ctl.s.set 1 a).set 2 b }, tlb := [flat] }
theorem witness_CsrAccess :
    (∃ a b, State.reset.csrGet State.reset.cur 1 = some a ∧ State.reset.csrGet State.reset.cur 0x40 = some b) ∧
    (∃ (s : State) (old : Word) (y : Core), s.me.ctl.kernel = true ∧ s.csrGet s.cur 0x800 = some old ∧ s.me.src1 (.reg 1) = .ok (5, y)) ∧
    (∃ old, State.reset.csrGet State.reset.cur 0x432 = some old) ∧
    (0x400 : Word).toNat / 256 % 8 < 5 ∧ ((0x4C : Word).toNat % 16 < 13 ∧ (0x4C : Word).toNat / 16 % 8 < 5) ∧
    ((0x1A : Word).toNat / 8 % 8 < 4 ∧ (0x1A : Word).toNat / 2 % 4 < 2) ∧
    State.reset.me.ctl.kernel = false ∧ State.reset.csrGet State.reset.cur 0 = none ∧ State.reset.csrGet State.reset.cur 0x7FF = none ∧
    (∃ s : State, s.me.ctl.kernel = true ∧ s.csrGet s.cur 0xFFF = none) :=
  ⟨⟨_, _, rfl, rfl⟩, ⟨kern fun c => { c with s := c.s.set 1 5 }, _, _, rfl, rfl, rfl⟩, ⟨_, rfl⟩, by decide, by decide, by decide, rfl, rfl, rfl,
    ⟨kern fun c => c, rfl, rfl⟩⟩
theorem witness_MasterEnableAndTlb :
    (∃ s : State, s.me.ctl.kernel = false) ∧
    (∃ s : State, s.me.ctl.kernel = true ∧ s.me.ctl.ready 1 = true ∧ s.me.ctl.ready 2 = true ∧ s.me.ctl.poison[(1 : Fin 32)] = none ∧
      s.me.ctl.poison[(2 : Fin 32)] = none ∧ (∀ x ∈ s.flight, x.core = s.cur → x.vec = false → x.isWrite = false) ∧ s.me.ctl.stores = []) ∧
    (∃ s : State, s.me.ctl.kernel = true ∧ s.me.ctl.ready 1 = true ∧ s.me.ctl.stores ≠ []) :=
  ⟨⟨State.reset, rfl⟩, ⟨kern fun c => c, rfl, by decide, by decide, rfl, rfl, by simp [kern, ctl0, with0, State.reset], rfl⟩,
    ⟨kern fun c => { c with stores := [{ id := 0, so := false, off := 0, bytes := [1], left := 3, bank := none, seq := 0 }] }, rfl,
      by decide, by decide⟩⟩
/-- The tables of the worked example of R190, under core 0. -/
def walking : State :=
  State.writeRuns { with0 fun x => { x with csr := { x.csr with ptbase := 0x1_0000_0000 } } with pkgs := [(0, Pkg.reset)] }
    [(0x1_0000_0018, leBytes 8 0x1_0001_0001), (0x1_0001_0628, leBytes 8 0x1_0002_0001), (0x1_0002_0090, leBytes 8 0x10_0800_0337)]
set_option maxRecDepth 4000 in
/-- The worked example of R190. -/
theorem test_translation : (walking.translate 0 0xCC50_4BA7_1238 8 .store false).2 = .ok 0x10_0BA7_1238 0x10_0800_0337 := rfl
set_option maxRecDepth 4000 in
theorem walking_level3 : walkComesTo walking 0 (walking.core 0).csr.ptbase 0xCC50_4BA7_1238 3 0x1_0002_0000 :=
  ⟨0x1_0001_0000, 0, ⟨0x1_0000_0000, 0, rfl, rfl, by decide, rfl, ⟨⟨by decide, by decide, by decide⟩, by decide, by decide⟩, by decide⟩,
    rfl, by decide, rfl, ⟨⟨by decide, by decide, by decide⟩, by decide, by decide⟩, by decide⟩
/-- Core 0 with a value of PTBASE. -/
def tableIn (b : Word) : State := { with0 fun x => { x with csr := { x.csr with ptbase := b } } with pkgs := [(0, Pkg.reset)] }
set_option maxRecDepth 4000 in
theorem witness_MasterEnableAndTlb_walks :
    -- entries of the caches
    (let hit (e : TlbEntry) : Bool := e.va == 0x1000 - 0x1000 % 2 ^ e.bits && (e.glob || e.ctx == 0)
     (∃ s : State, (s.core 0).csr.ctxid = 0 ∧ (s.core 0).tlb.find? hit = some flat) ∧
     ∃ s : State, (s.core 0).tlb.find? hit = none ∧ (s.die 0).cache.find? hit = some flat) ∧
    -- walks: the first table, then places and entries that end one
    (∃ s : State, walkComesTo s 0 (s.core 0).csr.ptbase 0 1 0x5000_0000_0000 ∧ s.nodePkg 0 5 = none) ∧
    (∃ s : State, walkComesTo s 0 (s.core 0).csr.ptbase 0 1 0x30_0000_0000 ∧ s.reserved 0 0x30_0000_0000 8 = some .pageFault) ∧
    (∃ s : State, walkComesTo s 0 (s.core 0).csr.ptbase 0 1 0x10000 ∧ s.reserved 0 0x10000 8 = some .perm) ∧
    (∃ s : State, walkComesTo s 0 (s.core 0).csr.ptbase 0 1 0x10000 ∧ s.nodePkg 0 0 = some 0 ∧ s.reserved 0 0x10000 8 = none ∧
      s.poisoned 0x10000 8 = true) ∧
    (∃ s : State, walkComesTo s 0 (s.core 0).csr.ptbase 0 1 0x10000 ∧ s.reserved 0 0x10000 8 = none ∧ s.poisoned 0x10000 8 = false ∧
      ¬ entryPoints 1 (s.readWord 0x10000) ∧ ¬ entryMaps 1 (s.readWord 0x10000)) ∧
    (∃ s : State, walkComesTo s 0 (s.core 0).csr.ptbase 0xCC50_4BA7_1238 3 0x1_0002_0000 ∧ (s.core 0).tlb = [] ∧
      (s.die 0).cache = [] ∧ s.nodePkg 0 0 = some 0 ∧ (s.pkgs.find 0).isSome = true ∧
      s.reserved 0 (entryKey 0 0x1_0002_0000 3 0xCC50_4BA7_1238) 8 = none ∧
      s.poisoned (entryKey 0 0x1_0002_0000 3 0xCC50_4BA7_1238) 8 = false ∧
      entryMaps 3 (s.readWord (entryKey 0 0x1_0002_0000 3 0xCC50_4BA7_1238))) :=
  ⟨⟨⟨mapped 0 0, rfl, by decide⟩, { mapped 0 0 with
      cores := [], pkgs := [(0, { Pkg.reset with dies := Pkg.reset.dies.set 0 { Die.reset with cache := [flat] } })] }, rfl, by decide⟩,
    ⟨tableIn 0x5000_0000_0000, Eq.refl 0x5000_0000_0000, rfl⟩, ⟨tableIn 0x30_0000_0000, Eq.refl 0x30_0000_0000, rfl⟩,
    ⟨{ tableIn 0x10000 with pkgs := [(0, { Pkg.reset with funcs := [(0, { Func.reset with part := { PEntryTab.reset with
        valid := true, poolbase := 0x10000, poolframes := 1 } })] })] }, Eq.refl 0x10000, by decide⟩,
    ⟨{ tableIn 0x10000 with poison := [granuleOf 0x10000] }, Eq.refl 0x10000, rfl, by decide, by decide⟩,
    ⟨(tableIn 0x10000).writeRuns [(0x10000, leBytes 8 2)], Eq.refl 0x10000, by decide, by decide, fun h => absurd h.1.1 (by decide),
      fun h => absurd h.1.1 (by decide)⟩,
    ⟨walking, walking_level3, rfl, rfl, rfl, rfl, by decide, rfl, ⟨by decide, by decide, by decide⟩, by decide, by decide, by decide, by decide,
      Or.inr (Or.inl ⟨by decide, by decide⟩)⟩⟩
theorem witness_LocalAccesses :
    (∀ n ∈ [1, 2, 4, 8], ∃ (s : State) (base : Word), s.me.regChecked 1 = .ok base ∧ s.me.accessReady = true ∧
      s.localReady false .plain = true ∧ s.localReady true .strong = true ∧ s.me.lost = none ∧ s.me.portFree 15 = true ∧
      s.me.armed 0 = false ∧ base.toNat % n = 0 ∧
      base.toNat + n = 0x20_0000 ∧ s.me.inLiveFrame base.toNat n = false ∧
      s.overlapAt [(spadKey s.cur base.toNat, n)] false = none ∧ s.overlapAt [(spadKey s.cur base.toNat, n)] true = none) ∧
    (∀ waiting : Bool, ∃ s : State, s.me.regChecked 1 = .ok 0x1F_FFF8 ∧ s.me.accessReady = true ∧ s.localReady false .plain = true ∧
      s.me.inLiveFrame 0x1F_FFF8 8 = false ∧ s.overlapAt [(spadKey s.cur 0x1F_FFF8, 8)] false = none ∧
      s.me.portFree 15 = !waiting ∧ s.me.armedUe = !waiting) ∧
    (∃ (s : State) (base v : Word), s.me.regChecked 1 = .ok base ∧ s.me.regChecked 2 = .ok v ∧ base.toNat % 2 ≠ 0) ∧
    (∃ (s : State) (base : Word), s.me.regChecked 1 = .ok base ∧ base.toNat % 8 = 0 ∧ 0x20_0000 < base.toNat + 8 ∧
      0x20_0000 < (base - 8 + BitVec.ofInt 64 (8 : BitVec 24).toInt).toNat + 8) ∧
    (∃ (s : State) (st : LStore), (s.core 0).ctl.stores.filter (fun x => decide (x.left = 0)) = [st] ∧
      (s.core 0).phase = .tick ∧ ∃ k, ∀ st ∈ (s.core 0).ctl.stores, st.left = 0 → k < spadKey 0 st.off ∨ spadKey 0 st.off + st.bytes.length ≤ k) ∧
    (∃ s : State, (s.core 0).phase = .land) ∧
    (∃ s : State, (s.core 0).phase = .offer ∧ (s.core 0).vec.words ≠ []) := by
  refine ⟨fun n hn => ?_, fun w => ⟨with0 fun x => { x with
      ctl := { x.ctl with s := x.ctl.s.set 1 0x1F_FFF8 }, vec := { x.vec with ports := if w then [15] else [] }
      csr := { x.csr with errinj := if w then 0 else 3 } }, by cases w <;> decide⟩, ⟨regs 1 7, _, _, rfl, rfl, by decide⟩, ⟨regs 0x20_0000 0, _, rfl, by decide, by decide, by decide⟩,
    ⟨with0 fun x => { x with phase := .tick, ctl := { x.ctl with
        stores := [{ id := 0, so := false, off := 8, bytes := [1], left := 0, bank := none, seq := 0 }] } }, _, rfl, rfl,
      spadKey 0 9, by decide⟩, ⟨with0 fun x => { x with phase := .land }, rfl⟩,
    ⟨with0 fun x => { x with phase := .offer, vec := { x.vec with words := [0] } }, rfl, by decide⟩⟩
  simp only [List.mem_cons, List.not_mem_nil, or_false] at hn
  obtain rfl | rfl | rfl | rfl := hn
  · exact ⟨regs 0x1F_FFFF 0, _, rfl, by decide, by decide, by decide, rfl, by decide, by decide, by decide, by decide, by decide, by decide, by decide⟩
  · exact ⟨regs 0x1F_FFFE 0, _, rfl, by decide, by decide, by decide, rfl, by decide, by decide, by decide, by decide, by decide, by decide, by decide⟩
  · exact ⟨regs 0x1F_FFFC 0, _, rfl, by decide, by decide, by decide, rfl, by decide, by decide, by decide, by decide, by decide, by decide, by decide⟩
  · exact ⟨regs 0x1F_FFF8 0, _, rfl, by decide, by decide, by decide, rfl, by decide, by decide, by decide, by decide, by decide, by decide, by decide⟩
/-- A reference to tile 0 of core 0. -/
def t0 : TileRef := { core := 0, tile := 0, gen := 0 }
/-- A FILLING tile of 64 bytes. -/
def tileA : Tile := { base := 0, size := 64, st := .filling, fill := true, see := 1, gen := 0, ring := none, parked := [] }
/-- Core 0 with tile 0 in a state, a handle in h0, and another change. -/
def tiled (st : TileSt) (h : Handle) (f : Core → Core) : State :=
  with0 fun x => f { x with ctl := { x.ctl with h := x.ctl.h.set 0 h }, tiles := [(0, { tileA with st := st })] }
/-- A group of cores 0 and 1 that adds unsigned integers, with padding between them. -/
def groupA : Group := { members := [0, 0xFFFFFFFF, 1], skip := true, acc := 3, op := 3 }
/-- The core set of cores 0 and 1. -/
def cores01 : BitVec 512 := BitVec.ofNatLT 3 (Nat.lt_trans (by decide : 3 < 512) (Nat.lt_two_pow_self (n := 512)))
/-- A partition of cores 0 and 1 with that group as number 5. -/
def parted (s : State) : State :=
  { s with pkgs := [(0, { Pkg.reset with funcs := [(0, { Func.reset with part := { PEntryTab.reset with valid := true, coreset := cores01 } })] })]
           parts := [(0, { Part.reset with groups := [(5, groupA)] })] }
/-- A group see handle of tile 0 of core 0 alone. -/
def gseeA : GSee := { gid := 5, ring := 0, round := 0, slots := [some t0, none, none] }
/-- A load, or another operation, of 8 bytes at offset 64 of core 0. -/
def accA (op : AccOp) (back : Back) (fault : Option Trap) : Access :=
  { faultedAccess 0 false { op := op, addr := .virt 0x20_0000_0040, ty := .i64, ord := .plain, zue := false, kernel := false }
      { cause := .perm, info := 0 } back with place := .phys (spadKey 0 64), fault := fault, id := 7 }
/-- The state after reset with one access in flight, core 0 changed. -/
def flying (a : Access) (f : Core → Core) : State := { with0 f with flight := [a], nextId := 8 }
/-- Core 0 waiting for its blocking load number 7. -/
def blocked (x : Core) : Core := { x with ctl := { x.ctl with blk := some { id := 7, d := 3, left := 0, info := 0 } } }
/-- The group window address of group 5, offset 64. -/
def gva : Word := 0x0100_5000_0000_0040
theorem witness_BlockingLoads :
    (∃ (s s1 : State) (base : Word) (t : Route), s.me.accessReady = true ∧ s.me.regChecked 1 = .ok base ∧ base.toNat % 8 = 0 ∧
      (let r : Req := { op := .load, addr := .virt base, ty := .i64, ord := .plain, zue := false, kernel := s.me.ctl.kernel }
       s.route s.cur r 0 = (s1, .ok t) ∧ s.checkRequest r = .ok ())) ∧
    (∃ (s s1 : State) (base : Word) (f : Trap), s.me.regChecked 1 = .ok base ∧ base.toNat % 8 = 0 ∧
      s.route s.cur { op := .load, addr := .virt base, ty := .i64, ord := .plain, zue := false, kernel := s.me.ctl.kernel } 0 = (s1, .error f)) ∧
    (∃ (s : State) (base : Word), s.me.regChecked 1 = .ok base ∧ base.toNat % 8 ≠ 0) ∧
    (∃ (s s1 : State) (t : Route), (∀ g, s.me.ctl.h[(0 : Fin 16)] ≠ .gsee g) ∧
      (let r : Req := { op := .load, addr := .tile s.me.ctl.h[(0 : Fin 16)] 56, ty := .i64, ord := .plain, zue := false, kernel := s.me.ctl.kernel }
       s.route s.cur r 0 = (s1, .ok t) ∧ s.checkRequest r = .ok ())) ∧
    (∃ (s : State) (base : Word) (g : Group) (x : Nat), s.me.regChecked 1 = .ok base ∧ base.toNat % 8 = 0 ∧
      s.checkGroup s.cur base false .i64 = .ok (g, x) ∧
      s.checkLeaves (plainGroup s.cur false s.me.ctl.kernel g x .i64 .blocking) base = .ok ()) ∧
    (∃ (s : State) (g : GSee) (l : GLoad), s.me.accessReady = true ∧ s.me.ctl.h[(0 : Fin 16)] = .gsee g ∧
      s.seeGroup s.cur s.me.ctl.kernel g 56 .i64 .blocking 0 = .ok l ∧ s.checkLeaves l 56 = .ok ()) ∧
    (∀ fault ∈ [none, some { cause := .perm, info := 5 }], ∃ (s s1 : State) (x : BlkLoad) (a : Access) (r : Result),
      (s.core 0).ctl.blk = some x ∧ x.left = 0 ∧ s.findAccess x.id = some 0 ∧ s.flight[0]? = some a ∧ a.parked = false ∧
      s.mayPerform 0 a = true ∧ s.performHome a = (s1, .done r) ∧
      match fault with | none => ∃ v, r.datum = .value v | some f => r.datum = .fault f) ∧
    (∃ (s s1 : State) (a : Access) (r : Result) (i : Word), s.flight[0]? = some a ∧ s.performHome a = (s1, .done r) ∧
      r.datum = .poison i) := by
  refine ⟨⟨mapped 0x20_0000_0040 0, _, _, _, by decide, rfl, by decide, rfl, rfl⟩,
    ⟨regs (2 ^ 57) 0, _, _, _, rfl, by decide, rfl⟩, ⟨regs 7 0, _, rfl, by decide⟩,
    ⟨tiled .filling (.fill t0) fun x => x, _, _, fun g h => (by cases h), rfl, rfl⟩,
    ⟨parted (regs gva 0), _, _, _, rfl, by decide, rfl, rfl⟩,
    ⟨parted (tiled .published (.gsee gseeA) fun x => x), _, _, by decide, rfl, rfl, rfl⟩, fun fault h => ?_,
    ⟨{ flying (accA .load .nowhere none) blocked with poison := [spadKey 0 64] }, _, _, _, _, rfl, rfl, rfl⟩⟩
  simp only [List.mem_cons, List.not_mem_nil, or_false] at h
  obtain rfl | rfl := h
  · exact ⟨flying (accA .load .nowhere none) blocked, _, _, _, _, rfl, rfl, rfl, rfl, rfl, by decide, rfl, _, rfl⟩
  · exact ⟨flying (accA .load .nowhere (some { cause := .perm, info := 5 })) blocked, _, _, _, _, rfl, rfl, rfl, rfl, rfl, by decide, rfl, rfl⟩
theorem witness_DecoupledLoads :
    (∃ (s : State) (base : Word), s.me.accessReady = true ∧ s.me.regChecked 1 = .ok base ∧ s.me.ctl.lq[(1 : Fin 2)].length < 16 ∧
      base.toNat % 8 = 0 ∧ ∀ a ∈ [ReqAddr.virt base, .group base, .tile s.me.ctl.h[(0 : Fin 16)] 0],
        s.checkRequest { op := .load, addr := a, ty := .i64, ord := .plain, zue := false, kernel := s.me.ctl.kernel } = .ok ()) ∧
    (∃ (s : State) (base : Word), s.me.accessReady = true ∧ s.me.regChecked 1 = .ok base ∧ base.toNat % 2 ≠ 0) ∧
    (∃ (s : State) (base : Word), s.me.accessReady = true ∧ s.me.regChecked 1 = .ok base ∧ 16 ≤ s.me.ctl.lq[(1 : Fin 2)].length) ∧
    (∃ (s s1 : State) (a : Access) (r : Result), s.flight[0]? = some a ∧ a.back = .lq 1 7 ∧ a.parked = false ∧ a.barrier = none ∧
      s.mayPerform 0 a = true ∧ s.performHome a = (s1, .done r)) := by
  refine ⟨⟨mapped 0x20_0000_0040 0, _, by decide, rfl, by decide, by decide, fun a h => ?_⟩, ⟨regs 9 0, _, by decide, rfl, by decide⟩,
    ⟨ctl0 fun c => { c with lq := c.lq.set 1 (List.replicate 16 { id := 0, datum := .absent, flags := 0, nan := false, req := (accA .load .nowhere none).req }) }, _, by decide, rfl, by decide⟩,
    ⟨flying (accA .load (.lq 1 7) none) blocked, _, _, _, rfl, rfl, rfl, rfl, by decide, rfl⟩⟩
  simp only [List.mem_cons, List.not_mem_nil, or_false] at h
  obtain rfl | rfl | rfl := h <;> rfl
theorem witness_RemoteStores :
    (∃ (s s1 : State) (base v : Word) (t : Route), s.me.accessReady = true ∧ s.me.lost = none ∧ s.me.regChecked 2 = .ok v ∧
      s.me.regChecked 1 = .ok base ∧ base.toNat % 8 = 0 ∧
      (let r : Req := { op := .store v, addr := .virt base, ty := szTy .d, ord := .sync, zue := false, kernel := s.me.ctl.kernel }
       s.route s.cur r 0 = (s1, .ok t) ∧ s.checkRequest r = .ok ())) ∧
    (∃ (s : State) (base : Word), s.me.accessReady = true ∧ s.me.lost = none ∧ s.me.regChecked 1 = .ok base ∧ base.toNat % 2 ≠ 0) ∧
    (∃ (s s1 : State) (v : Word) (t : Route), s.me.regChecked 2 = .ok v ∧ (∀ g, s.me.ctl.h[(0 : Fin 16)] ≠ .gsee g) ∧
      (let r : Req := { op := .store v, addr := .tile s.me.ctl.h[(0 : Fin 16)] 56, ty := szTy .d, ord := .plain, zue := false, kernel := s.me.ctl.kernel }
       s.route s.cur r 0 = (s1, .ok t) ∧ s.checkRequest r = .ok ())) ∧
    (∃ (s : State) (g : GSee), s.me.ctl.h[(0 : Fin 16)] = .gsee g) ∧
    (∃ (s s1 : State) (a : Access) (w : Word) (r : Result), s.flight[0]? = some a ∧ a.req.op = .store w ∧ a.back = .nowhere ∧
      a.parked = false ∧ a.barrier = none ∧ s.mayPerform 0 a = true ∧ s.performHome a = (s1, .done r)) ∧
    (∃ (s : State) (a : Access) (t : TileRef) (o : Nat), s.flight[0]? = some a ∧ a.place = .tile t o ∧ a.parked = true ∧
      (s.tileOf t).st ≠ .filling) ∧
    (∃ (s : State) (a : Access) (t : TileRef) (o : Nat), s.flight[0]? = some a ∧ a.place = .tile t o ∧ a.parked = true ∧
      s.live t = true ∧ (s.tileOf t).st = .filling ∧ a.id ∉ (s.tileOf t).parked ∧ (s.tileOf t).parked.length < 16) :=
  ⟨⟨mapped 0x20_0000_0040 7, _, _, _, _, by decide, rfl, rfl, rfl, by decide, rfl, rfl⟩, ⟨regs 9 0, _, by decide, rfl, rfl, by decide⟩,
    ⟨tiled .filling (.fill t0) fun x => x, _, _, _, rfl, fun g h => (by cases h), rfl, rfl⟩,
    ⟨tiled .filling (.gsee gseeA) fun x => x, _, rfl⟩,
    ⟨flying (accA (.store 5) .nowhere none) fun x => x, _, _, _, _, rfl, rfl, rfl, rfl, rfl, by decide, rfl⟩,
    ⟨{ tiled .published .null fun x => x with flight := [{ accA .load .nowhere none with place := .tile t0 0, parked := true }] },
      _, _, _, rfl, rfl, rfl, by decide⟩,
    ⟨{ tiled .filling .null fun x => x with flight := [{ accA .load .nowhere none with place := .tile t0 0, parked := true }] },
      _, _, _, rfl, rfl, rfl, by decide, by decide, by decide, by decide⟩⟩
theorem witness_AtomicsAndReductions :
    (∃ (s : State) (va v w : Word), s.me.accessReady = true ∧ s.me.ctl.lq[(0 : Fin 2)].length < 16 ∧ s.me.lost = none ∧
      va.toNat / 2 ^ 56 % 2 = 0 ∧ s.me.ctl.awaitAll [] [.reg 1, .reg 2] = .ok () ∧ s.me.ctl.readSrc [] (.reg 1) = .ok va ∧
      s.me.ctl.readSrc [.reg 1] (.reg 2) = .ok v ∧ va.toNat % 8 = 0 ∧
      s.checkRequest { op := .amo .add v, addr := .virt va, ty := .i64, ord := .sync, zue := false, kernel := s.me.ctl.kernel } = .ok () ∧
      s.me.ctl.awaitAll [] [.reg 1, .reg 2, .reg 3] = .ok () ∧ s.me.ctl.readSrc [] (.reg 3) = .ok w) ∧
    (∃ (s : State) (va : Word), s.me.accessReady = true ∧ s.me.ctl.awaitAll [] [.reg 1, .reg 2] = .ok () ∧
      s.me.ctl.readSrc [] (.reg 1) = .ok va ∧ va.toNat / 2 ^ 56 % 2 = 0 ∧ va.toNat % 2 ≠ 0) ∧
    (∃ (s : State) (va : Word), s.me.accessReady = true ∧ 16 ≤ s.me.ctl.lq[(0 : Fin 2)].length ∧
      s.me.ctl.awaitAll [] [.reg 1, .reg 2] = .ok () ∧ s.me.ctl.awaitAll [] [.reg 1, .reg 2, .reg 3] = .ok () ∧
      s.me.ctl.readSrc [] (.reg 1) = .ok va) ∧
    (∃ (s s1 : State) (va v : Word) (t : Route), s.me.accessReady = true ∧ s.me.lost = none ∧
      s.me.ctl.awaitAll [] [.reg 1, .reg 2] = .ok () ∧ s.me.ctl.readSrc [] (.reg 1) = .ok va ∧
      s.me.ctl.readSrc [.reg 1] (.reg 2) = .ok v ∧ va.toNat % 8 = 0 ∧
      (let r : Req := { op := .red .add v, addr := .virt va, ty := .i64, ord := .plain, zue := false, kernel := s.me.ctl.kernel }
       let s0 := withMe s (s.me.commitPops [.reg 1, .reg 2])
       s0.route s.cur r 0 = (s1, .ok t) ∧ s0.checkRequest r = .ok ())) ∧
    (∃ (s s1 : State) (a : Access) (op : AmoOp) (w : Word) (r : Result), s.flight[0]? = some a ∧ a.req.op = .red op w ∧
      a.back = .nowhere ∧ a.parked = false ∧ a.barrier = none ∧ s.mayPerform 0 a = true ∧ s.performHome a = (s1, .done r)) :=
  ⟨⟨mapped 0x20_0000_0040 7, _, _, _, by decide, by decide, rfl, by decide, rfl, rfl, rfl, by decide, rfl, rfl, rfl⟩,
    ⟨regs 0x20_0000_0041 7, _, by decide, rfl, rfl, by decide, by decide⟩,
    ⟨ctl0 fun c => { c with lq := c.lq.set 0 (List.replicate 16 { id := 0, datum := .absent, flags := 0, nan := false, req := (accA .load .nowhere none).req }) },
      _, by decide, by decide, rfl, rfl, rfl⟩,
    ⟨mapped 0x20_0000_0040 7, _, _, _, _, by decide, rfl, rfl, rfl, rfl, by decide, rfl, rfl⟩,
    ⟨flying (accA (.red .add 1) .nowhere none) fun x => x, _, _, _, _, _, rfl, rfl, rfl, rfl, rfl, by decide, rfl⟩⟩
theorem witness_HomeEffects :
    (∀ n ∈ [1, 2, 4, 8], State.reset.poisoned (spadKey 0 0x1F_FFF8) n = false) ∧ (∀ x, (State.reset.core x).csr.errinj.toNat % 2 = 0) ∧
    (∀ op ∈ [AmoOp.swap, .add, .and, .or, .xor, .min, .max, .minu, .maxu], ∀ op' ∈ [AmoOp.fadd, .fmin, .fmax], op ≠ op') :=
  ⟨by decide, fun _ => rfl, by decide⟩
theorem witness_FencesAndWaits :
    (∃ s : State, s.loadsClear s.cur s.nextId s.me.vec.era = true ∧ s.me.lost = none ∧
      s.fenceClear s.cur s.nextId s.me.vec.era true .sys = true ∧ s.fenceClear s.cur s.nextId s.me.vec.era false .sys = true) ∧
    (∃ s : State, s.loadsClear s.cur s.nextId s.me.vec.era = false) ∧
    (∃ s : State, s.me.lost = none ∧ s.fenceClear s.cur s.nextId s.me.vec.era false .core = false ∧
      s.fenceClear s.cur s.nextId s.me.vec.era true .core = false) ∧
    (∃ (s : State) (t : Token) (p : Nat) (r : List Nat), s.tokens[0]? = some t ∧ t.stops = p :: r ∧
      ∀ a ∈ s.flight, a.core = t.core → a.id < t.before → a.isWrite = true → stopOf (s.keyOf a.place) ≠ p) ∧
    (∃ x, State.reset.pkg? (pkgOf 0) = some x) ∧
    (∃ (s : State) (v : Word) (y : Core), s.me.src1 (.reg 1) = .ok (v, y) ∧ 2 ^ 31 ≤ (s.me.csr.pseq[(5 : Fin 6)] - v.setWidth 32).toNat) ∧
    (∃ (s : State) (v : Word) (y : Core), s.me.src1 (.reg 1) = .ok (v, y) ∧ (s.me.csr.pseq[(5 : Fin 6)] - v.setWidth 32).toNat < 2 ^ 31 ∧
      2 ^ 31 ≤ (s.me.csr.seq[(5 : Fin 6)] - v.setWidth 32).toNat) ∧
    (∃ (s : State) (v : Word) (y : Core), s.me.src1 (.reg 1) = .ok (v, y) ∧ (s.me.csr.pseq[(5 : Fin 6)] - v.setWidth 32).toNat < 2 ^ 31 ∧
      (s.me.csr.seq[(5 : Fin 6)] - v.setWidth 32).toNat < 2 ^ 31) :=
  ⟨⟨State.reset, by decide, rfl, by decide, by decide⟩, ⟨flying (accA .load (.lq 0 7) none) fun x => x, by decide⟩,
    ⟨ctl0 fun c => { c with stores := [{ id := 0, so := false, off := 0, bytes := [1], left := 3, bank := none, seq := 0 }] }, rfl,
      by decide, by decide⟩,
    ⟨{ State.reset with tokens := [{ core := 0, before := 1, scope := .dom, stops := [1, 2] }] }, _, 1, [2], rfl, rfl,
      by simp [State.reset]⟩,
    ⟨_, rfl⟩, ⟨regs 1 0, _, _, rfl, by decide⟩,
    ⟨with0 fun x => { x with ctl := { x.ctl with s := x.ctl.s.set 1 1 }, csr := { x.csr with pseq := x.csr.pseq.set 5 1 } }, _, _, rfl,
      by decide, by decide⟩,
    ⟨regs 0 0, _, _, rfl, by decide, by decide⟩⟩
theorem witness_TileHandles :
    (∃ (s : State) (a b : Word) (y : Core) (n : Nat) (rest : List Nat), s.me.src2 (.reg 1) (.reg 2) = .ok (a, b, y) ∧
      s.me.ctl.h[(0 : Fin 16)] = .null ∧ s.me.ctl.h[(1 : Fin 16)] = .null ∧
      (a.toNat % 64 = 0 ∧ b.toNat % 64 = 0 ∧ 64 ≤ b.toNat ∧ b.toNat ≤ 0x10_0000 ∧ a.toNat + b.toNat ≤ 0x20_0000) ∧
      s.me.regionUsed a.toNat b.toNat = false ∧ s.me.openTiles = n :: rest) ∧
    (∃ (s : State) (a b : Word) (y : Core), s.me.src2 (.reg 1) (.reg 2) = .ok (a, b, y) ∧
      ¬ (a.toNat % 64 = 0 ∧ b.toNat % 64 = 0 ∧ 64 ≤ b.toNat ∧ b.toNat ≤ 0x10_0000 ∧ a.toNat + b.toNat ≤ 0x20_0000)) ∧
    (∃ (s : State) (a b : Word) (y : Core), s.me.src2 (.reg 1) (.reg 2) = .ok (a, b, y) ∧ s.me.regionUsed a.toNat b.toNat = true) ∧
    (∃ s : State, s.me.ctl.h[(1 : Fin 16)] = .null ∧ s.me.ctl.h[(0 : Fin 16)].isSee = true ∧
      s.checkLive s.me.ctl.h[(0 : Fin 16)].sees (BitVec.ofNat 64 0) = .ok ()) ∧
    (∃ s : State, s.me.ctl.h[(0 : Fin 16)] ≠ .null) ∧
    (∃ (s : State) (r : TileRef), s.me.ctl.h[(0 : Fin 16)] = .fill r ∧ s.checkLive [r] (BitVec.ofNat 64 0) = .ok () ∧ s.me.lost = none ∧
      s.reaches s.cur r.core = true ∧ r.tile < 256 ∧ s.live r = true ∧ (s.tileOf r).size % 64 = 0 ∧ 64 ≤ (s.tileOf r).size ∧
      (s.tileOf r).size ≤ 0x10_0000 ∧ (s.tileOf r).base < 0x20_0000 ∧ (s.tileOf r).st = .filling ∧ 0 < (s.tileOf r).see) ∧
    (∃ s : State, s.live t0 = true ∧ (s.tileOf t0).st = .published ∧ (s.tileOf t0).see = 1) ∧
    (∃ s : State, s.live t0 = true ∧ (s.tileOf t0).st = .filling ∧ (s.tileOf t0).see = 0) ∧
    (∃ s : State, s.live t0 = true ∧ 1 < (s.tileOf t0).see) :=
  ⟨⟨regs 0x10_0000 0x10_0000, _, _, _, 0, _, rfl, rfl, rfl, by decide, by decide, rfl⟩,
    ⟨regs 0x10_0040 0x10_0000, _, _, _, rfl, by decide⟩,
    ⟨{ tiled .filling .null fun x => { x with ctl := { x.ctl with s := x.ctl.s.set 2 64 } } with cur := 0 }, _, _, _, rfl, by decide⟩,
    ⟨tiled .published (.see t0) fun x => x, rfl, by decide, rfl⟩, ⟨tiled .published (.see t0) fun x => x, by decide⟩,
    ⟨tiled .filling (.fill t0) fun x => x, _, rfl, rfl, rfl, by decide, by decide, by decide, by decide, by decide, by decide, by decide,
      rfl, by decide⟩,
    ⟨tiled .published .null fun x => x, by decide, rfl, rfl⟩,
    ⟨with0 fun x => { x with tiles := [(0, { tileA with see := 0 })] }, by decide, rfl, rfl⟩,
    ⟨with0 fun x => { x with tiles := [(0, { tileA with see := 2 })] }, by decide, by decide⟩⟩
set_option maxRecDepth 4000 in
theorem witness_HandleMessages :
    (∀ poison : Bool, ∃ s : State, s.msgs[0]? = some (.fillDrop t0 0 1 poison) ∧ s.released 0 1 = true ∧
      (∀ t ∈ s.tokens, t.core = 0 → t.before ≠ 1) ∧ s.reaches 0 t0.core = true ∧ s.mayGo 0 (spadKey t0.core 0) = true ∧
      s.behindSent 0 (pkgOf t0.core) 1 (s.msgs.take 0) s.chunks = false) ∧ (∃ s : State, s.msgs[0]? = some (.seeDrop t0 0 1)) ∧
    (∃ (s : State) (v : Word) (y : Core) (p : Reply), s.me.src1 (.reg 1) = .ok (v, y) ∧ s.me.ctl.reply = some p) ∧
    (∃ (s : State) (v : Word) (y : Core) (d : Nat), s.me.src1 (.reg 1) = .ok (v, y) ∧ s.me.ctl.reply = none ∧ s.me.ctl.committed = false ∧
      s.rankTarget v = .ok d ∧ s.me.ctl.h[(0 : Fin 16)] ≠ .null ∧
      s.checkLive (match s.me.ctl.h[(0 : Fin 16)] with | .fill t => [t] | x => x.sees) (BitVec.ofNat 64 0) = .ok () ∧
      (s.core d).boxes[(3 : Fin 4)].length + (s.core d).coming[(3 : Fin 4)] < 8 ∧
      8 ≤ (s.core d).boxes[(0 : Fin 4)].length + (s.core d).coming[(0 : Fin 4)]) ∧
    (∃ (s : State) (r : TileRef), s.msgs[0]? = some (.handle 0 1 3 (.fill r) true 5) ∧ s.tileStoresDone 0 r = true ∧
      s.reaches 0 1 = true ∧ s.mayGo 0 (spadKey 1 0) = true ∧ s.behindSent 0 (pkgOf 1) 5 (s.msgs.take 0) s.chunks = false) ∧
    (∃ s : State, s.me.ctl.h[(0 : Fin 16)] ≠ .null) ∧ (∃ s : State, s.me.ctl.h[(0 : Fin 16)] = .null ∧ s.me.boxes[(0 : Fin 4)] = []) ∧
    (∃ (s : State) (v : Handle) (r : List Handle), s.me.ctl.h[(0 : Fin 16)] = .null ∧ s.me.boxes[(0 : Fin 4)] = v :: r) :=
  ⟨fun poison => ⟨{ State.reset with msgs := [.fillDrop t0 0 1 poison] }, rfl, by cases poison <;> decide, by cases poison <;> decide,
      by cases poison <;> decide, by cases poison <;> decide, by cases poison <;> decide⟩, ⟨{ State.reset with msgs := [.seeDrop t0 0 1] }, rfl⟩,
    ⟨ctl0 fun c => { c with reply := some { handle := .null, status := 0 } }, _, _, _, rfl, rfl⟩,
    ⟨parted (tiled .filling (.fill t0) fun x => { x with coming := x.coming.set 0 8, csr := { x.csr with ncores := 2 } }), _, _, 0, rfl, rfl, rfl, rfl, by decide, rfl, by decide, by decide⟩,
    ⟨{ State.reset with msgs := [.handle 0 1 3 (.fill t0) true 5] }, _, rfl, by decide, by decide, by decide, by decide⟩,
    ⟨tiled .filling (.fill t0) fun x => x, by decide⟩, ⟨State.reset, rfl, rfl⟩,
    ⟨with0 fun x => { x with boxes := x.boxes.set 0 [.see t0] }, _, _, rfl, rfl⟩⟩
/-- A ring of one slot that has one claim, with one consumer. -/
def ringA (closed : Bool) (claimed : Word) : Ring :=
  { base := 0, size := 64, slots := [0], c := 1, claimed := claimed, arrived := 0, next := [0], closed := closed, waiters := [], readers := [] }
/-- Core 0 of a partition, with a ring of its own as ring 15, and another change. -/
def ringed (g : Ring) (f : Core → Core) : State :=
  parted (tiled .free .null fun x => f { x with rings := [(15, g)], csr := { x.csr with ncores := 2 } })
set_option maxRecDepth 4000 in
theorem witness_Rings :
    (∃ (s : State) (a b : Word) (y : Core), s.me.src2 (.reg 1) (.reg 2) = .ok (a, b, y) ∧ s.me.rings.find 15 = none ∧
      s.me.rings.length < 16 ∧ tileFits a.toNat b.toNat (b.toNat * 64) = true ∧ s.me.regionUsed a.toNat (b.toNat * 64) = false ∧
      (s.me.openTiles.take 64).length = 64) ∧
    (∃ (s : State) (a : Word) (y : Core) (p : Reply), s.me.src1 (.reg 1) = .ok (a, y) ∧ s.me.ctl.reply = some p) ∧
    (∀ closed : Bool, ∃ (s : State) (a : Word) (y : Core) (c : Nat) (g : Ring), s.me.src1 (.reg 1) = .ok (a, y) ∧
      s.me.ctl.reply = none ∧ s.me.ctl.h[(0 : Fin 16)] = .null ∧ s.ringAt a 15 = .ok (c, g) ∧ g.closed = closed ∧
      s.me.ctl.asked = false) ∧
    (∃ (s : State) (a : Word) (y : Core) (c : Nat) (g : Ring), s.me.src1 (.reg 1) = .ok (a, y) ∧ s.me.ctl.reply = none ∧
      s.me.ctl.h[(0 : Fin 16)] = .null ∧ s.ringAt a 15 = .ok (c, g) ∧ g.closed = false ∧ s.me.ctl.asked = true) ∧
    (∃ (s : State) (g : Ring) (w n : Nat) (rest : List Nat), (s.core 0).rings.find 15 = some g ∧ g.waiters = w :: rest ∧
      g.closed = false ∧ g.slots[g.claimed.toNat % g.slots.length]? = some n ∧ ((s.core 0).tile n).st = .free) :=
  ⟨⟨regs 0 0x8000, _, _, _, rfl, rfl, by decide, by decide, by decide, by decide⟩,
    ⟨ctl0 fun c => { c with reply := some { handle := .null, status := 0 } }, _, _, _, rfl, rfl⟩,
    fun closed => ⟨ringed (ringA closed 1) fun x => x, _, _, 0, ringA closed 1, rfl, rfl, rfl, by cases closed <;> rfl, rfl, rfl⟩,
    ⟨ringed (ringA false 1) fun x => { x with ctl := { x.ctl with asked := true } }, _, _, 0, _, rfl, rfl, rfl, rfl, rfl, rfl⟩,
    ⟨ringed { ringA false 1 with waiters := [1] } fun x => x, { ringA false 1 with waiters := [1] }, 1, 0, [], rfl, rfl, rfl, by decide, rfl⟩⟩
set_option maxRecDepth 4000 in
theorem witness_RingCloses :
    (∃ (s : State) (g : Ring) (q : Reader), s.ringAt 0 15 = .ok (0, g) ∧ (∀ i ∈ g.slots, ((s.core 0).tile i).st = .free) ∧
      (∀ n ∈ g.next, n = g.claimed) ∧ q ∈ g.readers ∧ q.cursor ≠ none ∧ q.core ≠ s.cur) ∧
    (∃ (s : State) (g : Ring), s.ringAt 0 15 = .ok (0, g) ∧ ∃ i ∈ g.slots, ((s.core 0).tile i).st ≠ .free) :=
  ⟨⟨ringed { ringA false 0 with readers := [{ core := 1, cursor := some 0, round := 0 }] } fun x => x,
      { ringA false 0 with readers := [{ core := 1, cursor := some 0, round := 0 }] }, { core := 1, cursor := some 0, round := 0 },
      rfl, by decide, fun n h => List.mem_singleton.mp h, by decide, by decide, by decide⟩,
    ⟨ringed (ringA false 0) fun x => { x with tiles := [(0, tileA)] }, ringA false 0, rfl, 0, by decide, by decide⟩⟩
set_option maxRecDepth 4000 in
theorem witness_RingReads (claimed closed asked : Bool) :
    ∃ (s : State) (a : Word) (y : Core) (c : Nat) (g : Ring), s.me.src1 (.reg 1) = .ok (a, y) ∧
      s.me.ctl.reply = none ∧ s.me.ctl.h[(0 : Fin 16)] = .null ∧ s.ringAt a 15 = .ok (c, g) ∧ g.next[(0 : Fin 64).val]? = some 0 ∧
      g.claimed.toNat = claimed.toNat ∧ g.closed = closed ∧ s.me.ctl.asked = asked := by
  refine ⟨ringed (ringA closed (if claimed then 1 else 0)) fun x => { x with ctl := { x.ctl with asked := asked } }, 0, _, 0,
    ringA closed (if claimed then 1 else 0), rfl, rfl, rfl, ?_, rfl, ?_, rfl, rfl⟩
  · cases claimed <;> cases closed <;> cases asked <;> rfl
  · cases claimed <;> rfl
/-- Core 0 of a partition with a group record at offset 64 of its scratchpad and the list of its one member at 128. -/
def recorded : State :=
  (parted (with0 fun x => { x with ctl := { x.ctl with s := (x.ctl.s.set 1 4095).set 2 0x20_0000_0040 }, tlb := [flat]
                                   csr := { x.csr with ncores := 1 } })).writeRuns
    [(spadKey 0 64, leBytes 8 0x10033 ++ leBytes 8 0x20_0000_0080), (spadKey 0 128, leBytes 4 0)]
/-- A group load that waits for its leaf of core 0. -/
def gloadA (leaves : List Leaf) (d : GDest) : GLoad :=
  { plainGroup 0 false false groupA 64 .i64 d with id := 7, leaves := leaves }

theorem readVirtual_one (s : State) (c : Nat) (kernel : Bool) (va : Word) (n k : Nat) (pte : Word)
    (h1 : s.translate c va n .load kernel = (s, .ok k pte)) (h2 : s.ueOf va k n = none) (h3 : s.countFrame k n = s) :
    s.readVirtual c kernel [(.virt va, n)] = (s, .ok (s.readBytes k n)) := by
  simp [State.readVirtual, EAddr.info, h1, h2, h3]
theorem recorded_head : recorded.readVirt recorded.cur recorded.me.ctl.kernel 0x20_0000_0040 16 =
    (recorded, .ok (leBytes 8 0x10033 ++ leBytes 8 0x20_0000_0080)) := by
  rw [State.readVirt, show (EAddr.virt 0x20_0000_0040).pieces 16 = [(.virt 0x20_0000_0040, 16)] by decide,
    readVirtual_one recorded _ _ 0x20_0000_0040 16 (spadKey 0 64) 0x1F rfl rfl rfl,
    show recorded.readBytes (spadKey 0 64) 16 = (leBytes 8 0x10033 ++ leBytes 8 0x20_0000_0080) by decide]
theorem recorded_list : recorded.readVirt recorded.cur recorded.me.ctl.kernel 0x20_0000_0080 4 = (recorded, .ok (leBytes 4 0)) := by
  rw [State.readVirt, show (EAddr.virt 0x20_0000_0080).pieces 4 = [(.virt 0x20_0000_0080, 4)] by decide,
    readVirtual_one recorded _ _ 0x20_0000_0080 4 (spadKey 0 128) 0x1F rfl rfl rfl,
    show recorded.readBytes (spadKey 0 128) 4 = leBytes 4 0 by decide]
theorem recorded_ncores : recorded.me.csr.ncores = 1 := rfl
theorem recorded_words : words32 (leBytes 4 0) = [0] := by decide
set_option maxRecDepth 4000 in
theorem witness_Groups :
    (∃ (s s1 s2 : State) (id rec_ : Word) (y : Core) (head list : List Byte) (k : Nat),
      s.me.src2 (.reg 1) (.reg 2) = .ok (id, rec_, y) ∧ id.toNat < 4096 ∧ rec_.toNat % 8 = 0 ∧ s.me.accessReady = true ∧ s.released s.cur s.nextId = true ∧
      s.checkReads s.me.ctl.kernel rec_ 16 = .ok () ∧ s.me.lost = none ∧ s.group? s.cur id.toNat = none ∧ s.partOfCore s.cur = some k ∧
      s.readVirt s.cur s.me.ctl.kernel rec_ 16 = (s1, .ok head) ∧ groupWordOk (at_ head 0 8) = true ∧
      (wordAt head 8).toNat % 4 = 0 ∧
      s.noneAtAll s.cur (s.keysOf s.cur s.me.ctl.kernel .load (.virt rec_) 16) = true ∧
      s.noneAtAll s.cur (s.keysOf s.cur s.me.ctl.kernel .load (.virt (wordAt head 8)) (4 * (at_ head 0 8 / 2 ^ 16 % 2 ^ 17))) = true ∧
      s.checkReads s.me.ctl.kernel (wordAt head 8) (4 * (at_ head 0 8 / 2 ^ 16 % 2 ^ 17)) = .ok () ∧
      s1.readVirt s.cur s.me.ctl.kernel (wordAt head 8) (4 * (at_ head 0 8 / 2 ^ 16 % 2 ^ 17)) = (s2, .ok list) ∧
      (∀ m ∈ words32 list, m = 0xFFFFFFFF ∨ m.toNat < s.me.csr.ncores.toNat) ∧
      (s.part k).members + at_ head 0 8 / 2 ^ 16 % 2 ^ 17 ≤ 1048576) ∧
    (∀ id ∈ [5, 6], ∃ (s : State) (y : Core), s.me.src1 (.reg 1) = .ok (id, y) ∧ s.partOfCore s.cur = some 0) ∧
    ((parted State.reset).part 0).groups.find 5 ≠ none ∧ (parted State.reset).groupHeld 0 5 = false ∧
    (∃ (s : State) (id n : Word) (y : Core) (g : Group), s.me.src2 (.reg 1) (.reg 2) = .ok (id, n, y) ∧ s.me.ctl.h[(0 : Fin 16)] = .null ∧
      id.toNat < 4096 ∧ s.group? s.cur id.toNat = some g ∧ s.me.ctl.drained = [] ∧ g.skip = true ∧ s.memberCores g = [some 0, none, some 1] ∧
      s.memberRing 15 0 = some (ringA false 1) ∧ s.memberRing 15 1 = none ∧ (0 : Fin 64).val < (ringA false 1).c ∧
      n.toNat < (ringA false 1).claimed.toNat ∧ (ringA false 1).next[(0 : Fin 64).val]? = some n) ∧
    (∃ (s : State) (id n : Word) (y : Core) (g : Group), s.me.src2 (.reg 1) (.reg 2) = .ok (id, n, y) ∧
      s.group? s.cur id.toNat = some g ∧ s.memberRing 15 0 = some (ringA true 1) ∧ (ringA true 1).closed = true ∧
      (ringA true 1).claimed.toNat ≤ n.toNat) ∧
    (∃ (s : State) (id n : Word) (y : Core) (g : Group), s.me.src2 (.reg 1) (.reg 2) = .ok (id, n, y) ∧
      s.group? s.cur id.toNat = some g ∧ s.memberRing 15 0 = some (ringA false 1) ∧ (ringA false 1).claimed.toNat ≤ n.toNat ∧
      (ringA false 1).closed = false ∧ s.me.ctl.drained = []) ∧
    (∀ m ∈ [0, 1, 2], ∃ (s : State) (g : GLoad) (w : BitVec 32), s.gloads[0]? = some g ∧ g.fault = none ∧ s.gloadReady g = true ∧
      s.poisonedSlot g = none ∧ g.leaves[m]? = some .unread ∧ g.group.members[m]? = some w ∧
      (m ≠ 1 → w ≠ 0xFFFFFFFF ∧ g.slots[m]? = some (some 64) ∧ ∃ d, s.rankCore g.core w.toNat = some d ∧ s.reaches g.core d = true ∧
        s.mayGo g.core (spadKey d 64) = true ∧ s.behindSent g.core (pkgOf d) g.id s.msgs s.chunks = false)) ∧
    (∃ (s : State) (g : GLoad), s.gloads[0]? = some g ∧ g.fault = none ∧ s.poisonedSlot g = none ∧ (∀ l ∈ g.leaves, l ≠ .unread) ∧
      g.dest = .queue (.lq 0 7)) ∧
    (∃ (s : State) (g : GLoad) (b : BlkLoad) (v : Word), s.gloads[0]? = some g ∧ g.fault = none ∧ s.poisonedSlot g = none ∧
      (∀ l ∈ g.leaves, l ≠ .unread) ∧ g.dest = .blocking ∧ (s.core g.core).ctl.blk = some b ∧ b.id = g.id ∧ b.left = 0 ∧
      g.outcome.datum = .value v) := by
  refine ⟨⟨recorded, recorded, recorded, 4095, 0x20_0000_0040, _, _, leBytes 4 0, 0, rfl, by decide, by decide, by decide, by decide, rfl,
      rfl, rfl, rfl, recorded_head, by decide, by decide, rfl, rfl, rfl, recorded_list,
      fun m hm => .inr (by rw [recorded_words] at hm; rw [recorded_ncores, List.mem_singleton.mp hm]; decide), by decide⟩, fun id h => ?_, by decide, by decide,
    ⟨ringed (ringA false 1) fun x => { x with ctl := { x.ctl with s := x.ctl.s.set 1 5 } }, _, _, _, _, rfl, rfl, by decide, rfl, rfl, rfl, rfl, rfl,
      rfl, by decide, by decide, rfl⟩,
    ⟨ringed (ringA true 1) fun x => { x with ctl := { x.ctl with s := (x.ctl.s.set 1 5).set 2 1 } }, _, _, _, _, rfl, rfl, rfl, rfl, by decide⟩,
    ⟨ringed (ringA false 1) fun x => { x with ctl := { x.ctl with s := (x.ctl.s.set 1 5).set 2 1 } }, _, _, _, _, rfl, rfl, rfl, by decide, rfl, rfl⟩,
    fun m h => ?_,
    ⟨{ State.reset with gloads := [gloadA [.value 5, .empty, .value 6] (.queue (.lq 0 7))] }, _, rfl, rfl, rfl, by decide, rfl⟩,
    ⟨{ with0 blocked with gloads := [gloadA [.value 5, .empty, .value 6] .blocking] }, _, _, _, rfl, rfl, rfl, by decide, rfl, rfl, rfl, rfl, rfl⟩⟩
  · simp only [List.mem_cons, List.not_mem_nil, or_false] at h
    obtain rfl | rfl := h
    · exact ⟨parted (regs 5 0), _, rfl, rfl⟩
    · exact ⟨parted (regs 6 0), _, rfl, rfl⟩
  · simp only [List.mem_cons, List.not_mem_nil, or_false] at h
    let s : State := { parted State.reset with gloads := [gloadA [.unread, .unread, .unread] .blocking] }
    obtain rfl | rfl | rfl := h
    · exact ⟨s, _, _, rfl, rfl, rfl, rfl, rfl, rfl, fun _ => ⟨by decide, rfl, 0, by decide, by decide, by decide⟩⟩
    · exact ⟨s, _, _, rfl, rfl, rfl, rfl, rfl, rfl, fun h => absurd rfl h⟩
    · exact ⟨s, _, _, rfl, rfl, rfl, rfl, rfl, rfl, fun _ => ⟨by decide, rfl, 1, by decide, by decide, by decide⟩⟩
theorem witness_FixedOrderSums :
    (∃ g : GLoad, g.group.op = 3 ∧ (g.group.acc = 2 ∨ g.group.acc = 3) ∧ g.ty.isInt = true ∧ g.leaves.length ≤ 65536 ∧
      (∀ l ∈ g.leaves, l = .empty ∨ ∃ v, l = .value v) ∧ (g.leaves.filterMap fun l => match l with | .value v => some v | _ => none) = [5, 6]) ∧
    (∃ g : GLoad, (∀ l ∈ g.leaves, l = .empty ∨ ∃ v, l = .value v) ∧
      (g.leaves.filterMap fun l => match l with | .value v => some v | _ => none) = []) ∧
    (∃ (m : Mask) (f : Nat → Word) (r : Lane),
      treeFold (foldNode (laneBin .add .i8 .rne)) 6 ((upto 64).map fun i => if active m i then some (plainLane (f i)) else none) = some r) :=
  ⟨⟨gloadA [.value 5, .empty, .value 6] .blocking, rfl, .inr rfl, rfl, by decide, by simp [gloadA, plainGroup], rfl⟩,
    ⟨gloadA [.empty] .blocking, by simp [gloadA, plainGroup], rfl⟩, ⟨0xC000000000000001, fun i => BitVec.ofNat 64 i, _, rfl⟩⟩
/-- A launch of cores 0 and 1 with one level, the package, of 2^2 records in a node queue at `qbase`. -/
def launchA : Launch :=
  { addr := 0x20_0000_2000, entry := 0x20_0000_3000, frame := 7, n := 2, levels := [0x203], flags := 0, msivec := 0, caddr := 0, qbase := 0x20_0000_1000
    slice := 1, prep := [], pkg := 0, func := 0 }
/-- A partition of cores 0 and 1 with a launch that has started, its translation tables at 0x20_0010_0000 and
0x20_0011_0000 with one leaf of 64 GiB. -/
def launched (f : Core → Core) (w : List (Nat × List Byte)) : State :=
  let s := parted (with0 f)
  State.writeRuns { s with
    pkgs := [(0, { Pkg.reset with funcs := [(0, { Func.reset with part := { PEntryTab.reset with
      valid := true, coreset := cores01, ptbase := 0x20_0010_0000, btblocks := 2 } })] })]
    parts := [(0, { Part.reset with launch := some launchA, started := true, groups := [(5, groupA)] })] }
    ([(spadKey 0 0x10_0000, leBytes 8 0x20_0011_0001), (spadKey 0 0x11_0010, leBytes 8 0x20_0000_031F), (spadKey 0 0x1000, leBytes 8 0 ++ leBytes 8 0)] ++ w)
/-- Core 0 that spawns into, or joins with, node 0. -/
def tasker (a b : Word) (x : Core) : Core :=
  { x with ctl := { x.ctl with s := (x.ctl.s.set 1 a).set 2 b }, tlb := [flat], csr := { x.csr with ncores := 2 } }
/-- The words of a join frame at offset 64 with counter `n`: the record, the counter, the node. -/
def joinFrame (n : Nat) : List (Nat × List Byte) := [(spadKey 0 64, leBytes 8 0x20_0000_0100 ++ leBytes 8 n ++ leBytes 8 0), (spadKey 0 0x100, zeros 32)]
set_option maxRecDepth 4000 in
theorem witness_Spawn :
    (∃ (s : State) (id w0 w1 w2 w3 : Word) (y : Core),
      s.me.srcs [.reg 1, .reg 2, .reg (2 + 1), .reg (2 + 2), .reg (2 + 3)] = .ok ([id, w0, w1, w2, w3], y) ∧ s.nodeQueue s.cur id = none) ∧
    (∀ tail ∈ [3, 4], ∃ (s : State) (id w0 w1 w2 w3 : Word) (y : Core) (q : NodeQueue) (k : QueueKeys),
      s.me.srcs [.reg 1, .reg 2, .reg (2 + 1), .reg (2 + 2), .reg (2 + 3)] = .ok ([id, w0, w1, w2, w3], y) ∧
      s.nodeQueue s.cur id = some q ∧ s.awaitRelease q.scope = .ok () ∧ (withMe s y).queueKeys s.cur q = .ok k ∧
      2 ^ q.log = 4 ∧ (withMe s y).queueLoad k = tail ∧ (withMe s y).writeHeld k.tail = false ∧
      ∃ r, k.record ((withMe s y).readWord k.tail).toNat = .ok r ∧ (withMe s y).writeHeld r = false) := by
  refine ⟨⟨launched (tasker 1 0) [], _, _, _, _, _, _, rfl, by decide⟩, fun tail h => ?_⟩
  simp only [List.mem_cons, List.not_mem_nil, or_false] at h
  obtain rfl | rfl := h
  · exact ⟨launched (tasker 0 0) [(spadKey 0 0x1008, leBytes 8 3)], _, _, _, _, _, _, _, _, rfl, rfl, rfl, rfl, rfl, by decide, by decide, _, rfl, by decide⟩
  · exact ⟨launched (tasker 0 0) [(spadKey 0 0x1008, leBytes 8 4)], _, _, _, _, _, _, _, _, rfl, rfl, rfl, rfl, rfl, by decide, by decide, _, rfl, by decide⟩
/-- Core 0 that joins a frame whose counter is 1. -/
def joiner : State := launched (tasker 0x20_0000_0040 0) (joinFrame 1)
theorem frameWord_one (s : State) (va : Word) (need : Need) (k : Nat) (pte : Word)
    (h : s.translate s.cur va 8 need s.me.ctl.kernel = (s, .ok k pte)) (hc : s.countFrame k 8 = s) :
    s.frameWord va need = (s, .ok k) := by
  simp [State.frameWord, h, hc]
set_option maxRecDepth 4000 in
theorem witness_Join :
    (∀ n ∈ [0, 1, 2], ∃ (s s1 s2 s3 : State) (f : Word) (y : Core) (k0 k1 k2 : Nat),
      s.me.src1 (.reg 1) = .ok (f, y) ∧ f.toNat % 8 = 0 ∧ s.frameWord f .load = (s1, .ok k0) ∧
      s1.frameWord (f + 8) .both = (s2, .ok k1) ∧ s2.frameWord (f + 16) .load = (s3, .ok k2) ∧
      s.checkOverlap k0 8 false f = .ok () ∧ s.checkOverlap k1 8 true (f + 8) = .ok () ∧
      s.checkOverlap k2 8 false (f + 16) = .ok () ∧ s3.poisoned k1 8 = false ∧ s3.writeHeld k1 = false ∧
      s3.noneAtAll s.cur [(k0, 8), (k1, 8), (k2, 8)] = true ∧ s.awaitRelease (match s3.nodeQueue s.cur (s3.readWord k2) with | some q => q.scope | none => .dom) = .ok () ∧
      (s3.readWord k1).toNat = n) ∧
    (∃ (s s4 : State) (q : NodeQueue) (bytes : List Byte) (k : QueueKeys) (r : Nat),
      (s.readWord (spadKey 0 72)).toNat = 1 ∧
      s.noneAtAll s.cur (s.keysOf s.cur s.me.ctl.kernel .load (.virt (s.readWord (spadKey 0 64))) 32) = true ∧ s.poisoned (spadKey 0 64) 8 = false ∧ s.poisoned (spadKey 0 80) 8 = false ∧
      s.nodeQueue s.cur (s.readWord (spadKey 0 80)) = some q ∧
      s.checkReads s.me.ctl.kernel (s.readWord (spadKey 0 64)) 32 = .ok () ∧
      s.readVirtual s.cur s.me.ctl.kernel ((EAddr.virt (s.readWord (spadKey 0 64))).pieces 32) = (s4, .ok bytes) ∧
      s4.queueKeys s.cur q = .ok k ∧ s4.queueLoad k < 2 ^ q.log ∧ k.record (s4.readWord k.tail).toNat = .ok r ∧
      s4.writeHeld r = false ∧ s4.writeHeld k.tail = false) := by
  refine ⟨fun n h => ?_, joiner, joiner, _, zeros 32, _, _, by decide, rfl, by decide, by decide, rfl, rfl, ?_, rfl, by decide, rfl, by decide, by decide⟩
  · simp only [List.mem_cons, List.not_mem_nil, or_false] at h
    obtain rfl | rfl | rfl := h
    · exact ⟨launched (tasker 0x20_0000_0040 0) (joinFrame 0),
        launched (tasker 0x20_0000_0040 0) (joinFrame 0), launched (tasker 0x20_0000_0040 0) (joinFrame 0), launched (tasker 0x20_0000_0040 0) (joinFrame 0),
        0x20_0000_0040, _, _, _, _, rfl, by decide, frameWord_one _ _ _ (spadKey 0 64) 0x1F rfl rfl,
        frameWord_one _ _ _ (spadKey 0 72) 0x1F rfl rfl, frameWord_one _ _ _ (spadKey 0 80) 0x1F rfl rfl, rfl, rfl, rfl,
        by decide, by decide, rfl, rfl, by decide⟩
    · exact ⟨joiner, joiner, joiner, joiner, 0x20_0000_0040, _, _, _, _, rfl, by decide, frameWord_one _ _ _ (spadKey 0 64) 0x1F rfl rfl,
        frameWord_one _ _ _ (spadKey 0 72) 0x1F rfl rfl, frameWord_one _ _ _ (spadKey 0 80) 0x1F rfl rfl, rfl, rfl, rfl,
        by decide, by decide, rfl, rfl, by decide⟩
    · exact ⟨launched (tasker 0x20_0000_0040 0) (joinFrame 2),
        launched (tasker 0x20_0000_0040 0) (joinFrame 2), launched (tasker 0x20_0000_0040 0) (joinFrame 2), launched (tasker 0x20_0000_0040 0) (joinFrame 2),
        0x20_0000_0040, _, _, _, _, rfl, by decide, frameWord_one _ _ _ (spadKey 0 64) 0x1F rfl rfl,
        frameWord_one _ _ _ (spadKey 0 72) 0x1F rfl rfl, frameWord_one _ _ _ (spadKey 0 80) 0x1F rfl rfl, rfl, rfl, rfl,
        by decide, by decide, rfl, rfl, by decide⟩
  · have h : (EAddr.virt (joiner.readWord (spadKey 0 64))).pieces 32 = [(.virt 0x20_0000_0100, 32)] := by decide
    rw [h, readVirtual_one joiner _ _ 0x20_0000_0100 32 (spadKey 0 0x100) 0x1F rfl rfl rfl,
      show joiner.readBytes (spadKey 0 0x100) 32 = zeros 32 by decide]
set_option maxRecDepth 4000 in
theorem witness_Enq :
    (∃ (s : State) (rank a : Word) (y : Core) (d : Nat), s.me.src2 (.reg 1) (.reg 2) = .ok (rank, a, y) ∧ s.rankTarget rank = .ok d ∧
      s.awaitRelease .dom = .ok () ∧ a.toNat % 8 ≠ 0) ∧
    (∃ (s : State) (rank a : Word) (y : Core), s.me.src2 (.reg 1) (.reg 2) = .ok (rank, a, y) ∧ s.rankTarget rank = .ok 0 ∧
      s.awaitRelease .dom = .ok () ∧ a.toNat % 8 = 0 ∧ (s.core 0).queues[(3 : Fin 6)].entries.length = 15 ∧
      (s.core 0).queues[(5 : Fin 6)].entries.length = 8) :=
  ⟨⟨launched (tasker 0 4) [], _, _, _, 0, rfl, rfl, rfl, by decide⟩,
    ⟨launched (fun x => { tasker 0 8 x with queues := (x.queues.set 3 (chains 15)).set 5 (chains 8) }) [], _, _, _, rfl, rfl, rfl,
      by decide, by decide, by decide⟩⟩
/-- A partition with two blocks, whose store holds a table. -/
def blocks (keys counts : Tab Nat) : State :=
  (launched (fun x => { x with ctl := { x.ctl with s := (x.ctl.s.set 1 0xFFFF_FFFF_FFFF).set 2 5 } }) []).modPkg 0 fun p =>
    { p with bt := [(0, { keys := keys, counts := counts })] }
set_option maxRecDepth 4000 in
theorem witness_BlockTable :
    (∀ t : Tab Nat × Tab Nat, ∃ (s : State) (k k2 : Word) (y : Core), s.awaitRelease .pkg = .ok () ∧ k.toNat < 2 ^ 48 ∧ k2.toNat < 2 ^ 48 ∧
      s.me.srcs [.reg 1, .reg 2] = .ok ([k, k2], y) ∧ s.me.srcs [.reg 1] = .ok ([k], y) ∧ k = 0xFFFF_FFFF_FFFF ∧ k2 = 5 ∧
      s.btStore s.cur = { keys := t.1, counts := t.2 } ∧ s.btBlocks s.cur = 2) ∧
    (let b : BtStore := { keys := [(5, 1)], counts := [(1, 65534)] }
     b.keys.find 5 = some 1 ∧ b.counts.find 1 = some 65534 ∧ b.keys.find 0xFFFF_FFFF_FFFF = none ∧ b.lowest 2 = some 0) ∧
    (let b : BtStore := { keys := [(5, 0)], counts := [(0, 1), (1, 65535)] }; b.lowest 2 = none ∧ 65535 ≤ (b.counts.find 1).getD 0) := by
  have f (t : Tab Nat × Tab Nat) : (blocks t.1 t.2).funcOf 0 = some 0 := rfl
  have c (t : Tab Nat × Tab Nat) : (blocks t.1 t.2).cur = 0 := rfl
  refine ⟨fun t => ⟨blocks t.1 t.2, 0xFFFF_FFFF_FFFF, 5, _, rfl, by decide, by decide, rfl, rfl, rfl, rfl, ?_, ?_⟩, by decide, by decide⟩
  · rw [c, State.btStore, f]; rfl
  · rw [c, State.btBlocks, f]; rfl
/-- The address word of a local offset. -/
def locW (off : Nat) : Word := BitVec.ofNat 64 (2 ^ 61 + off)
/-- A carter word on cq3 with parameters. -/
def carterA (p0 p1 p2 p3 : Word) : CarterWord := { q := 3, h := 0, i := true, w := true, p := { p0 := p0, p1 := p1, p2 := p2, p3 := p3 }, follow := none }
/-- A mill word on mq1 with parameters. -/
def millA (p0 p1 p2 p3 : Word) : MillWord := { q := 1, i := true, w := true, p := { p0 := p0, p1 := p1, p2 := p2, p3 := p3 } }
/-- The conditions under which a unit is pushed, with a queue that has room, or none. -/
def pushable (s : State) (u : EUnit) (room : Bool) : Bool :=
  match s.me.ctl.resolveUnit u with
  | .ok v => decide (v.check (s.me.csr.mitl.setWidth 16) = .ok ()) && (s.checkRefs v).isOk && decide (s.me.checkForward v = .ok ()) &&
      s.me.lost.isNone && s.me.accessReady &&
      decide ((if room then 0 else (if u.q.val < 4 then 16 else 8)) = (s.me.queues[v.q]).entries.length)
  | .error _ => false
/-- A core with iterations set, and its queues empty, or all full. -/
def pushing (room : Bool) : State :=
  tiled .published (.see t0) fun x => { x with csr := { x.csr with mitl := 1, pseq := x.csr.pseq.set 0 1 }, queues := if room then x.queues else Vector.ofFn fun q => chains (if q.val < 4 then 16 else 8) }
/-- Parameters for each carter operation. -/
def dense (o : CarterOp) : CarterWord := match o with
  | .gath _ | .scat => carterA (locW 0) (locW 64) 64 (locW 128)
  | .pin _ => carterA 0x10_0000 0 64 0
  | _ => carterA (locW 0) (locW 64) 64 0
/-- Parameters for each mill operation. -/
def millW (m : MillCmd) : MillWord := match m with
  | .lds _ _ | .pwl _ => millA (locW 0) 0 0 0
  | .mmr _ _ _ _ => millA (locW 0) 0 0 0
  | .mm _ => millA (locW 0) (locW 0x1000) 1 0
  | .relax _ _ _ | .relaxb _ => millA (locW 0) (locW 0x8000) (locW 0x10000) 0
  | .chain _ _ => millA (locW 0) (locW 0x1000) 1 0
/-- A queue word on mq1. -/
def qwA : QWord := { q := 5, i := true, w := true }
theorem pushable_holds (s : State) (u0 : EUnit) (room : Bool) (h : pushable s u0 room = true) :
    ∃ (u : EUnit) (fill see : Option TileRef), s.me.ctl.resolveUnit u0 = .ok u ∧ u.check (s.me.csr.mitl.setWidth 16) = .ok () ∧
      s.checkRefs u = .ok (fill, see) ∧ s.me.checkForward u = .ok () ∧ s.me.lost = none ∧ s.me.accessReady = true ∧
      (if room then 0 else (if u0.q.val < 4 then 16 else 8)) = (s.me.queues[u.q]).entries.length := by
  unfold pushable at h
  split at h
  · next v hv =>
    simp only [Bool.and_eq_true, decide_eq_true_eq, Option.isNone_iff_eq_none] at h
    obtain ⟨⟨⟨⟨⟨h1, h2⟩, h3⟩, h4⟩, h5⟩, h6⟩ := h
    match hr : s.checkRefs v with
    | .ok (a, b) => exact ⟨v, a, b, hv, h1, hr, h3, h4, h5, h6⟩
    | .error e => rw [hr] at h2; cases h2
  · cases h
theorem witness_CarterPushes :
    ∀ o ∈ [CarterOp.copy, .gath false, .gath true, .scat, .fill true, .put, .get, .pin false, .pin true, .red .add .i32, .red .fmin .f64],
      pushable (pushing true) (carterUnit (dense o) o) true = true ∧ pushable (pushing false) (carterUnit (dense o) o) false = true := by
  decide
theorem witness_CarterPushesFollow :
    pushable (pushing true) (carterUnit { dense .copy with p := { p0 := locW 0, p1 := locW 64, p2 := 64, p3 := 0 }
                                                           follow := some { word := millW (.pwl 3), cmd := .pwl 3 } } .copy) true = true := by
  decide
theorem witness_MillAndQueuePushes :
    (∀ m ∈ [MillCmd.lds 1 .f32, .mm 0, .mmr 1 15 63 1, .relax 0 63 127, .relaxb 1, .pwl 3, .chain 0 7],
      pushable (pushing true) (millUnit (millW m) m) true = true ∧ pushable (pushing false) (millUnit (millW m) m) false = true) ∧
    ∀ o ∈ [(EOp.qwait 0, ({ p0 := 1, p1 := 0, p2 := 0, p3 := 0 } : Params)), (.qfence 63, noParams), (.qsig, noParams)],
      pushable (pushing true) (queueUnit qwA o.1 o.2) true = true ∧ pushable (pushing false) (queueUnit qwA o.1 o.2) false = true := by
  decide
/-- A command of core 0 with parameters. -/
def cmdA (op : CmdOp) (p0 p1 p2 p3 : Word) : Cmd :=
  { op := op, p := { p0 := p0, p1 := p1, p2 := p2, p3 := p3 }, i := true, w := true, follow := none, issuer := 0, num := 1, order := 0
    before := 0, era := 0, cap := State.reset.me.capture false, hfill := none, hsee := none, after := { upTo := [], but := [] } }
/-- Core 0 at work, with one entry in a queue, its running state, and another change. -/
def engine (q : Fin 6) (e : QEntry) (r : Option Run) (f : Core → Core) : State :=
  with0 fun x => f { x with mode := .normal, queues := x.queues.set q { entries := [e], run := r, since := none } }
/-- A copy of 64 bytes at offset 64 to offset 0. -/
def copyA : Cmd := cmdA (.carter .copy) (locW 64) (locW 0) 64 0
theorem witness_QueueStarts :
    (∃ (s : State) (x : Cmd), ((s.core 0).equeue 5).headCmd = some x ∧ ((s.core 0).equeue 5).run = none ∧ s.canStart 0 5 x = false) ∧
    (∀ op ∈ [CmdOp.qsig, .qwait 0 0, .qfence [(0, 0)], .carter .copy, .mill (.pwl 3)], ∃ (s : State) (x : Cmd),
      ((s.core 0).equeue 5).headCmd = some x ∧ ((s.core 0).equeue 5).run = none ∧ s.canStart 0 5 x = true ∧ x.op = op ∧
      ((s.core 0).equeue 5).entries.head? = some (.cmd x) ∧ x.follow = none ∧ x.hfill = none ∧ x.hsee = none) ∧
    (∃ (s : State) (x : Cmd), ((s.core 0).equeue 0).headCmd = some x ∧ ((s.core 0).equeue 0).run = none ∧ s.canStart 0 0 x = true ∧
      (let s0 := s.modQueue 0 0 fun e => { e with since := some 0 }
       let r : Run := { Run.fresh with fmts := s.ownFormats 0 }
       s0.startOverlap 0 0 x = .ok () ∧ ∃ s1 r1, s0.startWork 0 0 x r = (s1, r1, none))) ∧
    (∃ (s : State) (x : Cmd), ((s.core 0).equeue 4).headCmd = some x ∧ s.canStart 0 4 x = true ∧
      (let s0 := s.modQueue 0 4 fun e => { e with since := some 0 }
       let r : Run := { Run.fresh with fmts := s.ownFormats 0 }
       s0.startOverlap 0 4 x = .ok () ∧ ∃ s1 r1 t, s0.startWork 0 4 x r = (s1, r1, some t) ∧ r1.pos = 0)) ∧
    (∃ (s : State) (x : Cmd) (t : Trap), ((s.core 0).equeue 0).headCmd = some x ∧ s.canStart 0 0 x = true ∧
      (s.modQueue 0 0 fun e => { e with since := some 0 }).startOverlap 0 0 x = .error t) := by
  refine ⟨⟨with0 fun x => { x with queues := x.queues.set 5 { entries := [.cmd (cmdA .qsig 0 0 0 0)], run := none, since := none } }, _, rfl, rfl, by decide⟩,
    fun op h => ?_, ⟨engine 0 (.cmd copyA) none fun x => x, _, rfl, rfl, by decide, rfl, _, _, rfl⟩,
    ⟨engine 4 (.cmd (cmdA (.mill (.mmr 0 3 0 0)) (locW 0) 0 0 0)) none fun x => x, _, rfl, by decide, rfl, _, _, _, rfl, rfl⟩,
    ⟨engine 0 (.cmd { copyA with order := 9, cap := { copyA.cap with det := true } }) none fun x =>
      { x with past := [{ q := 1, num := 1, order := 8, reads := [], writes := [(spadKey 0 0, 64)] }] }, _, _, rfl, by decide, rfl⟩⟩
  refine ⟨engine 5 (.cmd (cmdA op 0 0 0 0)) none fun x => x, _, rfl, rfl, ?_, rfl, rfl, rfl, rfl, rfl⟩
  revert h; revert op; decide
/-- The word `q.sig` on cq3 with I and W. -/
def sigWord : Word := 0x000E460000600000
set_option maxRecDepth 4000 in
theorem witness_QueueCompletions :
    (∀ op ∈ [CmdOp.qwait 5 9, .qwait 0 0, .qfence [(0, 0)]], ∃ (s : State) (x : Cmd) (r : Run), ((s.core 0).equeue 5).working = some (x, r) ∧
      ((s.core 0).equeue 5).entries.head? = some (.cmd x) ∧ x.op = op ∧ x.follow = none ∧ x.hfill = none ∧ x.hsee = none ∧
      seqReached (s.core 0).csr.seq[(0 : Fin 6)] 0 = true ∧ seqReached (s.core 0).csr.seq[(0 : Fin 6)] 1 = false) ∧
    (∀ follow ∈ [none, some { word := millW (.pwl 3), cmd := .pwl 3 }], ∀ room ∈ [7, 8], ∃ (s : State) (x : Cmd) (r : Run),
      ((s.core 0).equeue 3).entries.head? = some (.cmd x) ∧ ((s.core 0).equeue 3).run = some r ∧ r.done = true ∧ r.halted = none ∧
      (s.core 0).engineRuns = true ∧ x.follow = follow ∧ x.hfill = none ∧ x.hsee = none ∧ x.cap.nantrap = false ∧
      (s.core 0).queues[millQ 1].entries.length = room) ∧
    (∃ (s s1 : State) (a : EAddr) (u : EUnit) (link : EAddr), ((s.core 0).equeue 3).entries = [.chain (locW 64) 0 false 0 0 none none 0] ∧
      ((s.core 0).equeue 3).run = none ∧ (s.core 0).engineRuns = true ∧ chainAddr (locW 64) = some a ∧
      s.chainUnit 0 3 false a = (s1, .ok (u, link)) ∧ s1.core 0 = s.core 0) ∧
    (∃ (s s1 : State) (a : EAddr) (t : Trap), chainAddr (locW 64) = some a ∧ s.chainUnit 0 3 false a = (s1, .error t)) ∧
    (∃ (s : State) (x : Cmd) (r : Run), ((s.core 0).equeue 3).working = some (x, r) ∧ x.op = .carter (.pin true) ∧
      x.total (.pin true) ≤ 4096 * r.pos ∧ s.swapOf r.touched = false) ∧
    (∃ (s : State) (x : Cmd) (r : Run), ((s.core 0).equeue 3).working = some (x, r) ∧ s.swapOf r.touched = true) ∧
    (∃ (s : State) (rank : Word) (y : Core) (d : Nat), s.me.ctl.kernel = true ∧ s.me.src1 (.reg 1) = .ok (rank, y) ∧ s.rankTarget rank = .ok d) ∧
    (∃ (s : State) (x : Cmd) (r : Run), ((s.core 0).equeue 3).headCmd = some x ∧ ((s.core 0).equeue 3).run = some r ∧ r.halted ≠ none ∧
      r.fmts ≠ []) := by
  refine ⟨fun op h => ⟨engine 5 (.cmd (cmdA op 0 0 0 0)) (some .fresh) fun x => x, _, _, rfl, rfl, rfl, rfl, rfl, rfl,
      show seqReached (0 : BitVec 32) 0 = true from by decide, show seqReached (0 : BitVec 32) 1 = false from by decide⟩,
    fun follow _ room _ => ⟨engine 3 (.cmd { copyA with follow := follow }) (some { Run.fresh with done := true }) fun x =>
      { x with queues := x.queues.set 5 (chains room) }, _, _, rfl, rfl, rfl, rfl, by rfl, rfl, rfl, rfl, rfl, List.length_replicate ..⟩,
    ⟨(engine 3 (.chain (locW 64) 0 false 0 0 none none 0) none fun x => x).write (spadKey 0 64) (leBytes 8 sigWord.toNat), _, _, _, _, rfl, rfl, by decide,
      rfl, rfl, rfl⟩,
    ⟨(engine 3 (.chain (locW 64) 0 false 0 0 none none 0) none fun x => x).write (spadKey 0 64) (leBytes 8 0), _, _, _, rfl, rfl⟩,
    ⟨engine 3 (.cmd (cmdA (.carter (.pin true)) 0x10_0000 0 4096 0)) (some { Run.fresh with pos := 1 }) fun x => x, _, _, rfl, rfl, by decide, rfl⟩, ?_,
    ⟨launched (fun x => { tasker 1 0 x with ctl := { (tasker 1 0 x).ctl with kernel := true } }) [], _, _, 1, rfl, rfl, rfl⟩,
    ⟨engine 3 (.cmd copyA) (some { Run.fresh with halted := some { cause := .perm, info := 0 }, fmts := [(0, 0)] }) fun x => x, _, _, rfl, rfl, by decide, by decide⟩⟩
  · exact ⟨(engine 3 (.cmd (cmdA (.carter (.pin true)) 0x10_0000 0 4096 0)) (some { Run.fresh with touched := [2 ^ 26] }) fun x => x).modDie 0 0
      fun d => { d with swapping := some (0, 1) }, _, _, rfl, rfl⟩
/-- Core 0 with an open chain on cq3 whose next word, at offset 64, is `w`. -/
def openChain (w : Word) : State :=
  (engine 3 (.chain 0 0 false 0 0 (some (locW 64)) none 0) none fun x => x).write (spadKey 0 64) (leBytes 8 w.toNat)
theorem witness_ChainWords :
    (∀ w : Word, ∃ (s1 : State) (a : EAddr) (v : Word), ((openChain w).core 0).equeue 3 =
        { entries := [.chain 0 0 false 0 0 (some (locW 64)) none 0], run := none, since := none } ∧ ((openChain w).core 0).engineRuns = true ∧
      chainAddr (locW 64) = some a ∧ (openChain w).chainWord 0 false a = (s1, .ok v) ∧ v = (openChain w).readWord (spadKey 0 64)) ∧
    (openChain 0).readWord (spadKey 0 64) = 0 ∧ (openChain 1).readWord (spadKey 0 64) = 1 ∧ (openChain 8).readWord (spadKey 0 64) = 8 ∧
    AddrWord.of 8 = .virt 8 :=
  ⟨fun w => ⟨_, _, _, rfl, rfl, rfl, rfl, rfl⟩, by decide, by decide, by decide, rfl⟩
theorem witness_CarterWork :
    (∀ o ∈ [CarterOp.copy, .gath false, .scat, .fill true], ∃ (s : State) (x : Cmd) (r : Run), ((s.core 0).equeue 0).working = some (x, r) ∧
      x.op = .carter o ∧ (s.core 0).engineRuns = true ∧ s.servedNext 0 = some 0 ∧ r.conv = none ∧
      (o = .copy → s.converts 0 x (s.sampleAt 0 x r [x.at0, x.at1]) = false)) ∧
    (∃ (s s1 s2 s3 : State) (x : Cmd) (r : Run) (src dst : List (EAddr × Nat)) (sk dk : List (Nat × Nat)),
      ((s.core 0).equeue 0).working = some (x, r) ∧
      s.chunkRuns 0 x .copy (s.sampleAt 0 x r [x.at0, x.at1]) 0 64 = (s1, .ok (src, dst)) ∧
      s1.resolveRuns 0 x.cap.kernel .load src = (s2, .ok sk) ∧ s2.resolveRuns 0 x.cap.kernel .store dst = (s3, .ok dk) ∧
      minN (x.total .copy) 4096 = 64) ∧
    (∃ (s s1 s2 : State) (x : Cmd) (r : Run) (src dst : List (EAddr × Nat)) (t : Trap),
      ((s.core 0).equeue 0).working = some (x, r) ∧
      s.chunkRuns 0 x .copy (s.sampleAt 0 x r [x.at0, x.at1]) 0 64 = (s1, .ok (src, dst)) ∧
      s1.resolveRuns 0 x.cap.kernel .load src = (s2, .error t)) := by
  refine ⟨fun o h => ?_,
    ⟨engine 0 (.cmd copyA) (some .fresh) fun x => x, _, _, _, _, _, _, _, _, _, rfl, rfl, rfl, rfl, by decide⟩,
    ⟨engine 0 (.cmd (cmdA (.carter .copy) (2 ^ 56) (locW 0) 64 0)) (some .fresh) fun x => x, _, _, _, _, _, _, _, rfl, rfl, rfl⟩⟩
  simp only [List.mem_cons, List.not_mem_nil, or_false] at h
  obtain rfl | rfl | rfl | rfl := h
  · exact ⟨engine 0 (.cmd copyA) (some .fresh) fun x => x, _, _, rfl, rfl, by decide, by decide, rfl, fun _ => by decide⟩
  · exact ⟨(engine 0 (.cmd (cmdA (.carter (.gath false)) (locW 0) (locW 64) 64 (locW 128))) (some .fresh) fun x => x).write (spadKey 0 128) (zeros 8), _, _, rfl, rfl, by decide, by decide, rfl, nofun⟩
  · exact ⟨(engine 0 (.cmd (cmdA (.carter .scat) (locW 0) (locW 64) 64 (locW 128))) (some .fresh) fun x => x).write (spadKey 0 128) (zeros 8), _, _, rfl, rfl, by decide, by decide, rfl, nofun⟩
  · exact ⟨engine 0 (.cmd (cmdA (.carter (.fill true)) 5 (locW 64) 64 0)) (some .fresh) fun x => x, _, _, rfl, rfl, by decide, by decide, rfl, nofun⟩
/-- A mill command at work on mq0, with a ring of one slot as ring 3, its tile in a state, and another change of the mill. -/
def milled (m : MillCmd) (p0 p1 p2 : Word) (g : Ring) (st : TileSt) (f : Mill → Mill) : State :=
  engine 4 (.cmd (cmdA (.mill m) p0 p1 p2 0)) (some .fresh) fun x =>
    { x with rings := [(3, g)], tiles := [(0, { tileA with st := st })], mill := f x.mill }
/-- The mill at work for mq0. -/
def busyMill (m : Mill) : Mill := { m with active := some 0 }
/-- A row of a relaxation that is active. -/
def rowA : RelaxRow := { z := [], inj := [], fp := [], gp := [], al := [], pr := [], act := true, hist := false, st := 0, it := 0, res := 0, gam := 0 }
theorem witness_MillWork :
    (∀ m ∈ [MillCmd.lds 1 .f32, .pwl 3, .mm 1, .chain 1 7, .mmr 1 3 0 0], ∃ (s : State) (x : Cmd) (r : Run), s.millFree 0 0 = true ∧
      s.milling 0 0 = some (x, m, r)) ∧
    (∃ (s : State) (x : Cmd) (r : Run) (s1 : State) (pay hdr : List (Byte × Bool)), s.milling 0 0 = some (x, .lds 1 .f32, r) ∧
      s.millFree 0 0 = true ∧ (s.core 0).mill.active = some 0 ∧ s.planeBytes 0 x r .f32 = (s1, .ok (pay, hdr))) ∧
    (∃ (s : State) (x : Cmd) (r : Run) (s1 : State) (l : List Elem), s.milling 0 0 = some (x, .pwl 3, r) ∧
      s.millFree 0 0 = true ∧ (s.core 0).mill.active = some 0 ∧ s.operandOk 0 x.cap.kernel false r x.at0 .f32 true (fun l => holdsElem l .f32) = .ok () ∧
      s.readElems 0 x.cap.kernel r x.at0 .f32 0 192 = (s1, .ok l)) ∧
    (∃ (s : State) (x : Cmd) (r : Run), s.milling 0 0 = some (x, .chain 1 7, r) ∧ (s.core 0).engineRuns = true ∧ r.members.length ≤ 7 ∧
      (s.core 0).mill.reservedBy = none ∧ (s.core 0).mill.active = none) ∧
    (∃ (s : State) (x : Cmd) (r : Run), s.milling 0 0 = some (x, .chain 1 7, r) ∧ r.members.length = 7 ∧ (s.core 7).mill.reservedBy = none ∧
      (s.core 7).mill.active = none ∧ ((s.core 7).equeue 4).working = none ∧ (s.core 7).engineRuns = true) ∧
    (∃ (s : State) (x : Cmd) (r : Run), s.millFree 0 0 = true ∧ s.milling 0 0 = some (x, .mmr 1 3 0 0, r) ∧ r.share = some t0 ∧
      s.live t0 = true ∧ (s.tileOf t0).st = .poisoned) ∧
    (∃ (s : State) (x : Cmd) (r : Run) (g : Ring) (n : Word), s.milling 0 0 = some (x, .mmr 1 3 0 0, r) ∧
      r.share = none ∧ (s.core 0).rings.find 3 = some g ∧ g.next[(0 : Fin 64).val]? = some n ∧ n.toNat < g.claimed.toNat) ∧
    (∃ (s : State) (x : Cmd) (r : Run) (g : Ring) (n : Word), s.milling 0 0 = some (x, .mmr 1 3 0 0, r) ∧ r.share = none ∧
      (s.core 0).rings.find 3 = some g ∧ g.next[(0 : Fin 64).val]? = some n ∧ s.mmrReady 0 3 0 0 r = true ∧
      g.claimed.toNat ≤ n.toNat ∧ g.closed = true ∧ x.p.p1 = 0) ∧
    (∃ (s : State) (x : Cmd) (r : Run) (y : Relax), s.milling 0 0 = some (x, .relax 1 63 127, r) ∧ s.millFree 0 0 = true ∧
      (s.core 0).mill.relax = some y ∧ (s.core 0).mill.active = some 0 ∧ y.k < x.cap.mitl.toNat ∧ (∃ w ∈ y.rows, w.act = true) ∧
      r.trace = 0) := by
  refine ⟨?_, ⟨milled (.lds 1 .f32) (locW 0) 0 0 (ringA false 1) .published busyMill, _, _, _, _, _, rfl, by decide, rfl, rfl⟩,
    ⟨milled (.pwl 3) (locW 0) 0 0 (ringA false 1) .published busyMill, _, _, _, _, rfl, by decide, rfl, rfl, rfl⟩,
    ⟨milled (.chain 1 7) (locW 0) (locW 0x1000) 1 (ringA false 1) .published fun y => y, _, _, rfl, by decide, by decide, rfl, rfl⟩,
    ⟨{ State.reset with cores := [(0, (engine 4 (.cmd (cmdA (.mill (.chain 1 7)) 0 0 0 0)) (some { Run.fresh with members := [0, 1, 2, 3, 4, 5, 6] })
        fun x => x).core 0), (7, { Core.reset with mode := .normal })] }, _, _, rfl, rfl, rfl, rfl, rfl, by decide⟩,
    ⟨engine 4 (.cmd (cmdA (.mill (.mmr 1 3 0 0)) (locW 0) 0 0 0)) (some { Run.fresh with share := some t0 }) fun x =>
      { x with tiles := [(0, { tileA with st := .poisoned })] }, _, _, by decide, rfl, rfl, by decide, rfl⟩,
    ⟨milled (.mmr 1 3 0 0) (locW 0) 0 0 (ringA false 1) .published fun y => y, _, _, ringA false 1, 0, rfl, rfl, rfl, rfl, by decide⟩,
    ⟨milled (.mmr 1 3 0 0) (locW 0) 0 0 (ringA true 0) .free fun y => y, _, _, ringA true 0, 0, rfl, rfl, rfl, rfl, by decide, by decide, rfl, rfl⟩,
    ⟨engine 4 (.cmd { cmdA (.mill (.relax 1 63 127)) 0 0 0 0 with cap := { (State.reset.me.capture false) with mitl := 1 } }) (some .fresh) fun x =>
      { x with mill := { x.mill with active := some 0, relax := some { rows := [rowA], n := 128, k := 0, fallback := 0, res := 0 } } },
      _, _, _, rfl, by decide, rfl, rfl, by decide, ⟨rowA, by decide, rfl⟩, rfl⟩⟩
  · intro m h
    refine ⟨milled m (locW 0) 0 0 (ringA false 1) .published fun y => y, _, _, ?_, rfl⟩
    revert h; revert m; decide
theorem witness_MillProduct :
    ∃ (s : State) (x : Cmd) (r : Run) (s1 : State) (rows : List (List Elem)) (s2 : State) (z : Fl × Option Word),
      s.milling 0 0 = some (x, .mm 1, r) ∧ s.millFree 0 0 = true ∧
      (let f := (s.core 0).mill.planes[(1 : Fin 2)].fmt
       let n := minN 16 (x.rowsM - 16 * r.pos)
       let r1 := s.sampleAt 0 x (s.sampleAt 0 x r [x.at0]) ([x.at1] ++ x.cAddr.toList)
       s.checkProduct 0 0 false x r1 1 (some x.at0) x.cAddr x.at1 = .ok () ∧
       s.heldAt 0 x.cap.kernel (x.at1.add (16 * r.pos * f.kn.2 * f.acc.size : Nat)) (n * f.kn.2 * f.acc.size) = false ∧
       s.cutOff 0 x.cap.kernel (x.at0.add (16 * r.pos * f.kn.1 * f.elemTy.size : Nat)) (n * f.kn.1 * f.elemTy.size) = false ∧
       s.readRows 0 x r1 x.at0 f.elemTy f.kn.1 (16 * r.pos) n = (s1, .ok rows) ∧
       s1.multiply 0 0 x r1 1 rows x.cAddr x.at1 (16 * r.pos) = (s2, .ok z)) :=
  ⟨milled (.mm 1) (locW 0) (locW 0x1000) 1 (ringA false 1) .published fun y => y, _, _, _, _, _, _, rfl, by decide, rfl, rfl, rfl, rfl, rfl⟩
/-- A vector load of core 0 with one lane's access in flight. -/
def vaccA : Access := { accA .load (.vlq 1 7 63) none with vec := true }
/-- An entry of a vector load queue, with one lane active that holds a datum. -/
def vlqA (d : Datum) : VlqEntry :=
  { id := 7, lanes := some d :: List.replicate 63 none, reqs := List.replicate 64 none, flags := 0, nan := false, nanLane := 0 }
/-- A relaxation that has not started. -/
def heldA : Cmd :=
  { op := .mill (.relax 0 0 0), p := { p0 := 0, p1 := 0, p2 := 0, p3 := 8 }, i := false, w := false, follow := none, issuer := 0, num := 1, order := 0
    before := 0, era := 0, cap := State.reset.me.capture false, hfill := none, hsee := none, after := { upTo := [], but := [] } }
theorem witness_VectorArithmetic :
    (∃ s : State, readable s 31 [1, 2, 3] 0 ∧ readable s 31 [1, 2] 7 ∧ readable s 31 [1] 7 ∧ s.me.vec.divAt = some 0 ∧
      ∀ n, s.me.vec.divAt = some n → n + 8 ≤ s.me.vec.now) ∧
    (∃ (s : State) (n : Nat), readable s 31 [1, 2] 7 ∧ readable s 31 [1] 7 ∧ s.me.vec.divAt = some n ∧ s.me.vec.now = n + 7 ∧ s.me.ctl.past = false) :=
  ⟨⟨vec0 fun v => { v with now := 8, divAt := some 0 }, ⟨rfl, rfl⟩, ⟨rfl, rfl⟩, ⟨rfl, rfl⟩, rfl,
      fun n h => by rw [← Option.some.inj (show some 0 = some n from h)]; decide⟩,
    ⟨vec0 fun v => { v with now := 7, divAt := some 0 }, 0, ⟨rfl, rfl⟩, ⟨rfl, rfl⟩, rfl, rfl, by decide⟩⟩
theorem witness_VectorLogicAndSelection :
    ∃ s : State, readable s 31 [1, 2, 3] 0 ∧ readable s 31 [1, 2] 0 ∧ readable s 31 [1] 0 ∧ s.me.checkLent [1, 2] = .ok () ∧
      s.me.checkUes (s.me.vec.mask 0) [1, 2] = .ok () ∧ s.me.checkLent [31, 1, 2, 3, 3 + 1] = .ok () ∧
      (∀ r ∈ ([1, 2, 3, 3 + 1] : List (Fin 32)), s.me.vec.poison[r] = 0) ∧ s.me.checkLent [31, 1, 2] = .ok () ∧
      s.me.checkUe 1 (s.me.vec.mask 1 &&& s.me.vec.mask 2) = .ok () ∧ s.me.checkUe 2 (s.me.vec.mask 1 &&& ~~~s.me.vec.mask 2) = .ok () :=
  ⟨vec0 fun v => { v with lent2 := true, poison := v.poison.set 5 1 }, ⟨rfl, rfl⟩, ⟨rfl, rfl⟩, ⟨rfl, rfl⟩, rfl, rfl, rfl, by decide, rfl, rfl, rfl⟩
theorem witness_VectorOperandChecks :
    (∃ s : State, s.me.ctl.past = false ∧ s.me.vec.lent ((31 : Fin 32).val / 8) = true ∧ s.me.vec.lent ((23 : Fin 32).val / 8) = false) ∧
    (∃ s : State, s.me.ctl.past = false ∧ (∀ r ∈ ([1, 2, 3] : List (Fin 32)), s.me.vec.lent (r.val / 8) = false) ∧
      (∀ n, s.me.vec.divAt = some n → n + 8 ≤ s.me.vec.now) ∧ s.me.vec.divAt = some 0 ∧
      (∀ i, i < 63 → ¬ (active (s.me.vec.mask 0) i = true ∧ ∃ r ∈ ([2, 3] : List (Fin 32)), s.me.vec.poison[r].getLsbD i = true)) ∧
      active (s.me.vec.mask 0) 63 = true ∧ ∃ r ∈ ([2, 3] : List (Fin 32)), s.me.vec.poison[r].getLsbD 63 = true) ∧
    (∃ s : State, s.me.ctl.past = false ∧ (∀ r ∈ ([1, 2, 3] : List (Fin 32)), s.me.vec.lent (r.val / 8) = false) ∧ s.me.vec.divAt = none ∧
      ∀ i, i < 64 → ¬ (active (s.me.vec.mask 7) i = true ∧ ∃ r ∈ ([2, 3] : List (Fin 32)), s.me.vec.poison[r].getLsbD i = true)) :=
  ⟨⟨vec0 fun v => { v with lent3 := true }, by decide, rfl, rfl⟩,
    ⟨vec0 fun v => { v with poison := v.poison.set 3 (1 <<< 63), divAt := some 0, now := 8 }, by decide, by decide,
      fun n h => by rw [← Option.some.inj (show some 0 = some n from h)]; decide, rfl, by decide, by decide, by decide⟩,
    ⟨vec0 fun v => { v with poison := v.poison.set 2 1, k := v.k.set 7 0xFFFFFFFFFFFFFFFE }, by decide, by decide, rfl, by decide⟩⟩
theorem witness_IntegerLanes : (∀ t ∈ [Ty.i8, .u8, .i16, .u16, .i32, .u32, .i64, .u64], t.ff = none) ∧ Ty.i8.signed = true ∧ Ty.i8.width = 8 :=
  ⟨by decide, rfl, rfl⟩
theorem witness_IntegerLanes_floats :
    (∀ x ∈ [(FF.f64, 0x7FF0_0000_0000_0001), (.f32, 0xFFFF_FFFF), (.bf16, 0x7FC0), (.f16, 0x7C01), (.e4m3, 0xFF), (.e5m2, 0x7D)], fpNan x.1 x.2) ∧
    (∀ x ∈ [(FF.f64, 0xFFF0_0000_0000_0000), (.f32, 0x7F80_0000), (.bf16, 0xFF80), (.f16, 0x7C00), (.e5m2, 0x7C)], fpInf x.1 x.2) ∧
    (∀ x ∈ [(FF.f64, 0x7FEF_FFFF_FFFF_FFFF), (.f32, 0x8000_0001), (.bf16, 0x0080), (.f16, 0xFBFF), (.e4m3, 0x7E), (.e5m2, 0)], fpFin x.1 x.2) ∧
    infWord .e4m3 = none ∧ fpMag .f32 0x8000_0000 = 0 ∧ fpNeg .f32 0x8000_0000 = true := by
  refine ⟨?_, ?_, ?_, rfl, rfl, rfl⟩ <;> intro x h <;> simp only [List.mem_cons, List.not_mem_nil, or_false] at h <;>
    rcases h with rfl | rfl | rfl | rfl | rfl | rfl <;> simp [fpNan, fpInf, fpFin, fpMag, signAt, layout, largestWord, infWord]
theorem witness_MovesFoldsAndScans :
    (∃ s : State, s.me.checkLent [31, 1, 2] = .ok () ∧ s.me.vec.poison[(1 : Fin 32)] = 0 ∧ s.me.checkUe 2 (s.me.vec.mask 1) = .ok () ∧
      s.me.checkLent [31, 1] = .ok () ∧ s.me.checkLent [31, 31 + 1] = .ok () ∧ s.me.checkLent [31] = .ok () ∧ readable s 31 [1] 1 ∧
      s.me.vec.mask 1 = 0 ∧ (∃ (w : Word) (y : Core), s.me.ab (.areg 11) = .ok (w, y)) ∧
      (∃ (w : Word) (y : Core), s.me.ab (.aq 3) = .ok (w, y))) ∧
    (∃ r : Lane, treeFold (foldNode (laneMin true .i8)) 6 ((upto 64).map fun i => if active 0x8000000000000001 i then some (leafLane .i8 (BitVec.ofNat 64 i)) else none) = some r) ∧
    (∃ r : Lane, (scanFrom (laneMin true .i8) none ((upto 64).map fun i => if active 0x8000000000000001 i then some (leafLane .i8 (BitVec.ofNat 64 i)) else none))[63]? = some (some r)) :=
  ⟨⟨vec0 fun v => { v with lent2 := true, aq := v.aq.set 3 [{ value := 5, left := 0 }] }, rfl, rfl, rfl, rfl, rfl, rfl, ⟨rfl, rfl⟩, by decide,
      ⟨_, _, rfl⟩, ⟨_, _, rfl⟩⟩, ⟨_, rfl⟩, ⟨_, rfl⟩⟩
theorem witness_MasksAndAddressRegisters :
    (∃ (s : State) (w : Word) (y : Core), s.me.ab (.areg 11) = .ok (w, y)) ∧ (∃ (s : State) (w : Word) (y : Core), s.me.ab (.aq 3) = .ok (w, y)) ∧
    State.reset.me.vec.aq[(3 : Fin 4)] = [] ∧
    (∃ (s : State) (e : AqEntry) (rest : List AqEntry), s.me.vec.aq[(0 : Fin 4)] = e :: rest ∧ e.left ≠ 0) :=
  ⟨⟨State.reset, _, _, rfl⟩, ⟨vec0 fun v => { v with aq := v.aq.set 3 [{ value := 5, left := 0 }] }, _, _, rfl⟩, rfl,
    ⟨vec0 fun v => { v with aq := v.aq.set 0 [{ value := 5, left := 1 }] }, _, _, rfl, by decide⟩⟩
theorem witness_VectorControl :
    (∃ (s : State) (w : Word) (y : Core), s.me.ab (.areg 0) = .ok (w, y) ∧ w.toNat % 2 ^ 32 = 0 ∧ w ≠ 0) ∧
    (∃ (s : State) (w : Word) (y : Core), s.me.ab (.areg 0) = .ok (w, y) ∧ w.toNat % 2 ^ 32 = 1) ∧
    (∃ s : State, s.me.vec.a[(0 : Fin 12)] = 0 ∧ ¬ s.me.vec.a[(0 : Fin 12)].toInt < 0 ∧ s.me.vec.mask 1 = 0 ∧ s.me.vec.mask 0 ≠ 0) ∧
    (∃ s : State, s.me.vec.lent 2 = true) ∧ (∃ s : State, s.me.vec.lent 3 = false ∧ s.me.vec.pend = []) ∧
    (∃ s : State, s.me.vec.lent 3 = false ∧ s.me.ctl.past = false ∧ ∃ e ∈ s.me.vec.pend, e.kind = .v ∧ e.reg / 8 = 3) ∧
    (∃ s : State, s.me.vec.lent 3 = true ∧ s.me.bankHeld .vb3 = true) ∧ (∃ s : State, s.me.vec.lent 2 = true ∧ s.me.bankHeld .vb2 = false) ∧
    (∃ (pc : Word) (l : Vector Level 4), (l[(3 : Fin 4)].armed = true ∧ l[(3 : Fin 4)].stop = pc) ∧ l[(3 : Fin 4)].count ≠ 0 ∧
      ∀ j : Fin 4, 3 < j → ¬ (l[j].armed = true ∧ l[j].stop = pc)) ∧
    (∃ (pc : Word) (l : Vector Level 4), (l[(0 : Fin 4)].armed = true ∧ l[(0 : Fin 4)].stop = pc) ∧ ∀ i : Fin 4, (l[i].armed = true ∧ l[i].stop = pc) → l[i].count = 0) := by
  exact ⟨⟨vec0 fun v => { v with a := v.a.set 0 0x1_0000_0000 }, _, _, rfl, by decide, by decide⟩,
    ⟨vec0 fun v => { v with a := v.a.set 0 0x1_0000_0001 }, _, _, rfl, by decide⟩, ⟨State.reset, rfl, by decide, rfl, by decide⟩,
    ⟨vec0 fun v => { v with lent2 := true }, rfl⟩, ⟨State.reset, rfl, rfl⟩,
    ⟨with0 fun x => x.pend (x.blank .v 31 2 .u64), rfl, by decide, _, List.mem_singleton.mpr rfl, rfl, rfl⟩,
    ⟨with0 fun x => { x with vec := { x.vec with lent3 := true }, queues := x.queues.set 5 { entries := [.cmd heldA], run := none, since := none } }, rfl, by decide⟩, ⟨vec0 fun v => { v with lent2 := true }, rfl, by decide⟩,
    ⟨0, rep 4 { start := 0, stop := 0, count := 1, armed := true }, ⟨rfl, rfl⟩, by decide, by decide⟩,
    ⟨0, rep 4 { start := 0, stop := 0, count := 0, armed := true }, ⟨rfl, rfl⟩, by decide⟩⟩
/-- Core 0 with a0 at the last 256 bytes of its scratchpad. -/
def atEnd (w : Word) (f : Vec → Vec) : State := vec0 fun v => f { v with a := v.a.set 0 w }
/-- Core 0 with a0, the format of bank 15 and an indexed word 4 cycles ago. -/
def atStop (w b : Word) : State := with0 fun x =>
  { x with vec := { x.vec with a := x.vec.a.set 0 w, idxAt := some 0, now := 4 }, csr := { x.csr with bankfmt := x.csr.bankfmt.set 15 b } }
theorem witness_VectorMemory :
    (∀ idx ∈ [none, some (2 : Fin 32)], ∃ (s : State) (loc : VLoc), s.me.vaddr (.loc (.areg 0) 0 : VAddr 20) = .ok loc ∧
      s.me.checkLent (1 :: idx.toList) = .ok () ∧ (∀ n, s.me.vec.idxAt = some n → n + 4 ≤ s.me.vec.now) ∧ s.me.vec.idxAt = some 0 ∧
      s.me.checkUes (s.me.vec.mask 0) (1 :: idx.toList) = .ok () ∧ s.me.csr.errinj.toNat % 2 = 0 ∧
      (let e := s.velems loc.addr .i32 (idx.map fun r => s.me.vec.lane r)
       s.checkElems loc.addr e (s.me.vec.mask 0) true false = .ok () ∧ s.checkElems loc.addr e (s.me.vec.mask 0) (!e.lay.isBlock) true = .ok ())) ∧
    (∃ (s : State) (loc : VLoc), s.me.vaddr (.preInc 0 0 : VAddr 25) = .ok loc ∧ loc.base ≠ none ∧
      (let e := s.velems loc.addr .i32 none
       s.checkElems loc.addr e (s.me.vec.mask 0) (!e.lay.isBlock && e.lay.ty == .i32) true = .ok ())) ∧
    (∀ p ∈ [((0x20_0000 : Word), (0 : Word)), (0x1F_FFFF, 7), (0x1F_FFFF, 0)], ∃ (s : State) (loc : VLoc),
      s.me.vaddr (.loc (.areg 0) 0 : VAddr 25) = .ok loc ∧ s.me.vaddr (.loc (.areg 0) 0 : VAddr 20) = .ok loc ∧ s.me.checkLent [1] = .ok () ∧
      s.me.checkLent [1, 2] = .ok () ∧ (∀ n, s.me.vec.idxAt = some n → n + 4 ≤ s.me.vec.now) ∧ s.me.vec.idxAt = some 0 ∧ s.me.ctl.past = false ∧
      s.me.checkUes (s.me.vec.mask 0) [1, 2] = .ok () ∧ s.me.checkUes (s.me.vec.mask 0) [1] = .ok () ∧ s.me.vec.mask 0 ≠ 0 ∧ loc.addr = p.1 ∧
      s.bankWord s.cur 15 = p.2) ∧
    ((BankFmt.of 7).layout .i32).isBlock = true ∧ ((BankFmt.of 0).layout .i32).isBlock = false ∧ ((BankFmt.of 0).layout .i32).ty = .i32 ∧
    (0x1F_FFFF : Word).toNat / 131072 = 15 ∧ (0x1F_FFFF : Word).toNat % 131072 % ((BankFmt.of 0).layout .i32).size ≠ 0 ∧
    (∃ (s : State) (loc : VLoc) (n : Nat), s.me.vaddr (.loc (.areg 0) 0 : VAddr 20) = .ok loc ∧ s.me.checkLent [1, 2] = .ok () ∧
      s.me.ctl.past = false ∧ s.me.vec.idxAt = some n ∧ s.me.vec.now = n + 3) := by
  refine ⟨fun idx h => ?_, ⟨atEnd 0x1F_FF00 id, _, rfl, by decide, by decide⟩,
    fun p h => ?_, by decide, by decide, by decide, by decide, by decide,
    ⟨atEnd 0 fun v => { v with idxAt := some 0, now := 3 }, _, 0, rfl, rfl, by decide, rfl, rfl⟩⟩
  have h4 (n : Nat) (h : (atEnd 0x1F_FF00 fun v => { v with idxAt := some 0, now := 4 }).me.vec.idxAt = some n) : n + 4 ≤ 4 := by
    rw [← Option.some.inj (show some 0 = some n from h)]
  rotate_left
  · have h5 (w b : Word) (n : Nat) (h : (atStop w b).me.vec.idxAt = some n) : n + 4 ≤ 4 := by
      rw [← Option.some.inj (show some 0 = some n from h)]
    simp only [List.mem_cons, List.not_mem_nil, or_false] at h
    obtain rfl | rfl | rfl := h
    · exact ⟨atStop 0x20_0000 0, _, rfl, rfl, rfl, rfl, h5 _ _, rfl, rfl, rfl, rfl, by decide, by decide, rfl⟩
    · exact ⟨atStop 0x1F_FFFF 7, _, rfl, rfl, rfl, rfl, h5 _ _, rfl, rfl, rfl, rfl, by decide, by decide, rfl⟩
    · exact ⟨atStop 0x1F_FFFF 0, _, rfl, rfl, rfl, rfl, h5 _ _, rfl, rfl, rfl, rfl, by decide, by decide, rfl⟩
  simp only [List.mem_cons, List.not_mem_nil, or_false] at h
  obtain rfl | rfl := h
  · exact ⟨atEnd 0x1F_FF00 fun v => { v with idxAt := some 0, now := 4 }, _, rfl, rfl, h4, rfl, rfl, rfl, by decide, by decide⟩
  · exact ⟨atEnd 0x1F_FF00 fun v => { v with idxAt := some 0, now := 4 }, _, rfl, rfl, h4, rfl, rfl, rfl, by decide, by decide⟩
/-- A result of core 0 that is due, of a kind, with all lanes active, at the end of the scratchpad. -/
def dueA (kind : PKind) (reg : Nat) : PEntry :=
  { State.reset.me.blank kind reg 0 .i32 with lanes := BitVec.allOnes 64, offset := 0x1F_FF00, op := 1, src := some 0, flags := 1, home := 15 }
theorem witness_VectorResultLanding :
    ∀ k ∈ [(PKind.v, 31), (.k, 0), (.k, 7), (.a, 11), (.f, 0), (.store, 0), (.red, 0)], ∃ (s : State) (e : PEntry), (s.core 0).vec.pend = [e] ∧
      e.due ≤ (s.core 0).vec.now ∧ e.src ≠ none ∧ s.ownAtomics 0 (e.due - 3) e.runs = [] ∧ e.home = 15 ∧ e.kind = k.1 ∧ e.reg = k.2 ∧ (BankFmt.of (e.bank.setWidth 64)).fmt = .raw ∧
      e.offset.toNat % 131072 % e.ty.size = 0 ∧ active e.lanes 63 = true ∧ e.offset.toNat % 131072 + 64 * e.ty.size = 131072 ∧
      (s.core 0).csr.errinj.toNat % 2 = 0 ∧ s.poisoned (spadKey 0 0x1F_FFFC) 4 = false := by
  intro n _
  have ht : (dueA n.1 n.2).ty = .i32 := rfl
  have ho : (dueA n.1 n.2).offset.toNat = 0x1F_FF00 := rfl
  exact ⟨with0 fun x => x.pend (dueA n.1 n.2), dueA n.1 n.2, rfl, Nat.le_refl 0, nofun, rfl, rfl, rfl, rfl, rfl, by rw [ht, ho]; decide,
    show active (BitVec.allOnes 64) 63 = true from by decide, by rw [ht, ho]; decide, rfl, rfl⟩
theorem witness_VectorQueues :
    (∃ s : State, 8 ≤ s.me.vec.vlq[(1 : Fin 2)].length) ∧
    (∃ (s : State) (w : Word) (y : Core), s.me.vec.vlq[(1 : Fin 2)].length = 7 ∧ s.me.ab (.areg 0) = .ok (w, y) ∧ s.me.vec.mask 0 ≠ 0 ∧
      (w + (1 : BitVec 25).signExtend 64).toNat % 2 ≠ 0 ∧ s.me.ctl.past = false) ∧
    (∃ (s : State) (w : Word) (y : Core), s.me.vec.vlq[(1 : Fin 2)].length = 7 ∧ s.me.ab (.areg 0) = .ok (w, y) ∧ w.toNat % 4 = 0 ∧
      s.me.vec.mask 0 = BitVec.allOnes 64 ∧ s.me.checkLent [31] = .ok () ∧ s.me.checkUe 31 (s.me.vec.mask 0) = .ok () ∧
      (∀ op ∈ [AccOp.load, .amo .add 5], s.checkRequests ((upto 64).map fun i => if active (s.me.vec.mask 0) i then
        some { op := op, addr := .virt (w + BitVec.ofNat 64 (i * 4)), ty := .i32, ord := .plain, zue := false, kernel := false } else none) = .ok ()) ∧
      s.checkRequests ((upto 64).map fun i => if active (s.me.vec.mask 0) i then
        some { op := .load, addr := .group (w + BitVec.ofNat 64 (i * 4)), ty := .i32, ord := .plain, zue := false, kernel := false } else none) = .ok () ∧
      (let e := s.velems 0x1F_FF00 .i32 none
       s.checkElems 0x1F_FF00 e (s.me.vec.mask 0) (!e.lay.isBlock && e.lay.ty == .i32) true = .ok ())) ∧
    State.reset.me.vec.vlq[(0 : Fin 2)] = [] ∧
    (∀ d ∈ [Datum.absent, .value 5, .poison 0, .zeroed, .fault { cause := .perm, info := 0 }], ∃ (s : State) (e : VlqEntry) (rest : List VlqEntry),
      s.me.vec.vlq[(1 : Fin 2)] = e :: rest ∧ e = vlqA d ∧ s.me.checkLent [31] = .ok () ∧ s.me.ctl.past = false ∧ active (s.me.vec.mask 0) 0 = true) ∧
    (vlqA .absent).present = false ∧ (vlqA (.value 5)).present = true ∧ (vlqA (.value 5)).fault = none ∧
    (vlqA (.fault { cause := .perm, info := 0 })).fault = some { cause := .perm, info := 0 } ∧
    (∃ (s s1 : State) (a : Access) (r : Result), s.flight[0]? = some a ∧ a.back = .vlq 1 7 63 ∧ a.parked = false ∧ a.barrier = none ∧
      s.mayPerform 0 a = true ∧ s.performHome a = (s1, .done r)) := by
  refine ⟨⟨vec0 fun v => { v with vlq := v.vlq.set 1 (List.replicate 8 (vlqA .absent)) }, by decide⟩,
    ⟨vec0 fun v => { v with vlq := v.vlq.set 1 (List.replicate 7 (vlqA .absent)) }, _, _, rfl, rfl, by decide, by decide, by decide⟩,
    ⟨with0 fun x => { x with vec := { x.vec with vlq := x.vec.vlq.set 1 (List.replicate 7 (vlqA .absent)), a := x.vec.a.set 0 0x20_0000_0000 }, tlb := [flat] },
      _, _, rfl, rfl, by decide, by decide, rfl, rfl, fun op h => ?_, ?_, by decide⟩, rfl,
    fun d _ => ⟨vec0 fun v => { v with vlq := v.vlq.set 1 [vlqA d] }, _, _, rfl, rfl, rfl, rfl,
      show active (BitVec.allOnes 64) 0 = true from by decide⟩, rfl, rfl, rfl, rfl,
    ⟨flying vaccA fun x => x, _, _, _, rfl, rfl, rfl, rfl, by decide, rfl⟩⟩
  · simp only [List.mem_cons, List.not_mem_nil, or_false] at h
    obtain rfl | rfl := h <;> rfl
  · rfl
/-- Core 0 that may take an event before its words, with its frames at `b`. -/
def offering (b : Word) (f : Core → Core) : State :=
  with0 fun x => f { x with phase := .offer, mode := .normal, csr := { x.csr with kframe := b, uframe := b } }
/-- An engine fault of queue 5 with a cause that may be delegated, or not. -/
def faultA (cause : Cause) : EFault := { core := 0, q := 5, num := 1, c := 0, trap := { cause := cause, info := 3 } }
theorem witness_CoreEvents :
    (∃ s : State, (s.core 0).phase = .offer ∧ (s.core 0).running = true ∧ (s.core 0).ctl.past = false ∧ (s.core 0).ctl.nan = none ∧
      (s.core 0).ctl.wait = some (.queue 9 [15]) ∧
      [9, 15].find? (fun k => decide (2 ^ 20 < ((s.core 0).ctl.qcnt.find k).getD 0)) = some 15) ∧
    (∀ busy : Bool, ∃ s : State, (s.core 0).phase = .offer ∧ (s.core 0).running = true ∧
      (s.core 0).ctl.wait = none ∧ (s.core 0).vec.wait = some (.queue 8) ∧
      2 ^ 20 < ((s.core 0).vec.qcnt.find 8).getD 0 ∧ (s.core 0).ctl.past = false ∧ (s.core 0).ctl.nan = none ∧ (s.core 0).ctl.running = busy ∧
      (s.core 0).ctl.blk = none) ∧
    (∃ s : State, (s.core 0).ctl.past = true) ∧ (∃ s : State, (s.core 0).ctl.nan ≠ none) ∧
    (∃ s : State, (s.core 0).corrected = true) ∧ (∃ s : State, (s.core 0).corrected = false) ∧
    (∃ s : State, (s.core 0).phase = .offer ∧ (s.core 0).running = true ∧ (s.core 0).ctl.past = false ∧ (s.core 0).ctl.nan = none ∧ (s.core 0).ctl.wait = some (.queue 15) ∧ ((s.core 0).ctl.qcnt.find 15).getD 0 = 2 ^ 20 ∧ (s.core 0).vec.wait = none) ∧
    (∃ s : State, (s.core 0).freeze = 1) ∧ (∃ s : State, (s.core 0).freeze ≠ 1) :=
  ⟨⟨offering 0 fun x => { x with ctl := { x.ctl with wait := some (.queue 9 [15]), qcnt := [(9, 5), (15, 2 ^ 20 + 1)] } }, rfl, rfl, rfl, rfl, rfl, by decide⟩,
    fun busy => ⟨offering 0 fun x => { x with ctl := { x.ctl with running := busy }, vec := { x.vec with wait := some (.queue 8), qcnt := [(8, 2 ^ 20 + 1)] } },
      rfl, rfl, rfl, rfl, (by cases busy <;> decide), rfl, rfl, rfl, rfl⟩,
    ⟨ctl0 fun c => { c with committed := true }, by decide⟩, ⟨ctl0 fun c => { c with nan := some 0 }, by decide⟩,
    ⟨with0 fun x => { x with corrected := true }, rfl⟩, ⟨State.reset, rfl⟩,
    ⟨offering 0 fun x => { x with ctl := { x.ctl with wait := some (.queue 15), qcnt := [(15, 2 ^ 20)] } }, rfl, rfl, rfl, rfl, rfl, rfl, rfl⟩,
    ⟨with0 fun x => { x with freeze := 1 }, rfl⟩, ⟨with0 fun x => { x with freeze := 2 }, by decide⟩⟩
theorem witness_AsynchronousEvents :
    (∀ f : Core → Core, ∃ s : State, s = offering 0x1F_AFC0 f ∧ s.core 0 = f { Core.reset with
        phase := .offer, mode := .normal, csr := { Csrs.reset with kframe := 0x1F_AFC0, uframe := 0x1F_AFC0 } }) ∧
    (0x1F_AFC0 : Word).toNat / 64 % 2 ^ 15 * 64 + 20480 = 0x1F_FFC0 ∧
    (∃ s : State, ((s.core 0).phase = .offer ∧ (s.core 0).freeze = 0 ∧ ((s.core 0).mode = .normal ∨ (s.core 0).mode = .haltPending) ∧
      (s.core 0).ctl.past = false) ∧ (s.core 0).events.debug = true) ∧
    (∃ s : State, (s.core 0).events.debug = false ∧ (s.core 0).events.thermal = true) ∧
    (∃ s : State, (s.core 0).events.debug = false ∧ (s.core 0).events.thermal = false ∧ (s.core 0).ctl.kernel = false ∧
      (s.core 0).events.watchdog = true) ∧
    (∃ s : State, (s.core 0).events.watchdog = false ∧ (s.core 0).events.trimUe = some 7) ∧
    (∃ (s : State) (f : EFault), (s.core 0).events.watchdog = false ∧ (s.core 0).events.trimUe = none ∧ (s.core 0).engineFault = some f ∧
      f.trap.cause.delegable = true ∧ bitOf (s.core 0).csr.udeleg f.trap.cause.code = false) ∧
    (∃ (s : State) (i : Fin 4) (cause : Cause), (s.core 0).events.watchdog = false ∧ (s.core 0).events.trimUe = none ∧
      (s.core 0).engineFault = none ∧ (s.core 0).vEvent = some (i, cause)) :=
  ⟨fun f => ⟨_, rfl, rfl⟩, by decide,
    ⟨offering 0x1F_AFC0 fun x => { x with events := { x.events with debug := true } }, ⟨rfl, rfl, .inl rfl, rfl⟩, rfl⟩,
    ⟨offering 0x1F_AFC0 fun x => { x with events := { x.events with thermal := true } }, rfl, rfl⟩,
    ⟨offering 0x1F_AFC0 fun x => { x with events := { x.events with watchdog := true } }, rfl, rfl, rfl, rfl⟩,
    ⟨offering 0x1F_AFC0 fun x => { x with events := { x.events with trimUe := some 7 } }, rfl, rfl⟩,
    ⟨offering 0x1F_AFC0 fun x => { x with events := { x.events with engine := [faultA .perm] } }, _, rfl, rfl, rfl, rfl, by decide⟩,
    ⟨offering 0x1F_AFC0 fun x => { x with csr := { x.csr with uie := 0x8_0000_0081 } }, 3, .mailNotify, rfl, rfl, rfl, by decide⟩⟩
/-- A partition of cores 0 and 1 whose launch has RESUME and has started, core 0 in a mode and with a slot. -/
def slotted (f : Core → Core) (l : CtxSlot) : State :=
  { parted (with0 f) with parts := [(0, { Part.reset with launch := some { launchA with flags := 4 }, started := true, slots := [(0, l)] })] }
set_option maxRecDepth 4000 in
theorem slotted_rank (f : Core → Core) (l : CtxSlot) : (slotted f l).rankOf 0 = some (0, 0) := by
  have h : (slotted f l).rankOf 0 = (slotted id .empty).rankOf 0 := rfl
  rw [h]; decide
theorem noPreempt (l : CtxSlot) : ((slotted (fun x => { x with mode := .normal }) l).core 0).drained = false :=
  (rfl : _ = bitOf 0 1).trans (by decide)
set_option maxRecDepth 4000 in
theorem witness_Contexts :
    (∃ s : State, s.rankOf 0 = some (0, 0) ∧ (s.core 0).mode = .saving .thermalSave ∧ ((s.part 0).slot 0).state ≠ 1 ∧ s.quiet 0 = true) ∧
    (∃ s : State, s.rankOf 0 = some (0, 0) ∧ (s.core 0).mode = .saving .thermalSave ∧ ((s.part 0).slot 0).state = 1 ∧
      ((s.part 0).slot 0).home ≠ 0 ∧ s.quiet 0 = true) ∧
    (∃ s : State, s.rankOf 0 = some (0, 0) ∧ (s.core 0).mode = .saving .thermalSave ∧ ((s.part 0).slot 0).state ≠ 1 ∧ s.quiet 0 = false) ∧
    (∀ n ∈ [0, 16, 17, 78, 79, 255, 256, 8446, 8447], ∃ s : State, s.rankOf 0 = some (0, 0) ∧ (s.core 0).mode = .saving .thermalSave ∧
      ((s.part 0).slot 0).state = 1 ∧ ((s.part 0).slot 0).home = 0 ∧ ((s.part 0).slot 0).written = n) ∧
    (∃ s : State, s.rankOf 0 = some (0, 0) ∧ ∀ n, (s.part 0).launch = some n → n.resume = false) ∧
    (∃ s : State, s.rankOf 0 = some (0, 0) ∧ (s.core 0).drained = true) ∧
    (∀ state ∈ [0, 2, 3], ∃ (s : State) (n : Launch), s.rankOf 0 = some (0, 0) ∧ (s.part 0).started = true ∧ (s.part 0).launch = some n ∧
      n.resume = true ∧ (s.core 0).mode = .normal ∧ (s.core 0).task = false ∧ (s.core 0).ctl.running = false ∧ (s.core 0).drained = false ∧ ((s.part 0).slot 0).state = state ∧ ((s.part 0).slot 0).image = some .reset ∧
      ((s.part 0).slot 0).rings = [(3, ringA false 1)]) := by
  refine ⟨⟨slotted (fun x => { x with mode := .saving .thermalSave }) .empty, rfl, rfl, by decide, by decide⟩,
    ⟨slotted (fun x => { x with mode := .saving .thermalSave }) { CtxSlot.empty with state := 1, home := 1 }, slotted_rank _ _, rfl, rfl, by decide, by decide⟩,
    ⟨{ slotted (fun x => { x with mode := .saving .thermalSave }) .empty with flight := [accA .load .nowhere none] }, rfl, rfl, by decide, by decide⟩,
    fun n _ => ⟨slotted (fun x => { x with mode := .saving .thermalSave }) { CtxSlot.empty with state := 1, written := n }, slotted_rank _ _, rfl, rfl, rfl, rfl⟩,
    ⟨{ slotted id .empty with parts := [] }, by decide, fun n h => by cases h⟩,
    ⟨slotted (fun x => { x with csr := { x.csr with preempt := 2 } }) .empty, slotted_rank _ _, by decide⟩,
    fun st _ => ⟨slotted (fun x => { x with mode := .normal }) { CtxSlot.empty with state := st, image := some .reset, rings := [(3, ringA false 1)] },
      _, slotted_rank _ _, rfl, rfl, by decide, rfl, rfl, rfl, noPreempt _, rfl, rfl, rfl⟩⟩
theorem readBytes_of_cells (v : State) (m : List Host.Cell) (k n : Nat) (bs : List Byte) (h : v.mem = writeCells m k bs) (hn : n ≤ bs.length) :
    v.readBytes k n = bs.take n := by
  apply List.ext_getElem
  · simp [State.readBytes, upto, hn]
  · intro i h1 h2
    simp only [List.length_take] at h2
    have c : i < bs.length := by omega
    simp [State.readBytes, upto, State.readByte, h, cellAt_writeCells, c]
theorem readBytes_take (s : State) (k n m : Nat) (h : n ≤ m) : (s.readBytes k m).take n = s.readBytes k n := by
  apply List.ext_getElem
  · simp [State.readBytes, upto, h]
  · intro i h1 h2
    simp [State.readBytes, upto]
theorem write_cells (s : State) (k : Nat) (bs : List Byte) : (s.write k bs).mem = writeCells s.mem k bs := rfl
/-- Core 0 as its slot holds it: in a handler whose frame is at offset 0. -/
def savedA : Core := inHandler .reset
/-- A partition that has started and whose core 0 is to be restored from a slot that shares the core's own bytes, with a frame there. -/
def restorable : State :=
  (slotted (fun x => { x with mode := .normal })
    { CtxSlot.empty with state := 2, image := some savedA, at_ := spadKey 0 0 - 0x1_0000 }).write (spadKey 0 0) (frameOf 0 0 20447)
theorem emptied_core (u : State) (k : Nat) (f : CtxSlot → CtxSlot) : ((u.writeNat k 8 0).modSlot 0 0 f).core 0 = u.core 0 := rfl
theorem emptied_bytes (u : State) (k a n : Nat) (f : CtxSlot → CtxSlot) :
    ((u.writeNat k 8 0).modSlot 0 0 f).readBytes a n = (u.write k (leBytes 8 0)).readBytes a n := rfl
theorem restored_core (t : State) (f : Core → Core) : (t.modCore 0 f).core 0 = f (t.core 0) := by
  simp [State.core, State.modCore, State.setCore]
theorem restored_mem (t : State) (f : Core → Core) : (t.modCore 0 f).mem = t.mem := rfl
theorem restored_stores (x : Core) (f : Nat → Nat) : (x.restored savedA f).ctl.stores = [] := rfl
theorem restored_kframe (x : Core) (f : Nat → Nat) : frameOff (x.restored savedA f).csr.kframe = 20480 := by
  show frameOff (20480 : Word) = 20480
  decide
theorem witness_ContextRestore :
    let s := restorable
    let l := (s.part 0).slot 0
    let f := l.movedTo (s.gang 0)
    let t := s.write (spadKey 0 0) (s.readBytes (l.at_ + 0x1_0000) 0x20_0000)
    let u := (l.bad.foldl (fun s o => s.poisonGranule (spadKey 0 o)) t).modCore 0 fun x => x.restored savedA f
    let v := (u.writeNat l.at_ 8 0).modSlot 0 0 fun _ => CtxSlot.empty
    s.rankOf 0 = some (0, 0) ∧ (s.part 0).started = true ∧ (s.part 0).launch = some { launchA with flags := 4 } ∧
      (s.core 0).mode = .normal ∧ (s.core 0).task = false ∧ (s.core 0).ctl.running = false ∧ (s.core 0).drained = false ∧
      l.state = 2 ∧ l.image = some savedA ∧ ∃ w, v.returnKernel 0 = .ok w := by
  intro s l f t u v
  have hr : s.rankOf 0 = some (0, 0) := slotted_rank (fun x => { x with mode := .normal })
    { CtxSlot.empty with state := 2, image := some savedA, at_ := spadKey 0 0 - 0x1_0000 }
  have hd : (s.core 0).drained = false := by
    have h : s.core 0 = (slotted (fun x => { x with mode := .normal })
        { CtxSlot.empty with state := 2, image := some savedA, at_ := spadKey 0 0 - 0x1_0000 }).core 0 := by
      simp only [State.core, s, restorable, State.write_cores]
    rw [h]; exact noPreempt _
  refine ⟨hr, rfl, rfl, rfl, rfl, rfl, hd, rfl, rfl, ?_⟩
  obtain ⟨g, hg, hc, -⟩ := frame_parses 0 0
  have hs : s.readBytes (spadKey 0 0) 20480 = frameOf 0 0 20447 := by
    have := State.readBytes_write (slotted (fun x => { x with mode := .normal })
      { CtxSlot.empty with state := 2, image := some savedA, at_ := spadKey 0 0 - 0x1_0000 }) (spadKey 0 0) (frameOf 0 0 20447)
    rw [frameOf_length] at this
    simp only [Nat.reduceAdd] at this
    exact this
  have ha : l.at_ + 0x1_0000 = spadKey 0 0 := by decide
  have hb : l.bad = [] := rfl
  have hm : u.mem = writeCells s.mem (spadKey 0 0) (s.readBytes (l.at_ + 0x1_0000) 0x20_0000) := by
    have h1 : u.mem = (l.bad.foldl (fun s o => s.poisonGranule (spadKey 0 o)) t).mem := restored_mem _ _
    rw [h1, hb, List.foldl_nil]; exact write_cells _ _ _
  have hc0 : v.core 0 = ((l.bad.foldl (fun s o => s.poisonGranule (spadKey 0 o)) t).core 0).restored savedA f :=
    (emptied_core _ _ _).trans (restored_core _ _)
  have hst : (v.core 0).ctl.stores = [] := by rw [hc0]; exact restored_stores _ _
  have hu : u.readBytes (spadKey 0 0) 20480 = frameOf 0 0 20447 := by
    rw [readBytes_of_cells u s.mem (spadKey 0 0) 20480 (s.readBytes (l.at_ + 0x1_0000) 0x20_0000) hm
      (by simp [State.readBytes, upto]), ha, readBytes_take _ _ _ _ (by omega), hs]
  have hv : v.readBytes (spadKey 0 0) 20480 = u.readBytes (spadKey 0 0) 20480 := by
    have h1 : v.readBytes (spadKey 0 0) 20480 = (u.write l.at_ (leBytes 8 0)).readBytes (spadKey 0 0) 20480 := emptied_bytes _ _ _ _ _
    have h2 : l.at_ + (leBytes 8 0).length ≤ spadKey 0 0 := by decide
    rw [h1]
    exact List.map_congr_left fun i _ => State.readByte_write_outside _ _ _ _ (.inr (Nat.le_trans h2 (Nat.le_add_right _ _)))
  have hl : v.localBytes 0 0 frameSize = frameOf 0 0 20447 := by
    rw [State.localBytes, hst, List.foldl_nil, frameSize]; exact hv.trans hu
  have hf : v.frameAt 0 0 = some g := by rw [State.frameAt, hl, hg]
  have hk : frameOff (v.core 0).csr.kframe = 20480 := by rw [hc0]; exact restored_kframe _ _
  clear_value v
  unfold State.returnKernel
  simp only [hk, Nat.lt_irrefl, if_false, Nat.sub_self, hf, hc]
  exact ⟨_, rfl⟩
/-- A partition of cores 0 and 1, both awake and normal, with its tables, a launch or none, and words of memory. -/
def awake (l : Option Launch) (started : Bool) (f : Core → Core) (g : Func → Func) (w : List (Nat × List Byte)) : State :=
  let x : Core := f { Core.reset with mode := .normal, csr := { Csrs.reset with ncores := 2 } }
  State.writeRuns { State.reset with
    cores := [(0, x), (1, x)]
    pkgs := [(0, { Pkg.reset with
      hamlets := Pkg.reset.hamlets.set 0 { Hamlet.reset with gated := false }
      funcs := [(0, g { Func.reset with part := { PEntryTab.reset with
        valid := true, coreset := cores01, ncores := 2, ptbase := 0x20_0010_0000 } })] })]
    parts := [(0, { Part.reset with launch := l, started := started })] }
    ([(spadKey 0 0x10_0000, leBytes 8 0x20_0011_0001), (spadKey 0 0x11_0010, leBytes 8 0x20_0000_031F)] ++ w)
/-- A launch record at offset 0x2000 whose N is `n`. -/
def recordA (n : Nat) : List Byte :=
  leBytes 8 0x20_0000_3000 ++ leBytes 8 0 ++ leBytes 4 n ++ leBytes 2 1 ++ leBytes 2 0 ++ leBytes 8 0 ++ zeros 8 ++ leBytes 8 0x20_0000_1000 ++ zeros 16
    ++ leBytes 8 0x623 ++ zeros 56
/-- A submission of that record. -/
def submitted (n : Nat) : State := awake none false id (fun y => { y with subs := [0x20_0000_2000] }) [(spadKey 0 0x2000, recordA n)]
/-- Function 0 of package 0 locked. -/
def funcOff : State := { State.reset with pkgs := [(0, { Pkg.reset with funcs := [(0, { Func.reset with tdi := .locked })] })] }
/-- A launch of that partition with flags. -/
def launchF (flags : BitVec 8) : Launch := { launchA with flags := flags }
/-- The partition with a launch that has started, an empty node queue of head 0 and tail `n` before a record of task code `code`. -/
def queued (n code : Nat) (f : Core → Core) : State :=
  awake (some launchA) true f id [(spadKey 0 0x1000, leBytes 8 0 ++ leBytes 8 n), (spadKey 0 0x1040, leBytes 8 code ++ zeros 24)]
set_option maxRecDepth 40000 in
theorem witness_Submissions :
    (∃ s : State, s.takes 0 0 = false) ∧
    (∃ (s : State) (va : Word) (rest : List Word) (tr : Trap), ((s.pkg 0).func 0).subs = va :: rest ∧ s.takes 0 0 = true ∧
      (s.part (s.partOf 0 0)).launch = none ∧ ((s.pkg 0).func 0).part.valid = true ∧
      (let t := s.modFunc 0 0 fun y => { y with subs := rest }
       t.devBytes 0 ((s.pkg 0).func 0).part.ptbase va 128 = .error tr ∧ t.recordRest 0 ((s.pkg 0).func 0).part.ptbase va = none)) ∧
    (∀ n ∈ [2, 3], ∃ (s : State) (va : Word) (rest : List Word) (b : List Byte), ((s.pkg 0).func 0).subs = va :: rest ∧ s.takes 0 0 = true ∧
      (s.part (s.partOf 0 0)).launch = none ∧ ((s.pkg 0).func 0).part.valid = true ∧
      (s.modFunc 0 0 fun y => { y with subs := rest }).devBytes 0 ((s.pkg 0).func 0).part.ptbase va 128 = .ok b ∧
      (s.partPkgs (s.pkg 0).domain (s.partOf 0 0)).filter (· != 0) = [] ∧
      (s.modFunc 0 0 fun y => { y with subs := rest }).recordReason 0 0 va (s.totalCores 0 0) = (if n = 2 then 0 else 2) ∧
      (Record.of b).prep = 0 ∧ hasBit (Record.of b).flags 0 = false) := by
  have h0 : ((awake none false id (fun y => { y with subs := [8] }) [(spadKey 0 0x11_0000, leBytes 8 0)]).modFunc 0 0 fun y => { y with subs := [] }).devBytes 0 0x20_0010_0000
      8 128 = .error { cause := .pageFault, info := 8 } := by decide
  refine ⟨⟨funcOff, by decide⟩, ⟨awake none false id (fun y => { y with subs := [8] }) [(spadKey 0 0x11_0000, leBytes 8 0)], 8, [], _, rfl, by decide, rfl, by decide, (show _ ∧ _ from ⟨h0, ?_⟩)⟩, fun n h => ?_⟩
  · clear h0
    have h : ((awake none false id (fun y => { y with subs := [8] }) [(spadKey 0 0x11_0000, leBytes 8 0)]).modFunc 0 0 fun y => { y with subs := [] }).devBytes 0 0x20_0010_0000
        (8 + BitVec.ofNat 64 (8 * 2)) 8 = .error { cause := .pageFault, info := 24 } := by decide
    unfold State.recordRest
    simp only [show ((awake none false id (fun y => { y with subs := [8] }) [(spadKey 0 0x11_0000, leBytes 8 0)]).pkg 0 |>.func 0).part.ptbase = 0x20_0010_0000 from rfl, h]
  simp only [List.mem_cons, List.not_mem_nil, or_false] at h
  obtain rfl | rfl := h
  · exact ⟨submitted 2, _, _, recordA 2, rfl, by decide, rfl, by decide, by decide, by decide, by decide, by decide, by decide⟩
  · exact ⟨submitted 3, _, _, recordA 3, rfl, by decide, rfl, by decide, by decide, by decide, by decide, by decide, by decide⟩
set_option maxRecDepth 4000 in
theorem witness_Launches :
    (∀ flags ∈ [(0 : BitVec 8), 4], ∃ (s : State) (l : Launch), (s.part (s.partOf 0 0)).launch = some l ∧ (s.part (s.partOf 0 0)).started = false ∧
      s.members 0 (s.partOf 0 0) = [0, 1] ∧ s.canBegin 0 [0, 1] = true ∧ [0, 1].Nodup ∧ l.flags = flags) ∧
    (∀ n ∈ [0, 1], ∃ (s : State) (k : Nat) (l : Launch), s.partOfCore 0 = some k ∧ (s.part k).launch = some l ∧ (s.part k).started = true ∧
      s.mayPop 0 k l = true ∧ s.gang 0 = [0, 1] ∧
      if n = 0 then s.firstLoaded 0 (l.search [0, 1] 0) = .ok none
      else ∃ q keys r, s.firstLoaded 0 (l.search [0, 1] 0) = .ok (some (q, keys)) ∧ keys.record (s.readWord keys.head).toNat = .ok r ∧
        s.writeHeld keys.head = false ∧ s.poisoned r 32 = false ∧ (s.readWord r).toNat % 8 = 0) := by
  refine ⟨fun flags h => ?_, fun n h => ?_⟩
  · simp only [List.mem_cons, List.not_mem_nil, or_false] at h
    obtain rfl | rfl := h
    · exact ⟨awake (some (launchF 0)) false id id [], _, rfl, rfl, by decide, by decide, by decide, rfl⟩
    · exact ⟨awake (some (launchF 4)) false id id [], _, rfl, rfl, by decide, by decide, by decide, rfl⟩
  · simp only [List.mem_cons, List.not_mem_nil, or_false] at h
    obtain rfl | rfl := h
    · exact ⟨queued 0 8 id, _, _, rfl, rfl, rfl, by decide, by decide, rfl⟩
    · exact ⟨queued 1 8 id, _, _, rfl, rfl, rfl, by decide, by decide, _, _, _, rfl, rfl, by decide, by decide, by decide⟩
set_option maxRecDepth 4000 in
theorem witness_LaunchEnds :
    (∃ (s u : State) (l : Launch), (s.part (s.partOf 0 0)).launch = some l ∧ s.endHeld l (s.partOf 0 0) = false ∧ l.flags.getLsbD 0 = false ∧
      s.complete? (s.partOf 0 0) l [0, 1] = true ∧
      s.devStore l.pkg (s.entry l.pkg l.func.val).ptbase (l.addr + 0x30) (BitVec.ofNat 64 (l.slice.toNat * 2 ^ 32 + 1)) = .ok u) ∧
    (∃ (s : State) (l : Launch), (s.part (s.partOf 0 0)).launch = some l ∧ s.endHeld l (s.partOf 0 0) = false ∧ s.complete? (s.partOf 0 0) l [0, 1] = false) ∧
    (∃ (s : State) (l : Launch), (s.part (s.partOf 0 0)).launch = some l ∧ s.endHeld l (s.partOf 0 0) = false ∧ s.members 0 (s.partOf 0 0) = [0, 1] ∧
      (s.core 1).mode ≠ .saved ∧ (s.core 1).task = true) ∧
    (∀ clean : Bool, ∃ (s u : State) (l : Launch), (s.part (s.partOf 0 0)).launch = some l ∧ s.endHeld l (s.partOf 0 0) = false ∧ l.flags.getLsbD 0 = false ∧
      (s.part (s.partOf 0 0)).started = true ∧ s.members 0 (s.partOf 0 0) = [0, 1] ∧
      (∀ c ∈ [0, 1], bitOf (s.core c).csr.preempt 1 = true ∧ s.storesDone c = true ∧
        ((s.core c).mode ≠ .saved → (s.core c).queuesEmpty = true ∧ (s.core c).task = false)) ∧
      (∀ c ∈ [0, 1], (s.core c).mode ≠ .saved ∧ (s.core c).clean = clean) ∧
      (let k := s.partOf 0 0
       let kept := [0, 1].zipIdx.foldl (fun r c => r.saveRings k c.2 c.1) s
       let gone := ([0, 1].foldl (fun r c =>
         (r.abandonAll ((r.core c).mail ++ (r.core c).ctl.h.toList)).modCore c fun x => x.clearTiles false) s).emptySlots k
       let r := if clean then kept else gone
       r.devStore l.pkg (r.entry l.pkg l.func.val).ptbase (l.addr + 0x30) (BitVec.ofNat 64 (l.slice.toNat * 2 ^ 32 + if clean then 3 else 4)) = .ok u)) := by
  refine ⟨⟨queued 0 8 id, _, _, rfl, by decide, rfl, by decide, rfl⟩, ⟨queued 1 8 id, _, rfl, by decide, by decide⟩,
    ⟨queued 0 8 fun x => { x with task := true }, _, rfl, by decide, by decide, by decide, by decide⟩, fun clean => ?_⟩
  cases clean
  · exact ⟨queued 0 8 fun x => { x with csr := { x.csr with preempt := 3 }, tiles := [(0, tileA)] }, _, _, rfl, by decide, rfl, rfl, by decide, by decide, by decide, rfl⟩
  · exact ⟨queued 0 8 fun x => { x with csr := { x.csr with preempt := 3 } }, _, _, rfl, by decide, rfl, rfl, by decide, by decide, by decide, rfl⟩
/-- Function `f` of package 0 changed after reset. -/
def funcA (f : Nat) (g : Func → Func) : State := { State.reset with pkgs := [(0, { Pkg.reset with funcs := [(f, g .reset)] })] }
/-- A package-wide change after reset. -/
def pkgA (g : Pkg → Pkg) : State := { State.reset with pkgs := [(0, g .reset)] }
theorem witness_PackageThere : (∀ g, ((pkgA g).pkg? 0).isSome = true) ∧ (∀ f g, ((funcA f g).pkg? 0).isSome = true) := ⟨fun _ => rfl, fun _ _ => rfl⟩
/-- A valid entry of cores 0 and 1 with 4 KiB of memory. -/
def entryA : PEntryTab := { PEntryTab.reset with valid := true, coreset := cores01, ncores := 2, membase := 0x1000, memsize := 0x1000, ctxbase := 0x100_0000 }
set_option maxRecDepth 8000 in
theorem witness_PartitionsAndFunctions :
    (∃ s : State, s.takes 0 0 = true ∧ (∀ c ∈ s.members 0 (s.partOf 0 0), (s.core c).task = false ∧ ∀ q ∈ (s.core c).queues.toList, q.entries = []) ∧
      s.members 0 (s.partOf 0 0) = [0, 1] ∧ ∀ d ∈ s.members 0 (s.partOf 0 0), bitOf (s.core d).csr.preempt 1 = false) ∧
    (∃ s : State, s.takes 0 0 = true ∧ ∃ d ∈ s.members 0 (s.partOf 0 0), bitOf (s.core d).csr.preempt 1 = true) ∧
    (1 : Word).getLsbD 0 = true ∧ (2 : Word).getLsbD 0 = false ∧
    (∃ s : State, s.takes 0 63 = false) ∧ (∃ s : State, s.takes 0 0 = false) ∧
    (∃ s : State, s.takes 0 63 = true ∧ ((s.pkg 0).func 63).subs.length = 15) ∧
    (∃ s : State, s.takes 0 63 = true ∧ ((s.pkg 0).func 63).subs.length = 16) ∧
    (∃ s : State, (((s.pkg 0).func 63).vector 2047).holding = false) ∧
    (∃ s : State, (((s.pkg 0).func 63).vector 2047).holding = true ∧ (((s.pkg 0).func 63).vector 2047).held = 0) ∧
    (∃ s : State, (((s.pkg 0).func 63).vector 2047).holding = true ∧ ((s.pkg 0).func 63).tdi = .error) ∧
    (∃ s : State, (((s.pkg 0).func 63).vector 2047).holding = true ∧ (((s.pkg 0).func 63).vector 2047).held ≠ 0 ∧
      ((s.pkg 0).func 63).tdi ≠ .error ∧ (((s.pkg 0).func 63).vector 2047).masked = false) ∧
    (∃ s : State, s.takes 0 0 = true ∧ s.up 0 = true ∧ (s.entry 0 63).valid = true ∧ (s.part (s.partOf 0 63)).launch = none ∧
      (s.part (s.partOf 0 63)).slots = [] ∧ (∀ r l, (r, l) ∈ (s.part (s.partOf 0 63)).slots → l.state ≠ 1) ∧
      (63 : Fin 64).val ≠ 0) ∧
    (∃ s : State, s.takes 0 0 = true ∧ (s.entry 0 63).valid = false ∧ (s.pkg 0).entryOk 63 = false) ∧
    (∃ s : State, s.takes 0 0 = true ∧ (s.entry 0 63).valid = false ∧ (s.pkg 0).entryOk 63 = true) ∧
    (∃ s : State, s.up 0 = false) :=
  ⟨⟨parted State.reset, by decide, by decide, by decide, by decide⟩,
    ⟨parted (with0 fun x => { x with csr := { x.csr with preempt := 2 } }), by decide, 0, by decide, by decide⟩, by decide, by decide,
    ⟨funcA 63 fun x => { x with tdi := .locked }, by decide⟩, ⟨funcA 0 fun x => { x with tdi := .locked }, by decide⟩, ⟨funcA 63 fun x => { x with subs := List.replicate 15 8 }, by decide, by decide⟩,
    ⟨funcA 63 fun x => { x with subs := List.replicate 16 8 }, by decide, by decide⟩, ⟨State.reset, rfl⟩,
    ⟨funcA 63 fun x => { x with msix := [(2047, { addr := 8, data := 1, masked := false, pending := false, holding := true, held := 0 })] }, rfl, rfl⟩,
    ⟨funcA 63 fun x => { x with tdi := .error, msix := [(2047, { addr := 8, data := 1, masked := false, pending := false, holding := true, held := 1 })] }, rfl, rfl⟩,
    ⟨funcA 63 fun x => { x with msix := [(2047, { addr := 8, data := 1, masked := false, pending := false, holding := true, held := 1 })] }, rfl, by decide, by decide, rfl⟩,
    ⟨funcA 63 fun x => { x with part := entryA }, by decide, by decide, rfl, rfl, rfl, (fun r l h => nomatch h), by decide⟩,
    ⟨funcA 63 fun x => { x with part := { entryA with valid := false, ncores := 3 } }, by decide, rfl, by decide⟩,
    ⟨funcA 63 fun x => { x with part := { entryA with valid := false, membase := 0, memsize := 0x100_0000, ctxbase := 0 } }, by decide, rfl, by decide⟩,
    ⟨pkgA fun x => { x with on := false }, by decide⟩⟩
set_option maxRecDepth 8000 in
theorem witness_HostInterface :
    (∃ s : State, s.takes 0 0 = true ∧ ((s.pkg 0).func 0).part.valid = false) ∧
    (∃ s : State, ((s.pkg 0).func 0).part.valid = true ∧ ((s.pkg 0).func 0).part.memsize.toNat < 0xFF9 + 8) ∧
    2 ^ 36 < (0xF_FFFF_FFF9 : Word).toNat + 8 ∧ (0xF_FFFF_FFF8 : Word).toNat + 8 ≤ 2 ^ 36 ∧
    (∃ s : State, s.takes 0 0 = true ∧ ((s.pkg 0).func 0).part.valid = true ∧ 0xFF8 + 8 ≤ ((s.pkg 0).func 0).part.memsize.toNat ∧
      ((s.pkg 0).func 0).part.inContext (((s.pkg 0).func 0).part.membase.toNat + 0xFF8) 8 = false ∧
      (s.pkg 0).inPool ((((s.pkg 0).func 0).part.membase.toNat + 0xFF8) % 2 ^ 44) 8 = false) ∧
    (∃ s : State, s.up 0 = false) ∧
    (∃ s : State, (s.up 0 = true ∧ (1 : Fin 64).val ≠ 0 ∧ ((s.pkg 0).func 0).session = true) ∧ ((s.pkg 0).func 1).tdi = .unlocked ∧
      ((s.pkg 0).func 1).part.valid = true ∧ ((s.pkg 0).func 1).ide = true ∧ ((s.pkg 0).func 1).subs = [] ∧
      (s.part (s.partOf 0 1)).launch = none ∧ ∀ c ∈ entryCores 0 ((s.pkg 0).func 1).part, s.funcOf c = none ∨ s.funcOf c = some 1) ∧
    (∃ s : State, s.up 0 = true ∧ ((s.pkg 0).func 0).session = true ∧ ((s.pkg 0).func 1).tdi = .locked) ∧
    (∃ s : State, s.up 0 = true ∧ ¬ ((1 : Fin 64).val ≠ 0 ∧ ((s.pkg 0).func 0).session = true)) ∧
    (∃ s : State, s.takes 0 63 = false) ∧ (∃ s : State, s.takes 0 63 = true ∧ (63 : Fin 64).val ≠ 0) ∧
    (0x20_3F80 = 0x20_0000 + 256 * 63 + 128 ∧ ((State.reset.pkg 0).func 63).locked = false ∧ (State.reset.entry 0 63).valid = false) ∧
    (∃ s : State, s.windowOpen (0 * 512 + 511) = true) ∧
    (∃ (s : State) (i : Nat) (y : Func), (i, y) ∈ (s.pkg 0).funcs ∧ y.part.valid = true) ∧
    (∀ i y, (i, y) ∈ (State.reset.pkg 0).funcs → y.part.valid = false) ∧
    (∃ (s : State) (y : Func), (s.pkg 0).funcs = [(63, y)] ∧ y.locked = true) :=
  ⟨⟨pkgA id, by decide, rfl⟩, ⟨funcA 0 fun x => { x with part := entryA }, rfl, by decide⟩, by decide, by decide,
    ⟨funcA 0 fun x => { x with part := entryA }, by decide, rfl, by decide, by decide, by decide⟩,
    ⟨pkgA fun p => { p with on := false }, by decide⟩,
    ⟨pkgA fun p => { p with funcs := [(0, { Func.reset with session := true }), (1, { Func.reset with ide := true, part := entryA })] },
      ⟨by decide, by decide, rfl⟩, rfl, rfl, rfl, rfl, rfl, by decide⟩,
    ⟨pkgA fun p => { p with funcs := [(0, { Func.reset with session := true }), (1, { Func.reset with tdi := .locked })] }, by decide, rfl, rfl⟩,
    ⟨pkgA id, by decide, by decide⟩, ⟨funcA 63 fun x => { x with tdi := .locked }, by decide⟩, ⟨funcA 63 id, by decide, by decide⟩, ⟨rfl, rfl, rfl⟩, ⟨State.reset, by decide⟩,
    ⟨funcA 0 fun x => { x with part := entryA }, 0, _, List.mem_singleton.mpr rfl, rfl⟩, fun i y h => (nomatch h),
    ⟨funcA 63 fun x => { x with tdi := .locked }, _, rfl, rfl⟩⟩
/-- A halted core 0 whose debug window is open, with a selection of space, index and item. -/
def halted (sel : Word) (f : Core → Core) : State := with0 fun x => f { x with mode := .halted, debugSel := sel }
/-- A vlq entry whose lane 1 holds a fault, and whose lane 0 has come or not. -/
def vlqB (b : Bool) : VlqEntry :=
  { id := 0, lanes := [some (if b then .value 0 else .absent), some (.fault { cause := .perm, info := 0 })], reqs := [none, none], flags := 0, nan := false, nanLane := 0 }
theorem witness_DebugWindow :
    (∃ s : State, s.windowOpen 0 = false) ∧ (∃ s : State, s.windowOpen 0 = true ∧ (s.core 0).mode = .normal) ∧
    (∃ s : State, s.windowOpen 0 = true ∧ (s.core 0).mode = .halted) ∧
    (∀ n ∈ [(0, 31, 0), (2, 31, 63), (3, 7, 0), (4, 11, 0), (6, 2559, 0)], ∃ s : State, (s.core 0).mode = .halted ∧
      (s.core 0).debugSel.toNat / 2 ^ 32 % 256 = n.1 ∧ (s.core 0).debugSel.toNat / 65536 % 65536 = n.2.1 ∧
      (s.core 0).debugSel.toNat % 65536 = n.2.2) ∧
    (∃ (s : State) (e : LqEntry), (s.core 0).debugSel.toNat / 2 ^ 32 % 256 = 7 ∧ (s.core 0).debugSel.toNat / 65536 % 65536 = 1 ∧
      (s.core 0).ctl.lq[(1 : Fin 2)][(s.core 0).debugSel.toNat % 65536 / 64]? = some e ∧ e.datum.present = true ∧ ∃ t, e.datum = .fault t) ∧
    (∀ b, ∃ (s : State) (e : VlqEntry), (s.core 0).debugSel.toNat / 2 ^ 32 % 256 = 7 ∧ (s.core 0).debugSel.toNat / 65536 % 65536 = 3 ∧
      (s.core 0).vec.vlq[(1 : Fin 2)][(s.core 0).debugSel.toNat % 65536 / 64]? = some e ∧ e.present = b ∧
      e.lanes[(s.core 0).debugSel.toNat % 65536 % 64]? = some (some (.fault { cause := .perm, info := 0 }))) := by
  refine ⟨⟨pkgA fun p => { p with funcs := [(1, { Func.reset with tdi := .run, part := entryA })] }, by decide⟩,
    ⟨with0 fun x => { x with mode := .normal }, by decide, rfl⟩, ⟨halted 0 id, by decide, rfl⟩, ?_,
    ⟨halted 0x7_0001_0000 fun x => { x with ctl := { x.ctl with lq := x.ctl.lq.set 1 [{ id := 0, datum := .fault { cause := .perm, info := 0 }, flags := 0, nan := false, req := (accA .load .nowhere none).req }] } }, _, by decide, by decide, rfl, rfl, _, rfl⟩, fun b => ?_⟩
  rotate_left
  · cases b
    · exact ⟨halted 0x7_0003_0001 fun x => { x with vec := { x.vec with vlq := x.vec.vlq.set 1 [vlqB false] } }, _, by decide, by decide, rfl, rfl, rfl⟩
    · exact ⟨halted 0x7_0003_0001 fun x => { x with vec := { x.vec with vlq := x.vec.vlq.set 1 [vlqB true] } }, _, by decide, by decide, rfl, rfl, rfl⟩
  intro n h
  simp only [List.mem_cons, List.not_mem_nil, or_false] at h
  obtain rfl | rfl | rfl | rfl | rfl := h
  · exact ⟨halted 0x1F_0000 id, rfl, by decide, by decide, by decide⟩
  · exact ⟨halted 0x2_001F_003F id, rfl, by decide, by decide, by decide⟩
  · exact ⟨halted 0x3_0007_0000 id, rfl, by decide, by decide, by decide⟩
  · exact ⟨halted 0x4_000B_0000 id, rfl, by decide, by decide, by decide⟩
  · exact ⟨halted 0x6_09FF_0000 id, rfl, by decide, by decide, by decide⟩
/-- An access of core 0 whose home is a scratchpad of die 1, at package 0. -/
def ringA1 : Access := { accA .load (.lq 0 7) none with place := .phys (spadKey 128 0) }
/-- A flit of that access. -/
def flitA (dst : Nat) : Flit := { at_ := 0, dst := dst, cw := true, access := 7 }
/-- That flit on its way, under an entry of core 0 that gives it slots. -/
def hopping (dst : Nat) : State := State.modFunc { State.reset with flight := [ringA1], flits := [flitA dst] } 0 0
  fun y => { y with part := { PEntryTab.reset with valid := true, coreset := cores01, slotsCw := 1 } }
/-- A chunk of a put by queue 0 of core 0 to offset 0x1000 of package `target`, sent again `n` times. -/
def chunkA (target n : Nat) : Chunk := { seq := 0, src := 0, q := 0, target := target, put := true, offset := 0x1000, bytes := zeros 64, bad := [], dst := 0, c := 0, last := true, resends := n, performed := false }
/-- The `c.put` that the chunk belongs to. -/
def putA : Cmd := cmdA (.carter .put) (locW 0) 0 64 0
/-- A window of package 0 over offsets from 0, which takes puts. -/
def windowA : Window := { base := 0xE000_0000_0000_0000, size := 0x10_0000, va := 0x20_0000_0000, ptbase := 0x20_0010_0000, doorbell := 0, ctxid := 0 }
/-- Core 0 with that put at work and the chunk under way, before a package with inbound windows. -/
def putting (target n : Nat) (w : List (Nat × Window)) : State :=
  { awake none false (fun x => { x with queues := x.queues.set 0 { entries := [.cmd putA], run := some { Run.fresh with sent := 1 }, since := none } })
      (fun y => { y with windows := w, part := { y.part with slotsCw := 1, slotsCcw := 1 } }) [] with chunks := [chunkA target n] }
set_option maxRecDepth 40000 in
theorem witness_Network :
    (∀ dst ∈ [1, 2], ∃ (s : State) (f : Flit) (a : Access), s.flits[0]? = some f ∧ s.flight.find? (fun a => a.id == f.access) = some a ∧
      s.slotFor a.core f (s.freeClass a.core (s.keyOf a.place)) = true ∧ (∀ g ∈ s.flits.take 0, g.at_ ≠ f.at_ ∨ g.cw ≠ f.cw) ∧
      f.cw = true ∧ f.at_ = 0 ∧ f.dst = dst) ∧
    (∃ s : State, s.up 0 = true ∧ Tab.sorted (s.pkg 0).routes = true) ∧ (∃ s : State, s.up 0 = false) ∧
    (∃ s : State, ((s.pkg 0).linkDown[(17 : Fin 18)]) = false) ∧ (∃ s : State, ((s.pkg 0).linkDown[(17 : Fin 18)]) = true) ∧
    (∃ (s : State) (ch : Chunk), s.chunks[0]? = some ch ∧ s.chunkSource ch = none) ∧
    (∃ (s : State) (ch : Chunk) (x : Cmd) (r : Run), s.chunks[0]? = some ch ∧ s.chunkSource ch = some (x, r) ∧ s.chunkTarget ch = none ∧
      s.sameDomain ch = true) ∧
    (∃ (s : State) (ch : Chunk) (x : Cmd) (r : Run), s.chunks[0]? = some ch ∧ s.chunkSource ch = some (x, r) ∧ s.chunkTarget ch = some 0 ∧
      (s.pkg 0).windowFor ch.put (ch.runs x) = none) := by
  refine ⟨?_, ⟨pkgA id, by decide, rfl⟩, ⟨pkgA fun x => { x with on := false }, by decide⟩, ⟨pkgA id, by decide⟩,
    ⟨pkgA fun x => { x with linkDown := x.linkDown.set 17 true }, by decide⟩, ⟨{ State.reset with chunks := [chunkA 0 0] }, chunkA 0 0, rfl, rfl⟩, ⟨putting 5 0 [], _, _, _, rfl, rfl, rfl, rfl⟩, ⟨putting 0 0 [], _, _, _, rfl, rfl, rfl, rfl⟩⟩
  intro dst h
  simp only [List.mem_cons, List.not_mem_nil, or_false] at h
  rcases h with rfl | rfl
  · exact ⟨hopping 1, flitA 1, ringA1, rfl, rfl, by decide, by decide, rfl, rfl, rfl⟩
  · exact ⟨hopping 2, flitA 2, ringA1, rfl, rfl, by decide, by decide, rfl, rfl, rfl⟩
set_option maxRecDepth 40000 in
theorem witness_NetworkChunks :
    (∃ (s : State) (ch : Chunk) (x : Cmd) (r : Run) (w : Window) (keys : List (Nat × Nat)), s.chunks[0]? = some ch ∧ s.chunkSource ch = some (x, r) ∧
      s.chunkTarget ch = some 0 ∧ (s.pkg 0).windowFor ch.put (ch.runs x) = some (0, w) ∧ ch.put = true ∧ ch.performed = false ∧ w.doorbell = 0 ∧
      r.touched = [] ∧ s.windowKeys 0 w .store (ch.runs x) = some keys ∧ (∀ y ∈ keys, s.writeHeld y.1 = false) ∧ s.sameDomain ch = true ∧
      s.behindSent ch.src 0 ch.seq s.msgs (s.chunks.take 0) = false ∧ s.windowWay 0 0 keys = true) ∧
    (∃ (s : State) (ch : Chunk) (x : Cmd) (r : Run) (w : Window) (keys : List (Nat × Nat)), s.chunks[0]? = some ch ∧ s.chunkSource ch = some (x, r) ∧
      s.chunkTarget ch = some 0 ∧ (s.pkg 0).windowFor ch.put (ch.runs x) = some (0, w) ∧ ch.put = true ∧ ch.performed = false ∧ w.doorbell = 0 ∧
      r.touched = [] ∧ s.windowKeys 0 w .store (ch.runs x) = some keys ∧ s.sameDomain ch = true ∧ s.windowWay 0 0 keys = false) ∧
    (∀ n ∈ [15, 16], ∃ (s : State) (ch : Chunk) (x : Cmd) (r : Run), s.chunks[0]? = some ch ∧ s.chunkSource ch = some (x, r) ∧
      s.sameDomain ch = false ∧ ch.resends = n) := by
  refine ⟨⟨putting 0 0 [(0, windowA)], _, _, _, windowA, [(spadKey 0 0x1000, 64)], rfl, rfl, rfl, by decide, rfl, rfl, rfl, rfl, by decide, by decide, rfl,
    by decide, by decide⟩, ⟨(putting 0 0 [(0, windowA)]).modFunc 0 0 fun y => { y with part := { y.part with slotsCw := 0 } }, _, _, _, windowA,
    [(spadKey 0 0x1000, 64)], rfl, rfl, rfl, by decide, rfl, rfl, rfl, rfl, by decide, rfl, by decide⟩, ?_⟩
  intro n h
  simp only [List.mem_cons, List.not_mem_nil, or_false] at h
  rcases h with rfl | rfl
  · exact ⟨putting 5000 15 [], _, _, _, rfl, rfl, rfl, rfl⟩
  · exact ⟨putting 5000 16 [], _, _, _, rfl, rfl, rfl, rfl⟩
theorem witness_PowerGrants : ∃ (cap : Nat) (floors demands : List Nat), floors.length = demands.length ∧ floors.sum ≤ cap ∧ cap = floors.sum ∧
    cap < demands.sum :=
  ⟨300, [100, 200], [150, 250], by decide, by decide, by decide, by decide⟩
/-- Package 0 with hamlet 9 changed. -/
def hamletA (f : Hamlet → Hamlet) : State := pkgA fun x => { x with hamlets := x.hamlets.set 9 (f x.hamlets[9]) }
/-- Die 2 of package 0 changed. -/
def dieA (f : Die → Die) : State := pkgA fun x => { x with dies := x.dies.set 2 (f x.dies[2]) }
/-- A sensor's reading. -/
def readingA (tl td : Int) : SensorReading := { tl := tl, td := td, power := 0 }
set_option maxRecDepth 8000 in
theorem witness_PowerHeatAndSwaps :
    (∃ s : State, s.takes 0 0 = false) ∧ (∃ s : State, s.up 0 = false) ∧
    (∀ v ∈ [100, 99], ∃ s : State, s.takes 0 0 = true ∧ (s.pkg 0).floors.sum = 100 ∧ min ((BitVec.ofNat 64 v).toNat % 65536) 1650 = v) ∧
    (∀ v ∈ [1650, 1651], ∃ s : State, s.takes 0 0 = true ∧ s.up 0 = true ∧ (s.pkg 0).tierUsed 3 = false ∧ (s.pkg 0).pcap.toNat = 1650 ∧
      (((s.pkg 0).tfloor.set 3 ((BitVec.ofNat 64 v).setWidth 16)).toList.map (·.toNat)).sum = v) ∧
    (∃ s : State, ((s.pkg 0).hamlets[9]).gated = false ∧ ((s.pkg 0).hamlets[9]).corrections = 2 ∧ ((s.pkg 0).hamlets[9]).noLower = 0) ∧
    (∃ s : State, ((s.pkg 0).hamlets[9]).ue = true ∧ s.trimCore 0 9 = none) ∧
    (∃ s : State, ((s.pkg 0).hamlets[0]).ue = true ∧ s.trimCore 0 0 = some 0) ∧
    (∃ s : State, ((s.pkg 0).hamlets[9]).ue = false) ∧
    (∃ s : State, ((s.pkg 0).hamlets[9]).gated = false ∧ ∀ c ∈ hamletCores 0 9, s.unused c = true) ∧
    (∃ s : State, ((s.pkg 0).hamlets[9]).gated = true) ∧
    (∃ s : State, ∃ c ∈ hamletCores 0 0, s.unused c = false) ∧
    (∃ s : State, ((s.pkg 0).hamlets[9]).gated = true ∧ ((s.pkg 0).hamlets[9]).request = true ∧ ((s.pkg 0).hamlets[9]).hold = true) ∧
    (∃ s : State, ((s.pkg 0).hamlets[9]).gated = true ∧ ((s.pkg 0).hamlets[9]).request = true ∧ ((s.pkg 0).hamlets[9]).hold = false ∧
      ∀ i : Fin 32, i.val < 9 → i.val / 8 = 1 → ((s.pkg 0).hamlets[i]).waiting = false) ∧
    (∃ (s : State) (r : List SensorReading), s.up 0 = true ∧ r.length = 8 ∧ (∀ q ∈ r, 1000 ≤ q.tl ∧ q.td < 800) ∧
      (∀ h : Fin 32, h.val / 8 = 2 → ((s.pkg 0).hamlets[h]).failed = false ∧
        ∀ q ∈ r, readingBad ((s.pkg 0).hamlets[h]).recent q = false)) ∧
    ((readingA (-201) 0).tl < -200 ∧ 1500 < (readingA 1501 0).tl ∧ (readingA 0 (-201)).td < -200 ∧ 1500 < (readingA 0 1501).td) ∧
    (∃ (s : State) (h : Fin 32) (o : SensorReading), o ∈ ((s.pkg 0).hamlets[h]).recent.take 10 ∧ 100 < ((readingA 851 0).tl - o.tl).natAbs ∧
      h.val / 8 = 1) ∧
    (∃ s : State, let y := (s.pkg 0).dies[2]; y.swapping = none ∧ y.plan = [(5, 9)] ∧ movable s.pinned 0 y 5 = true ∧ y.pool.contains 9 = true) ∧
    (∃ s : State, let y := (s.pkg 0).dies[2]; y.swapping = some (5, 9) ∧ y.place.find 5 = some 7) ∧
    (∃ s : State, let y := (s.pkg 0).dies[2]; y.swapping = none ∧ y.plan = []) := by
  refine ⟨⟨funcA 0 fun x => { x with tdi := .locked }, by decide⟩, ⟨pkgA fun x => { x with on := false }, by decide⟩, ?_, ?_,
    ⟨hamletA fun h => { h with gated := false, corrections := 2 }, by decide, by decide, by decide⟩,
    ⟨hamletA fun h => { h with ue := true }, by decide, by decide⟩,
    ⟨pkgA fun x => { x with hamlets := x.hamlets.set 0 { Hamlet.reset with ue := true }, funcs := [(0, { Func.reset with part := entryA })] }, by decide, by decide⟩,
    ⟨State.reset, by decide⟩, ⟨hamletA fun h => { h with gated := false }, by decide, by decide⟩, ⟨hamletA fun h => { h with gated := true }, by decide⟩,
    ⟨funcA 0 fun x => { x with part := entryA, subs := [8] }, 0, by decide, by decide⟩,
    ⟨hamletA fun h => { h with gated := true, request := true, hold := true }, by decide, by decide, by decide⟩,
    ⟨hamletA fun h => { h with gated := true, request := true, hold := false }, by decide, by decide, by decide, by decide⟩,
    ⟨pkgA id, List.replicate 8 (readingA 1000 799), by decide, by decide, by decide, by decide⟩, by decide,
    ⟨hamletA fun h => { h with recent := [readingA 750 0] }, 9, readingA 750 0, by decide, by decide, by decide⟩,
    ⟨dieA fun d => { d with plan := [(5, 9)], pool := [9] }, by decide, by decide, by decide, by decide⟩,
    ⟨dieA fun d => { d with swapping := some (5, 9), place := [(5, 7)] }, by decide, by decide⟩, ⟨State.reset, by decide, by decide⟩⟩
  · intro v h
    simp only [List.mem_cons, List.not_mem_nil, or_false] at h
    exact ⟨pkgA fun x => { x with tfloor := x.tfloor.set 0 100 }, by decide, by decide, by rcases h with rfl | rfl <;> decide⟩
  · intro v h
    simp only [List.mem_cons, List.not_mem_nil, or_false] at h
    exact ⟨pkgA id, by decide, by decide, by decide, by decide, by rcases h with rfl | rfl <;> decide⟩
/-- Core 0 about to offer its words, with an event to come after it. -/
noncomputable def stepping (f : Core → Core) : State :=
  { with0 fun x => f { x with mode := .normal, phase := .offer } with agenda := [.core 0, .event (.freezeEnd 0)] }
/-- Core 0 with one control word that has no IDLE left. -/
noncomputable def ctlWord (w : Word) : State := stepping fun x => { x with ctl := { x.ctl with running := true, words := [w], idle := some 0 } }
theorem witness_StepRunsDecodedWord :
    (∃ (s : State) (w : Word) (u : Slot) (t : State), s.agenda = .core 0 :: [.event (.freezeEnd 0)] ∧ (s.core 0).phase = .offer ∧
      (s.core 0).mode ≠ .stopped ∧ (s.core 0).ctl.running = true ∧ (s.core 0).ctl.blk = none ∧ (s.core 0).ctl.words = [w] ∧
      (s.core 0).ctl.idle = some 0 ∧ (s.core 0).ctl.nan = none ∧ (s.core 0).ctl.wait = none ∧ (s.core 0).ctl.offer ≠ .trapped ∧
      (s.core 0).vec.goes = false ∧ (s.core 0).vec.nan = none ∧ (s.core 0).vec.trap = none ∧ (s.core 0).pending = none ∧
      decodeHead .control w = .ok (.done u.instr) ∧ decodeUnit .control w [] = .ok u ∧
      exec u.instr (State.storesDue { s with agenda := [.event (.freezeEnd 0)], cur := 0 } 0) = .next t) ∧
    (∃ (s : State) (w : Word), s.agenda = .core 0 :: [.event (.freezeEnd 0)] ∧ (s.core 0).phase = .offer ∧
      (s.core 0).mode ≠ .stopped ∧ (s.core 0).ctl.running = true ∧ (s.core 0).ctl.blk = none ∧ (s.core 0).ctl.words = [w] ∧
      (s.core 0).ctl.idle = some 0 ∧ (s.core 0).ctl.nan = none ∧ (s.core 0).ctl.wait = none ∧ (s.core 0).ctl.offer ≠ .trapped ∧
      (s.core 0).vec.goes = false ∧ (s.core 0).vec.nan = none ∧ (s.core 0).vec.trap = none ∧ (s.core 0).pending = none ∧
      decodeHead .control w = .error .illegal) ∧
    (∃ (s : State) (w : Word) (u : Slot) (t : State), s.agenda = .core 0 :: [.event (.freezeEnd 0)] ∧ (s.core 0).phase = .offer ∧
      (s.core 0).mode ≠ .stopped ∧ (s.core 0).ctl.running = false ∧ (s.core 0).ctl.nan = none ∧ (s.core 0).ctl.offer ≠ .trapped ∧
      (s.core 0).vec.goes = true ∧ (s.core 0).vec.words = [w] ∧ (s.core 0).vec.idle = some 0 ∧ (s.core 0).vec.nan = none ∧
      (s.core 0).vec.wait = none ∧ (s.core 0).vec.trap = none ∧ (s.core 0).pending = none ∧
      decodeUnit .vector w [] = .ok u ∧ u.sync = false ∧
      exec u.instr { s with agenda := [.event (.freezeEnd 0)], cur := 0 } = .next t ∧
      (t.core 0).ctl.offer ≠ .trapped ∧ (t.core 0).mode ≠ .stopped ∧ (t.core 0).ctl.running = false ∧ (t.core 0).ctl.nan = none) ∧
    (∃ (s : State) (i : Instr), s.agenda = .event i :: [] ∧ isEvent i = true) :=
  ⟨⟨ctlWord 0x0000_2000_0000_0000, _, { idle := 0, sync := false, instr := .nop }, _, rfl, rfl, by decide, rfl, rfl, rfl, rfl, rfl, rfl, by decide, rfl, rfl, rfl, rfl, rfl, rfl, rfl⟩,
    ⟨ctlWord 0x000F_E000_0000_0000, _, rfl, rfl, by decide, rfl, rfl, rfl, rfl, rfl, rfl, by decide, rfl, rfl, rfl, rfl, rfl⟩,
    ⟨stepping fun x => { x with vec := { x.vec with run := .running, words := [0x0010_0000_0000_0000], idle := some 0 } }, _, { idle := 0, sync := false, instr := .vnop }, _,
      rfl, rfl, by decide, rfl, rfl, by decide, rfl, rfl, rfl, rfl, rfl, rfl, rfl, rfl, rfl, rfl, by decide, by decide, rfl, rfl⟩,
    ⟨{ State.reset with agenda := [.event (.freezeEnd 0)] }, _, rfl, rfl⟩⟩
theorem witness_NopWords :
    (0x0000_2000_0000_0000 : Word).extractLsb' 45 8 = 0x01#8 ∧ (0x0000_2000_0000_0000 : Word).extractLsb' 0 45 = 0#45 ∧
    (0x0010_0000_0000_0000 : Word).extractLsb' 45 8 = 0x80#8 ∧ (0x0010_0000_0000_0000 : Word).extractLsb' 0 45 = 0#45 ∧
    (0x0010_0000_0000_0001 : Word).extractLsb' 45 8 = 0x80#8 ∧ (0x0010_0000_0000_0001 : Word).extractLsb' 0 45 ≠ 0#45 := by decide
theorem witness_StepKeepsMemoryForm : ∃ s t : State, memoryWf s ∧ step s = .next t ∧ s.mem ≠ [] :=
  ⟨{ State.reset with agenda := [.event (.freezeEnd 0)], mem := [(3, 7), (9, 0)] }, _, by unfold memoryWf; decide, rfl, by decide⟩
/-- A `c.copy` and its four parameter words, fetched by core 0, its head word latched. -/
noncomputable def copyWords : State :=
  (({ ctlWord 0x000C_0000_0720_0000 with agenda := [] }).withFetchWord 320
    0x8000_0000_0000_0004_0000_0000_0000_001E_0000_0000_0000_0014_0000_0000_0000_000A_000C_0000_0720_0000).modCore 0
      fun x => { x with ctl := { x.ctl with words := [0x000C_0000_0720_0000] } }
set_option maxRecDepth 8000 in
theorem witness_StepRunsDecodedWords :
    ∃ (s : State) (w : Word) (n : Nat) (fin : List Word → Option Instr) (s2 : State) (l : List Word) (u : Slot) (t : State),
      s.agenda = .core 0 :: [] ∧ (s.core 0).phase = .offer ∧ (s.core 0).mode ≠ .stopped ∧ (s.core 0).ctl.running = true ∧
      (s.core 0).ctl.blk = none ∧ (s.core 0).ctl.words = [w] ∧ (s.core 0).ctl.idle = some 0 ∧ (s.core 0).ctl.nan = none ∧
      (s.core 0).ctl.wait = none ∧ (s.core 0).ctl.offer ≠ .trapped ∧ (s.core 0).vec.goes = false ∧ (s.core 0).vec.nan = none ∧
      (s.core 0).vec.trap = none ∧ (s.core 0).pending = none ∧ decodeHead .control w = .ok (.more n fin) ∧
      State.fetchWords (State.storesDue { s with agenda := [], cur := 0 } 0) 0 ((s.core 0).ctl.pc + 8) n = (s2, .ok l) ∧
      l = [10, 20, 30, 0x8000_0000_0000_0004] ∧ decodeUnit .control w l = .ok u ∧ exec u.instr s2 = .next t :=
  ⟨copyWords, _, 4, _, _, _, _, _, rfl, rfl, by decide, rfl, rfl, rfl, rfl, rfl, rfl, by decide, rfl, rfl, rfl, rfl, rfl, rfl, rfl, rfl, rfl⟩
/-- An entry of a load queue. -/
def entryOf (d : Datum) : LqEntry := { id := 0, datum := d, flags := 1, nan := false, req := { op := .load, addr := .virt 0, ty := .u64, ord := .plain, zue := false, kernel := false } }
/-- Core 0 with entries in lq1. -/
def lqWith (l : List LqEntry) : State := ctl0 fun c => { c with lq := c.lq.set 1 l }
/-- Core 0 with `n` entries in aq3. -/
def aqWith (n : Nat) : State := vec0 fun v => { v with aq := v.aq.set 3 (List.replicate n { value := 0, left := 1 }) }
theorem witness_OperandOutcomes :
    (∃ (s : State) (e0 e1 : LqEntry), s.me.ctl.lq[(1 : Fin 2)] = e0 :: e1 :: [] ∧ e0.datum = .value 5 ∧ e1.datum = .value 7) ∧
    (∀ d ∈ [Datum.value 5, .absent, .fault { cause := .illegal, info := 8 }, .poison 8, .zeroed], ∃ (s : State) (e : LqEntry),
      s.me.ctl.lq[(1 : Fin 2)] = e :: [] ∧ e.datum = d) ∧
    (∃ s : State, s.me.ctl.lq[(1 : Fin 2)] = []) ∧
    (∀ n ∈ [15, 16], ∃ s : State, s.me.vec.aq[(3 : Fin 4)].length = n) ∧
    (∃ s : State, (31 : Fin 32) ≠ 0 ∧ s.me.ctl.ready 31 = true ∧ s.me.ctl.poison[(31 : Fin 32)] = some 8) ∧
    (∃ s : State, s.me.ctl.ready 31 = false) :=
  ⟨⟨lqWith [entryOf (.value 5), entryOf (.value 7)], _, _, rfl, rfl, rfl⟩, fun d _ => ⟨lqWith [entryOf d], entryOf d, rfl, rfl⟩, ⟨lqWith [], rfl⟩,
    fun n _ => ⟨aqWith n, by show (List.replicate n _).length = n; simp⟩,
    ⟨ctl0 fun c => { c with poison := c.poison.set 31 (some 8) }, by decide, rfl, rfl⟩,
    ⟨ctl0 fun c => { c with busy := [{ reg := 31, left := 3, waits := none }] }, rfl⟩⟩
theorem witness_ScalarFrame :
    (∃ s t : State, s.me.ctl.offer ≠ .issued ∧ exec (.add r312) s = .next t ∧ t.me.ctl.offer = .issued) ∧
    (∃ s t : State, s.me.ctl.offer ≠ .issued ∧ exec (.addImmediate { d := .aq 3, a := .reg 1, imm := -1 }) s = .next t ∧ t.me.ctl.offer = .issued) ∧
    (∃ s t : State, s.me.ctl.offer ≠ .issued ∧ exec (.li (.reg 31) (-1)) s = .next t ∧ t.me.ctl.offer = .issued) ∧
    (∃ s t : State, s.me.ctl.offer ≠ .issued ∧ exec (.bswap (.reg 31) (.reg 1)) s = .next t ∧ t.me.ctl.offer = .issued) :=
  ⟨⟨regs 1 2, _, by decide, rfl, rfl⟩, ⟨regs 1 2, _, by decide, rfl, rfl⟩, ⟨regs 1 2, _, by decide, rfl, rfl⟩, ⟨regs 1 2, _, by decide, rfl, rfl⟩⟩
theorem witness_VectorFrame :
    (∃ s t : State, s.me.vec.offer ≠ .issued ∧ exec (.vadd { ty := .f32, d := 31, a := 1, b := 2, k := 7 }) s = .next t ∧ t.me.vec.offer = .issued) ∧
    (∃ s t : State, s.me.vec.offer ≠ .issued ∧ exec (.vsqrt { ty := .f32, d := 31, a := 1, k := 7 }) s = .next t ∧ t.me.vec.offer = .issued) ∧
    (∃ s t : State, s.me.vec.offer ≠ .issued ∧ exec (.vfma { ty := .f32, d := 31, a := 1, b := 2, c := 3, k := 7 }) s = .next t ∧ t.me.vec.offer = .issued) :=
  ⟨⟨State.reset, _, by decide, rfl, rfl⟩, ⟨State.reset, _, by decide, rfl, rfl⟩, ⟨State.reset, _, by decide, rfl, rfl⟩⟩
theorem witness_StoreFrame :
    ∀ i ∈ [Instr.storePerformedAtHome 0, .reductionApplied 0, .lqEntryArrival 0, .vlqEntryArrival 0], ∃ (s t : State) (a : Access),
      s.flight[0]? = some a ∧ exec i s = .next t ∧ a.req.op = .store 7 := by
  intro i h
  simp only [List.mem_cons, List.not_mem_nil, or_false] at h
  rcases h with rfl | rfl | rfl | rfl <;> exact ⟨flying (accA (.store 7) .nowhere none) blocked, _, _, rfl, rfl, rfl⟩
theorem witness_DecodeEncodeRoundTrip :
    (∃ (u : Slot) (w : Word), u.instr.wf = true ∧ encode u = some [w] ∧ streamOf w = .vector) ∧
    (∃ (u : Slot) (w : Word) (ws : List Word), u.instr.wf = true ∧ encode u = some (w :: ws) ∧ ws.length = 4 ∧ streamOf w = .control) :=
  ⟨⟨{ idle := 1023, sync := true, instr := .vadd { ty := .f32, d := 31, a := 1, b := 2, k := 7 } }, _, by decide, rfl, by decide⟩,
    ⟨{ idle := 0, sync := false, instr := .cCopy (carterA 64 0 64 0) }, _, _, by decide, rfl, rfl, by decide⟩⟩

end Sys2Proof.Tests
end

section
/-! SUPPORT. Packages, functions and answers to the host under the updates of the state: one rule per update. -/
namespace Sys2Proof.Machine

/-! ## A package and its functions after they are changed -/

section
variable (s : State) (p q f : Nat) (g : Pkg → Pkg) (h : Func → Func)

@[simp] theorem State.modPkg_cores : (s.modPkg p g).cores = s.cores := by unfold State.modPkg; split <;> rfl
@[simp] theorem State.modPkg_mem : (s.modPkg p g).mem = s.mem := (sameBytes_modPkg s p g).1
@[simp] theorem State.modFunc_cores : (s.modFunc p f h).cores = s.cores := s.modPkg_cores p _
@[simp] theorem State.modFunc_mem : (s.modFunc p f h).mem = s.mem := s.modPkg_mem p _

/-- A package that is changed stays in the state, and no other comes in. -/
@[simp] theorem State.isSome_pkg?_modPkg : ((s.modPkg p g).pkg? q).isSome = (s.pkg? q).isSome := by
  unfold State.modPkg
  split
  case h_1 x hx =>
    by_cases e : q = p
    · subst e; rw [hx]; simp [State.setPkg, State.pkg?]
    · simp [State.setPkg, State.pkg?, Tab.find_put_ne _ _ _ _ e]
  case h_2 => rfl
@[simp] theorem State.isSome_pkg?_modFunc : ((s.modFunc p f h).pkg? q).isSome = (s.pkg? q).isSome :=
  s.isSome_pkg?_modPkg p q _

/-- Packages are read from the table of packages alone. -/
theorem State.pkg_congr {s t : State} (e : t.pkgs = s.pkgs) (p : Nat) : t.pkg p = s.pkg p := by
  simp [State.pkg, State.pkg?, e]

/-- A draw of a free value leaves the packages. -/
theorem State.pkg?_withDraws (n : Nat) : ({ s with draws := n } : State).pkg? q = s.pkg? q := rfl
theorem State.pkg_withDraws (n : Nat) : ({ s with draws := n } : State).pkg q = s.pkg q := rfl

/-- What a change keeps of every package, the package that is changed keeps. -/
theorem State.modPkg_keeps {α : Type} (r : Pkg → α) (k : ∀ x, r (g x) = r x) : r ((s.modPkg p g).pkg p) = r (s.pkg p) := by
  unfold State.modPkg
  split
  case h_1 x hx => rw [State.pkg_setPkg, k, State.pkg, hx, Option.getD_some]
  case h_2 => rfl
@[simp] theorem State.out_modFunc : ((s.modFunc p f h).pkg p).out = (s.pkg p).out :=
  s.modPkg_keeps p _ Pkg.out fun _ => rfl

variable {s p}

/-- A package that the state holds is changed as told. -/
theorem State.pkg_modPkg (hp : (s.pkg? p).isSome = true) : (s.modPkg p g).pkg p = g (s.pkg p) := by
  obtain ⟨x, hx⟩ := Option.isSome_iff_exists.mp hp
  simp only [State.modPkg, hx, State.pkg_setPkg]
  simp [State.pkg, hx]
/-- A function of such a package is changed as told. -/
theorem State.func_modFunc (hp : (s.pkg? p).isSome = true) : ((s.modFunc p f h).pkg p).func f = h ((s.pkg p).func f) := by
  simp [State.modFunc, State.pkg_modPkg _ hp, Pkg.func]

end

/-! ## Answers to the host -/

@[simp] theorem State.hostReply_mem (s : State) (p : Nat) (c : Word) (b : List Byte) : (s.hostReply p c b).mem = s.mem :=
  s.modPkg_mem p _
@[simp] theorem State.hostReply_cores (s : State) (p : Nat) (c : Word) (b : List Byte) : (s.hostReply p c b).cores = s.cores :=
  s.modPkg_cores p _
@[simp] theorem State.func_hostReply (s : State) (p f : Nat) (c : Word) (b : List Byte) :
    ((s.hostReply p c b).pkg p).func f = (s.pkg p).func f :=
  s.modPkg_keeps p _ (Pkg.func · f) fun _ => rfl

/-- Package `p` has given the host one more answer. -/
def State.replied (s t : State) (p : Nat) (code : Word) (b : List Byte) : Prop :=
  (t.pkg p).out = (s.pkg p).out ++ [(code, b)]
/-- An answer of a package that the state holds is given, after all earlier ones. -/
theorem State.replied_hostReply {s t : State} {p : Nat} (hp : (t.pkg? p).isSome = true) (o : (t.pkg p).out = (s.pkg p).out)
    (c : Word) (b : List Byte) : s.replied (t.hostReply p c b) p c b := by
  simp [State.replied, State.hostReply, State.pkg_modPkg _ hp, o]

/-! ## Bytes -/

/-- A byte is read from memory and the cores' wake counts alone. -/
theorem State.readByte_congr {s t : State} (hm : t.mem = s.mem) (hc : t.cores = s.cores) (k : Nat) : t.readByte k = s.readByte k := by
  simp [State.readByte, State.epoch, State.core, hm, hc]
@[simp] theorem State.readByte_modFunc (s : State) (p f : Nat) (h : Func → Func) (k : Nat) :
    (s.modFunc p f h).readByte k = s.readByte k := State.readByte_congr (by simp) (by simp) k
@[simp] theorem State.readByte_modPart (s : State) (k : Nat) (h : Part → Part) (j : Nat) :
    (s.modPart k h).readByte j = s.readByte j := State.readByte_congr rfl rfl j
@[simp] theorem State.readByte_hostReply (s : State) (p : Nat) (c : Word) (b : List Byte) (k : Nat) :
    (s.hostReply p c b).readByte k = s.readByte k := State.readByte_congr (by simp) (by simp) k
@[simp] theorem State.readBytes_hostReply (s : State) (p : Nat) (c : Word) (b : List Byte) (k n : Nat) :
    (s.hostReply p c b).readBytes k n = s.readBytes k n := by simp [State.readBytes]

@[simp] theorem length_zeros (n : Nat) : (zeros n).length = n := List.length_replicate
/-- A byte of a zeroed region is 0. -/
theorem State.readByte_write_zeros (s : State) (k : Nat) {n i : Nat} (h : i < n) : (s.write k (zeros n)).readByte (k + i) = 0 := by
  rw [State.readByte_write _ _ _ _ (by simpa using h)]
  exact List.getElem_replicate _
/-- A byte that is 0 stays 0 when a region is zeroed. -/
theorem State.readByte_zero_write_zeros {s : State} {j : Nat} (h : s.readByte j = 0) (k n : Nat) :
    (s.write k (zeros n)).readByte j = 0 := by
  by_cases c : k ≤ j ∧ j < k + n
  · have e : j = k + (j - k) := by omega
    rw [e]
    exact s.readByte_write_zeros k (by omega)
  · rw [State.readByte_write_outside _ _ _ _ (by simp only [length_zeros]; omega), h]

end Sys2Proof.Machine
end

section
/-! SUPPORT. What the host's accesses and requests do, a lemma for each outcome: BAR2 (R398, R404), SPDM and TDISP (R403 to R406),
BAR0 (R4, R386, R407), NODEID (R388) and the BARs of the virtual functions (R406). -/
namespace Sys2Proof.Machine

/-! ## BAR2 -/

/-- The bytes that an access of BAR2 reaches: those that it writes, or the `n` that it reads. -/
def bar2Len (w : Option (List Byte)) (n : Nat) : Nat := match w with | some b => b.length | none => n
/-- The partition's address of an offset of a function's BAR2. -/
def State.bar2Addr (s : State) (p : Nat) (f : Fin 64) (off : Word) : Nat := ((s.pkg p).func f.val).part.membase.toNat + off.toNat
/-- Has an access of `len` bytes from a key on a way from the IOD to both of its ends (R384)? -/
def State.bar2Way (s : State) (p k len : Nat) : Bool :=
  s.ringWay p none 4 (s.ringStop p k) && s.ringWay p none 4 (s.ringStop p (k + (len - 1)))
/-- Is an access of `len` bytes an Unsupported Request: for the function's state, its entry, the end of its range or of BAR2, or
because the range is kept from the host (R196, R376, R398, R404)? -/
def State.bar2Refused (s : State) (p : Nat) (f : Fin 64) (off : Word) (len : Nat) : Bool :=
  let e := ((s.pkg p).func f.val).part
  !s.takes p f.val || !e.valid || decide (2 ^ 36 < off.toNat + len ∨ e.memsize.toNat < off.toNat + len)
    || e.inContext (s.bar2Addr p f off) len || (s.pkg p).inPool (s.bar2Addr p f off % nodeSize) len
/-- The state after an access of BAR2 at a key is performed and answered. -/
def State.bar2Done (s : State) (p k : Nat) (w : Option (List Byte)) (n : Nat) : State :=
  match w with
  | some b => (s.write k b).hostReply p ansOk []
  | none => s.hostReply p (if s.poisoned k n then ansPoison else ansOk) (s.readBytes k n)

section
variable {s : State} {p : Nat} {f : Fin 64} {off : Word} {w : Option (List Byte)} {n : Nat}

/-- The three ends of an access of BAR2: it waits for its way, it is refused, it is performed. -/
theorem exec_hostBar2Access : exec (.hostBar2Access p f off w n) s = .next
    (if s.takes p f.val && !s.bar2Way p (key p (s.bar2Addr p f off % nodeSize)) (bar2Len w n) then s
     else if s.bar2Refused p f off (bar2Len w n) then s.hostReply p ansBad []
     else s.bar2Done p (key p (s.bar2Addr p f off % nodeSize)) w n) := by cases w <;> rfl

theorem exec_hostBar2Access_waits (takes : s.takes p f.val = true)
    (way : s.bar2Way p (key p (s.bar2Addr p f off % nodeSize)) (bar2Len w n) = false) :
    exec (.hostBar2Access p f off w n) s = .next s := by
  rw [exec_hostBar2Access, if_pos (by simp [takes, way])]

theorem exec_hostBar2Access_closed (closed : s.takes p f.val = false) :
    exec (.hostBar2Access p f off w n) s = .next (s.hostReply p ansBad []) := by
  rw [exec_hostBar2Access, if_neg (by simp [closed]), if_pos (by simp [State.bar2Refused, closed])]

theorem exec_hostBar2Access_beyond
    (way : s.bar2Way p (key p (s.bar2Addr p f off % nodeSize)) (bar2Len w n) = true)
    (beyond : ((s.pkg p).func f.val).part.valid = false ∨ 2 ^ 36 < off.toNat + bar2Len w n ∨
      ((s.pkg p).func f.val).part.memsize.toNat < off.toNat + bar2Len w n) :
    exec (.hostBar2Access p f off w n) s = .next (s.hostReply p ansBad []) := by
  have refused : s.bar2Refused p f off (bar2Len w n) = true := by
    rcases beyond with h | h
    · simp [State.bar2Refused, h]
    · simp only [State.bar2Refused, decide_eq_true h, Bool.or_true, Bool.true_or]
  rw [exec_hostBar2Access, if_neg (by simp [way]), if_pos refused]

theorem exec_hostBar2Access_done (takes : s.takes p f.val = true)
    (way : s.bar2Way p (key p (s.bar2Addr p f off % nodeSize)) (bar2Len w n) = true)
    (valid : ((s.pkg p).func f.val).part.valid = true) (bar : off.toNat + bar2Len w n ≤ 2 ^ 36)
    (size : off.toNat + bar2Len w n ≤ ((s.pkg p).func f.val).part.memsize.toNat)
    (ctx : ((s.pkg p).func f.val).part.inContext (s.bar2Addr p f off) (bar2Len w n) = false)
    (pool : (s.pkg p).inPool (s.bar2Addr p f off % nodeSize) (bar2Len w n) = false) :
    exec (.hostBar2Access p f off w n) s = .next (s.bar2Done p (key p (s.bar2Addr p f off % nodeSize)) w n) := by
  have inside : ¬ (2 ^ 36 < off.toNat + bar2Len w n ∨ ((s.pkg p).func f.val).part.memsize.toNat < off.toNat + bar2Len w n) := by
    omega
  have served : s.bar2Refused p f off (bar2Len w n) = false := by
    simp only [State.bar2Refused, takes, valid, decide_eq_false inside, ctx, pool, Bool.not_true, Bool.or_self]
  rw [exec_hostBar2Access, if_neg (by simp [way]), if_neg (by simp [served])]

end

/-! ## SPDM and the TDISP states -/

/-- Functions changed one after another leave memory and what the package has answered. -/
theorem State.foldl_modFunc_keeps (l : List Nat) (p : Nat) (h : Nat → Func → Func) (s : State) :
    (l.foldl (fun s f => s.modFunc p f (h f)) s).mem = s.mem ∧
      ((l.foldl (fun s f => s.modFunc p f (h f)) s).pkg p).out = (s.pkg p).out := by
  induction l generalizing s with
  | nil => exact ⟨rfl, rfl⟩
  | cons f r ih => simpa using ih (s.modFunc p f (h f))

/-- An SPDM request is answered from the partition table, the firmware and the kernel images, and leaves memory (R403). -/
theorem exec_spdmRequest_answers {s : State} {p : Nat} (hp : (s.pkg? p).isSome = true) (up : s.up p = true) (req : List Byte) :
    ∃ t, exec (.spdmRequest p req) s = .next t ∧ t.mem = s.mem ∧ s.replied t p ansOk
      (Config.spdmAnswer req (s.tableBytes p) (Config.firmwareDigests p (s.pkg p).boots) (s.kernelImages p)) := by
  simp only [exec, execSpdmRequest, up, Bool.not_true, Bool.false_eq_true, if_false]
  refine ⟨_, rfl, ?_, ?_⟩
  · simp [(State.foldl_modFunc_keeps _ p _ _).1]
  · rw [State.replied, (State.foldl_modFunc_keeps _ p _ _).2, State.out_modFunc]
    exact State.replied_hostReply hp rfl _ _

section
variable {s : State} {p : Nat} {f : Fin 64}

/-- TDISP requests are for virtual functions, and come in a secure session of the package's responder (R404). -/
theorem State.tdisp_iff : s.tdisp p f = true ↔ s.up p = true ∧ f.val ≠ 0 ∧ ((s.pkg p).func 0).session = true := by
  simp [State.tdisp, and_assoc]

/-- Without the session every TDISP request fails, and does nothing else. -/
theorem exec_tdisp_fails (h : s.tdisp p f = false) (i : Instr)
    (hi : i ∈ [Instr.lockInterfaceRequest p f, .startInterfaceRequest p f, .getDeviceInterfaceReport p f, .stopInterfaceRequest p f]) :
    exec i s = .next (s.hostReply p ansBad []) := by
  simp only [List.mem_cons, List.not_mem_nil, or_false] at hi
  rcases hi with rfl | rfl | rfl | rfl
  · simp [exec, execLockInterfaceRequest, h]
  · simp [exec, execStartInterfaceRequest, h]
  · simp [exec, execGetDeviceInterfaceReport, h]
  · simp [exec, execStopInterfaceRequest, h]

theorem exec_lockInterfaceRequest_locks (h : s.tdisp p f = true) (tdi : ((s.pkg p).func f.val).tdi = .unlocked)
    (valid : ((s.pkg p).func f.val).part.valid = true) (ide : ((s.pkg p).func f.val).ide = true)
    (subs : ((s.pkg p).func f.val).subs = []) (launch : (s.part (s.partOf p f.val)).launch = none) :
    exec (.lockInterfaceRequest p f) s = .next ({ s.modFunc p f.val fun y => { y with
      tdi := .locked, report := y.makeReport f.val (Config.kernelDigest s.draws) } with draws := s.draws + 1 }.hostReply p ansOk []) := by
  simp [exec, execLockInterfaceRequest, h, tdi, valid, ide, subs, launch]

theorem exec_startInterfaceRequest_runs (h : s.tdisp p f = true) (tdi : ((s.pkg p).func f.val).tdi = .locked) :
    exec (.startInterfaceRequest p f) s = .next ((s.modFunc p f.val fun y => { y with tdi := .run }).hostReply p ansOk []) := by
  simp [exec, execStartInterfaceRequest, h, tdi]

theorem exec_getDeviceInterfaceReport_reports (h : s.tdisp p f = true)
    (tdi : ((s.pkg p).func f.val).tdi = .locked ∨ ((s.pkg p).func f.val).tdi = .run) :
    exec (.getDeviceInterfaceReport p f) s = .next (s.hostReply p ansOk ((s.pkg p).func f.val).report) := by
  simp [exec, execGetDeviceInterfaceReport, h, Func.locked, tdi]

end

/-! ## What STOP_INTERFACE_REQUEST zeroes -/

/-- A scratchpad's bytes follow its first. -/
theorem spadKey_zero_add (c i : Nat) : spadKey c 0 + i = spadKey c i := by simp [spadKey, key, Nat.add_assoc]
/-- The scratchpads of some cores zeroed. -/
def State.zeroSpads (s : State) (l : List Nat) : State :=
  l.foldl (fun s c => s.write (spadKey c 0) (zeros Config.spadSize)) s

theorem State.zeroSpads_pkgs (s : State) (l : List Nat) : (s.zeroSpads l).pkgs = s.pkgs := by
  induction l generalizing s with
  | nil => rfl
  | cons c r ih => exact ih _
/-- A byte that is 0 stays 0 when scratchpads are zeroed. -/
theorem State.readByte_zero_zeroSpads {s : State} {j : Nat} (h : s.readByte j = 0) (l : List Nat) : (s.zeroSpads l).readByte j = 0 := by
  induction l generalizing s with
  | nil => exact h
  | cons c r ih => exact ih (State.readByte_zero_write_zeros h _ _)
/-- Every byte of the scratchpads is 0. -/
theorem State.readByte_zeroSpads (s : State) {l : List Nat} {c i : Nat} (hc : c ∈ l) (hi : i < Config.spadSize) :
    (s.zeroSpads l).readByte (spadKey c i) = 0 := by
  induction l generalizing s with
  | nil => cases hc
  | cons d r ih =>
    rcases List.mem_cons.mp hc with rfl | hr
    · rw [← spadKey_zero_add]
      exact State.readByte_zero_zeroSpads (s.readByte_write_zeros _ hi) r
    · exact ih _ hr

/-- The cores of an entry that no other function holds by now. -/
def State.stopCores (s : State) (p f : Nat) : List Nat :=
  (entryCores p (s.entry p f)).filter fun c => s.funcOf c == none || s.funcOf c == some f
/-- Scratchpads, context slots and block tables of the partition that a function's entry describes, zeroed, with no slot of the
package left in use (R406). -/
def State.wiped (s : State) (p f : Nat) : State :=
  (((s.zeroSpads (s.stopCores p f)).zero p (s.entry p f).ctxbase ((s.entry p f).ncores.toNat * 0x21_0000)).zero p
    (s.entry p f).btbase ((s.entry p f).btblocks.toNat * 65536)).modPart (s.partOf p f) fun y =>
      { y with slots := y.slots.filter fun l => l.2.at_ / nodeSize != p }

section
variable (s : State) (p f : Nat)

theorem State.wiped_pkgs : (s.wiped p f).pkgs = s.pkgs := by simp [State.wiped, State.zero, State.zeroSpads_pkgs]

theorem State.readByte_wiped_spad {c i : Nat} (hc : c ∈ s.stopCores p f) (hi : i < Config.spadSize) :
    (s.wiped p f).readByte (spadKey c i) = 0 :=
  (State.readByte_modPart ..).trans <|
    State.readByte_zero_write_zeros (State.readByte_zero_write_zeros (s.readByte_zeroSpads hc hi) _ _) _ _
theorem State.readByte_wiped_ctx {i : Nat} (hi : i < (s.entry p f).ncores.toNat * 0x21_0000) :
    (s.wiped p f).readByte (key p ((s.entry p f).ctxbase.toNat % nodeSize) + i) = 0 :=
  (State.readByte_modPart ..).trans <| State.readByte_zero_write_zeros (State.readByte_write_zeros _ _ hi) _ _
theorem State.readByte_wiped_bt {i : Nat} (hi : i < (s.entry p f).btblocks.toNat * 65536) :
    (s.wiped p f).readByte (key p ((s.entry p f).btbase.toNat % nodeSize) + i) = 0 :=
  (State.readByte_modPart ..).trans <| State.readByte_write_zeros _ _ hi

end

theorem exec_stopInterfaceRequest_stops {s : State} {p : Nat} {f : Fin 64} (h : s.tdisp p f = true) :
    exec (.stopInterfaceRequest p f) s = .next
      (((s.wiped p f.val).modFunc p f.val fun y => { y with tdi := .unlocked }).hostReply p ansOk []) := by
  simp only [exec, execStopInterfaceRequest, h, Bool.not_true, Bool.false_eq_true, if_false]
  rfl

/-! ## A locked interface that fails -/

theorem State.stopPartition_pkgs (s : State) (l : List Nat) : (s.stopPartition l).pkgs = s.pkgs := by
  induction l generalizing s with
  | nil => rfl
  | cons c r ih => exact ih _
/-- A locked function goes to ERROR, any other is left as it is (R406). -/
theorem State.func_tdiError {s : State} {p : Nat} (hp : (s.pkg? p).isSome = true) (f : Nat) :
    ((s.tdiError p f).pkg p).func f =
      if ((s.pkg p).func f).locked then { (s.pkg p).func f with tdi := .error } else (s.pkg p).func f := by
  unfold State.tdiError
  split
  case isTrue =>
    have e := s.stopPartition_pkgs (s.members p (s.partOf p f))
    rw [State.func_modFunc _ _ (by rw [State.pkg?, e]; exact hp), State.pkg_congr e]
  case isFalse => rfl

/-- The loss of a stream ends it, and a locked function with it (R406). -/
theorem exec_ideStreamFailure_up {s : State} {p : Nat} (up : s.up p = true) (f : Fin 64) :
    exec (.ideStreamFailure p f) s = .next ((s.modFunc p f.val fun y => { y with ide := false }).tdiError p f.val) := by
  simp [exec, execIdeStreamFailure, up]

/-! ## BAR0 -/

section
variable {s : State} {p : Nat} {f : Fin 64} {off : BitVec 24} (v : Word)

theorem exec_registerWrite_closed (h : s.takes p f.val = false) : exec (.registerWrite p f off v) s = .next s := by
  simp [exec, execRegisterWrite, h]

theorem exec_registerWrite_fstat (h : s.takes p f.val = true) :
    exec (.registerWrite p f 0x08 v) s = .next (s.modFunc p f.val fun y =>
      { y with ovf := y.ovf && !bitOf v 2, coreErr := y.coreErr && !bitOf v 1 }) := by
  simp [exec, execRegisterWrite, h]

theorem exec_registerWrite_fcoal (h : s.takes p f.val = true) :
    exec (.registerWrite p f 0x18 v) s = .next (s.modFunc p f.val fun y =>
      { y with coalCount := BitVec.ofNat 16 (v.toNat / 65536), coalInterval := BitVec.ofNat 16 v.toNat }) := by
  simp [exec, execRegisterWrite, h]

/-- Beyond FSTAT, FCOAL and the MSI-X table, only the physical function has registers to write. -/
theorem exec_registerWrite_tables (h : s.takes p f.val = true) (fstat : off.toNat ≠ 8) (fcoal : off.toNat ≠ 0x18)
    (msix : off.toNat < 0x10_0000 ∨ 0x10_8000 ≤ off.toNat) :
    exec (.registerWrite p f off v) s = .next (if f.val = 0 then s.writePf p off.toNat v else s) := by
  have m : ¬ (0x10_0000 ≤ off.toNat ∧ off.toNat < 0x10_8000) := by omega
  simp [exec, execRegisterWrite, h, fstat, fcoal, m]

end

section
variable {s : State} {p : Nat} (v : Word)

/-- Where the partition table stands in BAR0 of the physical function (R386). -/
theorem State.writePf_entry {i o : Nat} (hi : i < 64) (ho : o < 256) :
    s.writePf p (0x20_0000 + 256 * i + o) v = s.writeEntry p i o v := by
  have e : 0x20_0000 + 256 * i + o - 0x20_0000 = 256 * i + o := by omega
  have d : (256 * i + o) / 256 = i := by omega
  have m : (256 * i + o) % 256 = o := by omega
  rw [State.writePf, if_pos (by omega), e, d, m]
/-- An entry that is neither locked nor VALID is written (R386, R406). -/
theorem State.writeEntry_free {i o : Nat} (locked : ((s.pkg p).func i).locked = false) (valid : (s.entry p i).valid = false) :
    s.writeEntry p i o v = s.modFunc p i fun y => { y with part := (s.entry p i).write o v } := by
  simp [State.writeEntry, locked, valid]
/-- Where DSEL of a core stands in BAR0 of the physical function (R407). -/
theorem State.writePf_dsel {i : Nat} (hi : i < 512) (opened : s.windowOpen (p * 512 + i) = true) :
    s.writePf p (0x50_0008 + 64 * i) v = s.modCore (p * 512 + i) fun x => { x with debugSel := v &&& 0xFF_FFFF_FFFF } := by
  have c : (0x50_0008 + 64 * i - 0x50_0000) / 64 = i := by omega
  rw [State.writePf, if_neg (by omega), if_neg (by omega), if_neg (by omega), if_pos (by omega), c]
  exact if_pos opened
/-- The physical function writes DSEL of a core whose debug window is open (R407). -/
theorem exec_registerWrite_dsel {f : Fin 64} (h : s.takes p f.val = true) (hf : f.val = 0) {off : BitVec 24} {i : Nat} (hi : i < 512)
    (hoff : off.toNat = 0x50_0008 + 64 * i) (opened : s.windowOpen (p * 512 + i) = true) :
    ∃ t, exec (.registerWrite p f off v) s = .next t ∧ (t.core (p * 512 + i)).debugSel = v &&& 0xFF_FFFF_FFFF := by
  refine ⟨s.modCore (p * 512 + i) fun x => { x with debugSel := v &&& 0xFF_FFFF_FFFF }, ?_, by simp⟩
  rw [exec_registerWrite_tables v h (by omega) (by omega) (by omega), if_pos hf, hoff, State.writePf_dsel v hi opened]

end

/-! ## NODEID and the BARs of the virtual functions -/

section
variable {s : State} {p : Nat} (v : Word)

/-- NODEID is written only while no entry of the package is VALID (R388). -/
theorem exec_nodeidWrite_held {i : Nat} {y : Func} (hy : (i, y) ∈ (s.pkg p).funcs) (valid : y.part.valid = true) :
    exec (.nodeidWrite p v) s = .next s := by
  have h : ((s.pkg p).funcs.any fun f => f.2.part.valid) = true := List.any_eq_true.mpr ⟨_, hy, valid⟩
  simp only [exec, execNodeidWrite, h, Bool.or_true, if_true]
theorem exec_nodeidWrite_free (up : s.up p = true) (free : ∀ i y, (i, y) ∈ (s.pkg p).funcs → y.part.valid = false) :
    exec (.nodeidWrite p v) s = .next (s.modPkg p fun x => { x with nodeid := v &&& 0x1F_FFFF }) := by
  have h : ((s.pkg p).funcs.any fun f => f.2.part.valid) = false := List.any_eq_false.mpr fun x hx => by simp [free x.1 x.2 hx]
  simp only [exec, execNodeidWrite, h, up, Bool.not_true, Bool.or_self, Bool.false_eq_true, if_false]

/-- A write to the BARs of the virtual functions, as the functions that are locked decide (R406). -/
theorem exec_vfBarWrite_up (up : s.up p = true) (f : Fin 64) (bar : Fin 2) :
    exec (.vfBarWrite p f bar v) s = .next
      (let held := (s.pkg p).funcs.filter fun x => x.1 != 0 && x.2.locked
       if held.isEmpty then s.modFunc p f.val fun y => if bar = 0 then { y with bar0 := v } else { y with bar2 := v }
       else held.foldl (fun s x => s.tdiError p x.1) s) := by
  simp [exec, execVfBarWrite, up]

end

/-- A package that does not work takes nothing from the fabric manager, the host or the IDE streams (R403, R418). -/
theorem exec_host_down {s : State} {p : Nat} (h : s.up p = false) (f : Fin 64) (v : Word) (i : Instr)
    (hi : i ∈ [Instr.nodeidWrite p v, .vfBarWrite p f 0 v, .vfBarWrite p f 1 v, .spdmRequest p [], .ideStreamFailure p f]) :
    exec i s = .next s := by
  simp only [List.mem_cons, List.not_mem_nil, or_false] at hi
  rcases hi with rfl | rfl | rfl | rfl | rfl
  · simp [exec, execNodeidWrite, h]
  · simp [exec, execVfBarWrite, h]
  · simp [exec, execVfBarWrite, h]
  · simp [exec, execSpdmRequest, h]
  · simp [exec, execIdeStreamFailure, h]

end Sys2Proof.Machine
end

section
/-! SUPPORT. The statement about the host's interface, assembled from what each access and request does. -/
namespace Sys2Proof.Machine

/-! ## The clauses of the statement -/

section
variable {s : State} {p : Nat} (hp : (s.pkg? p).isSome = true) {f : Fin 64}
include hp

/-- A write of the partition's range is answered, reads back, and leaves every byte outside it (R398). -/
theorem hostWrite_effect (k : Nat) (b : List Byte) (n : Nat) :
    s.replied (s.bar2Done p k (some b) n) p ansOk [] ∧ (s.bar2Done p k (some b) n).readBytes k b.length = b ∧
      ∀ a, ¬ (k ≤ a ∧ a < k + b.length) → (s.bar2Done p k (some b) n).readByte a = s.readByte a := by
  refine ⟨State.replied_hostReply (t := s.write k b) hp rfl _ _, ?_, fun a outside => ?_⟩
  · simp [State.bar2Done, State.readBytes_write]
  · simpa [State.bar2Done] using State.readByte_write_outside s k a b (by omega)

/-- What STOP_INTERFACE_REQUEST leaves: an unlocked interface, an answer, and zeros (R406). -/
theorem stopInterfaceRequest_effect (h : s.tdisp p f = true) :
    ∃ t, exec (.stopInterfaceRequest p f) s = .next t ∧ ((t.pkg p).func f.val).tdi = .unlocked ∧ s.replied t p ansOk [] ∧
      ∀ j, (s.wiped p f.val).readByte j = 0 → t.readByte j = 0 := by
  have pkgs := s.wiped_pkgs p f.val
  have there : ((s.wiped p f.val).pkg? p).isSome = true := by rw [State.pkg?, pkgs]; exact hp
  refine ⟨_, exec_stopInterfaceRequest_stops h, ?_, ?_, fun j hj => ?_⟩
  · rw [State.func_hostReply, State.func_modFunc _ _ there]
  · exact State.replied_hostReply (by simpa using there) (by rw [State.out_modFunc, State.pkg_congr pkgs]) _ _
  · simpa using hj

/-- FSTAT's OVF and CORE_ERR are cleared by a 1 (R4, R398). -/
theorem registerWrite_fstat_effect (h : s.takes p f.val = true) (v : Word) :
    ∃ t, exec (.registerWrite p f 0x08 v) s = .next t ∧
      ((t.pkg p).func f.val).ovf = (((s.pkg p).func f.val).ovf && !v.getLsbD 2) ∧
      ((t.pkg p).func f.val).coreErr = (((s.pkg p).func f.val).coreErr && !v.getLsbD 1) := by
  refine ⟨_, exec_registerWrite_fstat v h, ?_⟩
  rw [State.func_modFunc _ _ hp]
  exact ⟨rfl, rfl⟩
/-- FCOAL takes its two fields (R4, R398). -/
theorem registerWrite_fcoal_effect (h : s.takes p f.val = true) (v : Word) :
    ∃ t, exec (.registerWrite p f 0x18 v) s = .next t ∧ ((t.pkg p).func f.val).coalInterval = v.setWidth 16 ∧
      ((t.pkg p).func f.val).coalCount = (v >>> 16).setWidth 16 := by
  refine ⟨_, exec_registerWrite_fcoal v h, ?_⟩
  rw [State.func_modFunc _ _ hp]
  exact ⟨BitVec.eq_of_toNat_eq (by simp), BitVec.eq_of_toNat_eq (by simp [Nat.shiftRight_eq_div_pow])⟩
/-- The physical function writes an entry that is neither locked nor VALID (R386). -/
theorem registerWrite_entry_effect (h : s.takes p f.val = true) (hf : f.val = 0) {off : BitVec 24} {i o : Nat} (hi : i < 64)
    (ho : o < 256) (hoff : off.toNat = 0x20_0000 + 256 * i + o) (locked : ((s.pkg p).func i).locked = false)
    (valid : (s.entry p i).valid = false) (v : Word) :
    ∃ t, exec (.registerWrite p f off v) s = .next t ∧ t.entry p i = (s.entry p i).write o v ∧ t.mem = s.mem := by
  refine ⟨s.modFunc p i fun y => { y with part := (s.entry p i).write o v }, ?_, ?_, by simp⟩
  · rw [exec_registerWrite_tables v h (by omega) (by omega) (by omega), if_pos hf, hoff, State.writePf_entry v hi ho,
      State.writeEntry_free v locked valid]
  · rw [State.entry, State.func_modFunc _ _ hp]

/-- The loss of an IDE stream (R406). -/
theorem ideStreamFailure_effect (up : s.up p = true) :
    ∃ t, exec (.ideStreamFailure p f) s = .next t ∧ ((t.pkg p).func f.val).ide = false ∧
      ((t.pkg p).func f.val).tdi = (if ((s.pkg p).func f.val).locked then .error else ((s.pkg p).func f.val).tdi) := by
  refine ⟨_, exec_ideStreamFailure_up up f, ?_⟩
  rw [State.func_tdiError (by simpa using hp), State.func_modFunc _ _ hp]
  have locked : ({ (s.pkg p).func f.val with ide := false } : Func).locked = ((s.pkg p).func f.val).locked := rfl
  rw [locked]
  split
  · exact ⟨rfl, rfl⟩
  · exact ⟨rfl, rfl⟩

/-- While no virtual function is locked, its BAR takes the value written (R406). -/
theorem vfBarWrite_free_effect (up : s.up p = true) (bar : Fin 2) (v : Word)
    (free : ∀ i y, (i, y) ∈ (s.pkg p).funcs → i ≠ 0 → y.locked = false) :
    ∃ t, exec (.vfBarWrite p f bar v) s = .next t ∧
      (if bar = 0 then ((t.pkg p).func f.val).bar0 else ((t.pkg p).func f.val).bar2) = v := by
  have none_held : ((s.pkg p).funcs.filter fun x => x.1 != 0 && x.2.locked) = [] :=
    List.filter_eq_nil_iff.mpr fun x hx => by simpa using free x.1 x.2 hx
  refine ⟨s.modFunc p f.val fun y => if bar = 0 then { y with bar0 := v } else { y with bar2 := v }, ?_, ?_⟩
  · rw [exec_vfBarWrite_up v up, none_held]
    rfl
  · rw [State.func_modFunc _ _ hp]
    split
    · rfl
    · rfl
/-- With a locked virtual function, the write is discarded and the function goes to ERROR (R406). -/
theorem vfBarWrite_locked_effect (up : s.up p = true) (bar : Fin 2) (v : Word) {i : Nat} {y : Func} (funcs : (s.pkg p).funcs = [(i, y)])
    (hi : i ≠ 0) (locked : y.locked = true) :
    ∃ t, exec (.vfBarWrite p f bar v) s = .next t ∧ ((t.pkg p).func i).tdi = .error ∧ ((t.pkg p).func i).bar0 = y.bar0 := by
  have func : (s.pkg p).func i = y := by simp [Pkg.func, funcs, Tab.find]
  refine ⟨s.tdiError p i, ?_, ?_⟩
  · simp [exec_vfBarWrite_up v up, funcs, hi, locked]
  · rw [State.func_tdiError hp, func, if_pos locked]
    exact ⟨rfl, rfl⟩

end

/-- Settles O46: each clause is the effect of one access or request, as the lemmas above state it. -/
theorem hostInterface : Obligations.HostInterface := by
  unfold Obligations.HostInterface
  intro s p f v hp
  refine ⟨fun off w n => ⟨?unsupported, ?waits, ?served⟩, fun req up => exec_spdmRequest_answers hp up req,
    fun down i hi => exec_host_down down f v i hi, ⟨?lock, ?start, ?report, ?stop, ?insecure⟩, fun up => ideStreamFailure_effect hp up,
    fun off closed => exec_registerWrite_closed v closed, fun takes => ⟨registerWrite_fstat_effect hp takes v,
      registerWrite_fcoal_effect hp takes v, ?virtual, fun hf off => ⟨?entry, ?dsel⟩⟩,
    fun ⟨i, y, hy, valid⟩ => exec_nodeidWrite_held v hy valid, ?nodeid,
    fun bar up => ⟨vfBarWrite_free_effect hp up bar v, fun i y funcs hi locked => vfBarWrite_locked_effect hp up bar v funcs hi locked⟩⟩
  case unsupported =>
    intro h
    have run : exec (.hostBar2Access p f off w n) s = .next (s.hostReply p ansBad []) := by
      rcases h with closed | ⟨way0, way1, beyond⟩
      · exact exec_hostBar2Access_closed closed
      · exact exec_hostBar2Access_beyond (Bool.and_eq_true_iff.mpr ⟨way0, way1⟩) beyond
    exact ⟨_, run, State.replied_hostReply hp rfl _ _, by simp⟩
  case waits => exact exec_hostBar2Access_waits
  case served =>
    intro takes way valid bar size ctx pool
    have done := exec_hostBar2Access_done takes way valid bar size ctx pool
    refine ⟨?write, ?read⟩
    case write => rintro b rfl; exact ⟨_, done, hostWrite_effect hp _ b n⟩
    case read =>
      rintro rfl
      exact ⟨_, done, State.hostReply_mem .., State.replied_hostReply hp rfl _ _⟩
  case lock =>
    intro secure tdi valid ide subs launch
    refine ⟨_, exec_lockInterfaceRequest_locks (State.tdisp_iff.mpr secure) tdi valid ide subs launch, ?_, ?_⟩
    · rw [State.func_hostReply, State.pkg_withDraws, State.func_modFunc _ _ hp]
    · refine State.replied_hostReply ?_ ?_ _ _
      · rwa [State.pkg?_withDraws, State.isSome_pkg?_modFunc]
      · rw [State.pkg_withDraws, State.out_modFunc]
  case start =>
    intro secure tdi
    refine ⟨_, exec_startInterfaceRequest_runs (State.tdisp_iff.mpr secure) tdi, ?_, ?_⟩
    · rw [State.func_hostReply, State.func_modFunc _ _ hp]
    · exact State.replied_hostReply (by simpa using hp) (by simp) _ _
  case report =>
    intro secure tdi
    exact ⟨_, exec_getDeviceInterfaceReport_reports (State.tdisp_iff.mpr secure) tdi, State.replied_hostReply hp rfl _ _⟩
  case stop =>
    intro secure
    obtain ⟨t, run, tdi, reply, zero⟩ := stopInterfaceRequest_effect hp (State.tdisp_iff.mpr secure)
    refine ⟨t, run, tdi, reply, fun c hc free i hi => zero _ (s.readByte_wiped_spad p f.val ?_ hi),
      fun i hi => zero _ (s.readByte_wiped_ctx p f.val hi), fun i hi => zero _ (s.readByte_wiped_bt p f.val hi)⟩
    exact List.mem_filter.mpr ⟨hc, by simpa using free⟩
  case insecure =>
    intro insecure i hi
    exact ⟨_, exec_tdisp_fails (Bool.eq_false_iff.mpr fun h => insecure (State.tdisp_iff.mp h)) i hi,
      State.replied_hostReply hp rfl _ _, by simp⟩
  case virtual =>
    intro hf off fstat fcoal msix
    rw [exec_registerWrite_tables v takes fstat fcoal msix, if_neg hf]
  case entry => exact fun i o hi ho hoff locked valid => registerWrite_entry_effect hp takes hf hi ho hoff locked valid v
  case dsel => exact fun i hi hoff opened => exec_registerWrite_dsel v takes hf hi hoff opened
  case nodeid =>
    intro up free
    exact ⟨_, exec_nodeidWrite_free v up free, by rw [State.pkg_modPkg _ hp]⟩

end Sys2Proof.Machine
end

section
/-! SUPPORT. The fields of an instruction word read back from the word that holds them (R21 to R26), and the shared codes of
R27 to R33 read back from what encodes them. -/
namespace Sys2Proof

/-! ## The parts of a word -/

section
variable {v w lo n : Nat} (a : BitVec v) (b : BitVec w)

/-- Bits that lie in the high part of two parts joined. The model writes the width of the whole as a numeral, so the lemma keeps it
out of simp's index. -/
@[simp] theorem extract_append_high (h : w ≤ lo) :
    (HAppend.hAppend (γ := no_index (BitVec (v + w))) a b).extractLsb' lo n = a.extractLsb' (lo - w) n :=
  BitVec.extractLsb'_append_eq_of_le h
/-- Bits that lie in the low part. -/
@[simp] theorem extract_append_low (h : lo + n ≤ w) :
    (HAppend.hAppend (γ := no_index (BitVec (v + w))) a b).extractLsb' lo n = b.extractLsb' lo n :=
  BitVec.extractLsb'_append_eq_of_add_le h
end

section
variable (idle : BitVec 10) (sync : Bool) (maj : BitVec 8) (body : BitVec 45)

@[simp] theorem bits_idle : bits (joinWord idle sync maj body) 54 10 = idle := by
  simp [bits, joinWord]
@[simp] theorem bits_sync : bits (joinWord idle sync maj body) 53 1 = bit sync := by
  simp [bits, joinWord]
@[simp] theorem bits_maj : bits (joinWord idle sync maj body) 45 8 = maj := by
  simp [bits, joinWord]
/-- A field below bit 45 lies in the body. -/
theorem bits_body {lo n : Nat} (h : lo + n ≤ 45) : bits (joinWord idle sync maj body) lo n = body.extractLsb' lo n := by
  simp [bits, joinWord, h]
@[simp] theorem bits_whole_body : bits (joinWord idle sync maj body) 0 45 = body := by
  simp [bits_body]

theorem decZero_zero (i : Instr) : decZero (joinWord idle sync maj 0#45) i = some i := by
  simp [decZero, need]

/-! ## The fields of each format -/

@[simp] theorem RR.of_joinWord (r : RR) : RR.of (joinWord idle sync maj r.body) = r := by
  simp [RR.of, RR.body, bits_body]
@[simp] theorem RI.of_joinWord (r : RI) : RI.of (joinWord idle sync maj r.body) = r := by
  simp [RI.of, RI.body, bits_body]
@[simp] theorem LI.of_joinWord (r : LI) : LI.of (joinWord idle sync maj r.body) = r := by
  simp [LI.of, LI.body, bits_body]
@[simp] theorem MEM.of_joinWord (r : MEM) : MEM.of (joinWord idle sync maj r.body) = r := by
  simp [MEM.of, MEM.body, bits_body]
@[simp] theorem BR.of_joinWord (r : BR) : BR.of (joinWord idle sync maj r.body) = r := by
  simp [BR.of, BR.body, bits_body]
@[simp] theorem EC.of_joinWord (r : EC) : EC.of (joinWord idle sync maj r.body) = r := by
  simp [EC.of, EC.body, bits_body]
@[simp] theorem VV.of_joinWord (r : VV) : VV.of (joinWord idle sync maj r.body) = r := by
  simp [VV.of, VV.body, bits_body]
@[simp] theorem VM.of_joinWord (r : VM) : VM.of (joinWord idle sync maj r.body) = r := by
  simp [VM.of, VM.body, bits_body]
@[simp] theorem VS.of_joinWord (r : VS) : VS.of (joinWord idle sync maj r.body) = r := by
  simp [VS.of, VS.body, bits_body]
end

/-! ## Bounded numbers and flags -/

@[simp] theorem bit_false : bit false = 0#1 := rfl
@[simp] theorem bit_true : bit true = 1#1 := rfl
@[simp] theorem bit_beq_one (b : Bool) : (bit b == 1#1) = b := by cases b <;> rfl

section
variable {n w lo len : Nat} (i : Fin n)

theorem toNat_encFin (h : n ≤ 2 ^ w) : (encFin w i).toNat = i.val := by
  simp [encFin, Nat.mod_eq_of_lt (Nat.lt_of_lt_of_le i.isLt h)]
@[simp] theorem decFin_encFin (h : n ≤ 2 ^ w) : decFin n (encFin w i) = some i := by
  simp [decFin, toNat_encFin i h]
@[simp] theorem toFin_encFin (i : Fin (2 ^ w)) : (encFin w i).toFin = i := by
  simp [encFin]
@[simp] theorem encFin_zero [NeZero n] : encFin w (0 : Fin n) = 0#w := by simp [encFin]
/-- The low bits of a number's code are its code in fewer bits. -/
@[simp] theorem extract_encFin_low (h : len ≤ w) : (encFin w i).extractLsb' 0 len = encFin len i := by
  apply BitVec.eq_of_toNat_eq
  simp [encFin, Nat.mod_mod_of_dvd _ (Nat.pow_dvd_pow 2 h)]
/-- Above the bits that a number needs its code is zero. -/
@[simp] theorem extract_encFin_high (h : n ≤ 2 ^ lo) : (encFin w i).extractLsb' lo len = 0#len := by
  have small : i.val % 2 ^ w / 2 ^ lo = 0 :=
    Nat.div_eq_of_lt (Nat.lt_of_le_of_lt (Nat.mod_le _ _) (Nat.lt_of_lt_of_le i.isLt h))
  apply BitVec.eq_of_toNat_eq
  simp [encFin, Nat.shiftRight_eq_div_pow, small]
end

/-! ## Registers, queues and handles (R26, R27) -/

@[simp] theorem decReg_encReg (r : Fin 32) : decReg (encReg r) = some r := by revert r; decide
@[simp] theorem decH_encH (h : Fin 16) : decH (encH h) = some h := by revert h; decide
theorem encH_ne_zero (h : Fin 16) : (0#12 ++ encH h : BitVec 18) ≠ 0#18 := by revert h; decide
@[simp] theorem decDst_encDst (d : Dst) : decDst (encDst d) = some d := by
  cases d with
  | reg r => revert r; decide
  | aq q => revert q; decide
@[simp] theorem decSrc_encSrc (a : Src) : decSrc (encSrc a) = some a := by
  cases a with
  | reg r => revert r; decide
  | pop q => revert q; decide
  | peek q => revert q; decide
@[simp] theorem decAb_code (a : Ab) : decAb a.code = a := by
  cases a with
  | areg a => revert a; decide
  | aq q => revert q; decide
@[simp] theorem decA_encFin (a : Fin 12) : decA (encFin 4 a) = some a := by revert a; decide
@[simp] theorem vreg_vf (r : Fin 32) : vreg (vf r) = r := toFin_encFin (w := 5) r
@[simp] theorem decFin_vf {n : Nat} (i : Fin n) (h : n ≤ 2 ^ 5) : decFin n (vf i) = some i := decFin_encFin i h
@[simp] theorem decK_vf (k : Fin 8) : decK (vf k) = some k := decFin_vf k (by decide)
theorem aqCode_le (q : Fin 4) : 12 ≤ (Ab.aq q).code.toNat := by revert q; decide
theorem extract_aqCode (q : Fin 4) : (Ab.aq q).code.extractLsb' 0 2 = encFin 2 q := by revert q; decide

/-- A zero in a source position names a register. -/
@[simp] theorem decSrc_zero : decSrc 0#6 = some (.reg 0) := rfl
@[simp] theorem decReg_zero : decReg 0#6 = some 0 := rfl

/-! ## Types, sizes, orderings, scopes and formats (R29, R30, R32, R182, R240) -/

@[simp] theorem decTy_code (t : Ty) : decTy t.code = some t := by cases t <;> rfl
@[simp] theorem decLdSz_code (s : LdSz) : decLdSz s.code = some s := by cases s <;> rfl
@[simp] theorem decSz_code (s : Sz) : decSz s.code = some s := by cases s <;> rfl
@[simp] theorem decOrd_code (o : Ord) : decOrd o.code = some o := by cases o <;> rfl
@[simp] theorem decScope_code (s : Scope) : decScope s.code = some s := by cases s <;> rfl
@[simp] theorem decFmt_code (f : Fmt) : decFmt f.code = some f := by cases f <;> rfl

/-! ## Conditions of a decoder -/

@[simp] theorem need_true : need true = some () := rfl
/-- A well-formed instruction is kept. -/
theorem keep_wf {i : Instr} (h : i.wf = true) : keep i = some i := if_pos h

/-! ## Operands -/

@[simp] theorem decRrr_fields (o : Rrr) (fn : BitVec 9) (x : BitVec 18) :
    decRrr { d := encDst o.d, a := encSrc o.a, b := encSrc o.b, fn, x } = some o := by simp [decRrr]
@[simp] theorem decRri_fields (o : Rri) : decRri { d := encDst o.d, a := encSrc o.a, imm := o.imm } = some o := by
  simp [decRri]
@[simp] theorem decMemAddr_fields (m : MemAddr) (d : BitVec 6) (sz : BitVec 3) (ord : BitVec 2) :
    decMemAddr { d, base := m.fields.2.1, sz, am := m.fields.1, ord, off := m.fields.2.2 } = some m := by
  cases m <;> simp [decMemAddr, MemAddr.fields]
@[simp] theorem decQAddr_fields (m : QAddr) (d : BitVec 6) (sz : BitVec 3) (ord : BitVec 2) :
    decQAddr { d, base := m.fields.2.1, sz, am := m.fields.1, ord, off := m.fields.2.2 } = some m := by
  cases m <;> simp [decQAddr, QAddr.fields]
@[simp] theorem decAmoOps_fields (o : Amo) (fn : BitVec 9) :
    decAmoOps { d := encFin 6 o.q, a := encSrc o.a, b := encSrc o.b, fn, x := 0#13 ++ o.ord.code ++ o.sz.code } = some o := by
  simp [decAmoOps]
@[simp] theorem decRedOps_fields (o : Red) (fn : BitVec 9) :
    decRedOps { d := 0#6, a := encSrc o.a, b := encSrc o.b, fn, x := 0#13 ++ o.ord.code ++ o.sz.code } = some o := by
  simp [decRedOps]
@[simp] theorem decVAddr_fields {n : Nat} (m : VAddr n) : decVAddr n m.fields.1 m.fields.2.1 m.fields.2.2 = some m := by
  cases m <;> simp [decVAddr, VAddr.fields]

end Sys2Proof
end

section
/-! SUPPORT. Which decoder reads a word of each major (R37), a lemma for each format of fields. -/
namespace Sys2Proof

section
variable (idle : BitVec 10) (sync : Bool)

/-- The control words of RR fields outside majors 0x26 and 0x48 to 0x5A. -/
theorem decControl_rr (r : RR) :
    decControl (joinWord idle sync 0x02#8 r.body) = (decAlu r).map .done ∧
    decControl (joinWord idle sync 0x0C#8 r.body) = (decMulDiv false r).map .done ∧
    decControl (joinWord idle sync 0x0D#8 r.body) = (decMulDiv true r).map .done ∧
    decControl (joinWord idle sync 0x0E#8 r.body) = (decBit r).map .done ∧
    decControl (joinWord idle sync 0x0F#8 r.body) = (decBf false r).map .done ∧
    decControl (joinWord idle sync 0x10#8 r.body) = (decBf true r).map .done ∧
    decControl (joinWord idle sync 0x13#8 r.body) = (decLea false r).map .done ∧
    decControl (joinWord idle sync 0x14#8 r.body) = (decLea true r).map .done ∧
    decControl (joinWord idle sync 0x19#8 r.body) = (decJr r).map .done ∧
    decControl (joinWord idle sync 0x21#8 r.body) = (decCsr r).map .done ∧
    decControl (joinWord idle sync 0x22#8 r.body) = (decRet r).map .done ∧
    decControl (joinWord idle sync 0x24#8 r.body) = (decUie false r).map .done ∧
    decControl (joinWord idle sync 0x25#8 r.body) = (decUie true r).map .done ∧
    decControl (joinWord idle sync 0x27#8 r.body) = (decTlbi r).map .done ∧
    decControl (joinWord idle sync 0x43#8 r.body) = (decAmo r).map .done ∧
    decControl (joinWord idle sync 0x44#8 r.body) = (decRed r).map .done ∧
    decControl (joinWord idle sync 0x45#8 r.body) = (decCas r).map .done ∧
    decControl (joinWord idle sync 0x46#8 r.body) = (decFence r).map .done ∧
    decControl (joinWord idle sync 0x5B#8 r.body) = (decBt r).map .done := by
  repeat' apply And.intro
  all_goals
    rw [decControl, bits_maj, RR.of_joinWord]
    rfl
/-- The handle, ring, group and task words. -/
theorem decControl_task (r : RR) {maj : BitVec 8} (h : maj ∈ [0x26#8, 0x48#8, 0x49#8, 0x4A#8, 0x4B#8, 0x4C#8, 0x4D#8, 0x4E#8,
      0x4F#8, 0x50#8, 0x51#8, 0x52#8, 0x53#8, 0x54#8, 0x58#8, 0x59#8, 0x5A#8]) :
    decControl (joinWord idle sync maj r.body) = (decTask maj.toNat r).map .done := by
  rw [decControl, bits_maj, RR.of_joinWord]
  fin_cases h <;> rfl
/-- The immediate forms. -/
theorem decControl_imm (r : RI) {maj : BitVec 8} (lo : 0x03 ≤ maj.toNat) (hi : maj.toNat ≤ 0x0B) :
    decControl (joinWord idle sync maj r.body) = (decImm maj.toNat r).map .done := by
  rw [decControl, bits_maj, RI.of_joinWord]
  interval_cases maj.toNat <;> rfl
/-- The other words of RI fields. -/
theorem decControl_ri (r : RI) :
    decControl (joinWord idle sync 0x1F#8 r.body) = (decTrap true r).map .done ∧
    decControl (joinWord idle sync 0x20#8 r.body) = (decTrap false r).map .done := by
  repeat' apply And.intro
  all_goals
    rw [decControl, bits_maj, RI.of_joinWord]
    rfl
/-- The words of LI fields. -/
theorem decControl_li (r : LI) :
    decControl (joinWord idle sync 0x11#8 r.body) = (decLi false r).map .done ∧
    decControl (joinWord idle sync 0x12#8 r.body) = (decLi true r).map .done := by
  repeat' apply And.intro
  all_goals
    rw [decControl, bits_maj, LI.of_joinWord]
    rfl
/-- The words of BR fields. -/
theorem decControl_br (r : BR) :
    decControl (joinWord idle sync 0x18#8 r.body) = (decB r).map .done ∧
    decControl (joinWord idle sync 0x1A#8 r.body) = (decCall false r).map .done ∧
    decControl (joinWord idle sync 0x1C#8 r.body) = (decCall true r).map .done := by
  repeat' apply And.intro
  all_goals
    rw [decControl, bits_maj, BR.of_joinWord]
    rfl
/-- The words of MEM fields. -/
theorem decControl_mem (r : MEM) {maj : BitVec 8} (h : maj ∈ [0x40#8, 0x41#8, 0x42#8]) :
    decControl (joinWord idle sync maj r.body) = (decMem maj.toNat r).map .done := by
  rw [decControl, bits_maj, MEM.of_joinWord]
  fin_cases h <;> rfl
/-- The words whose body is zero. -/
theorem decControl_zero :
    decControl (joinWord idle sync 0x01#8 0#45) = some (.done .nop) ∧
    decControl (joinWord idle sync 0x1D#8 0#45) = some (.done .vjoin) ∧
    decControl (joinWord idle sync 0x1E#8 0#45) = some (.done .halt) := by
  repeat' apply And.intro
  all_goals
    rw [decControl, bits_maj]
    exact congrArg (Option.map Head.done) (decZero_zero idle sync _ _)
/-- The heads of carter units. -/
theorem decControl_carter {maj : BitVec 8} (range : 0x60 ≤ maj.toNat ∧ maj.toNat < 0x68) (body : BitVec 45) :
    decControl (joinWord idle sync maj body) = decCarterHead maj.toNat (joinWord idle sync maj body) := by
  obtain ⟨lo, hi⟩ := range
  rw [decControl, bits_maj]
  interval_cases maj.toNat <;> rfl
/-- The heads of mill units. -/
theorem decControl_mill (c : MillCmd) (body : BitVec 45) :
    decControl (joinWord idle sync c.fields.1 body) = decMillHead (joinWord idle sync c.fields.1 body) := by
  rw [decControl, bits_maj]
  cases c <;> rfl
/-- The queue commands. -/
theorem decControl_queue (body : BitVec 45) {maj : BitVec 8} (h : maj ∈ [0x70#8, 0x71#8, 0x72#8, 0x73#8]) :
    decControl (joinWord idle sync maj body) = decQueueHead maj.toNat (joinWord idle sync maj body) := by
  rw [decControl, bits_maj]
  fin_cases h <;> rfl

/-- The words of VV fields. -/
theorem decVector_vv (r : VV) :
    decVector (joinWord idle sync 0x81#8 r.body) = decArith r ∧
    decVector (joinWord idle sync 0x83#8 r.body) = decLogic r ∧
    decVector (joinWord idle sync 0x84#8 r.body) = decVcmp r ∧
    decVector (joinWord idle sync 0x85#8 r.body) = decVcvt false r ∧
    decVector (joinWord idle sync 0x90#8 r.body) = decVcvt true r ∧
    decVector (joinWord idle sync 0x8D#8 r.body) = decFold false r ∧
    decVector (joinWord idle sync 0x8E#8 r.body) = decFold true r ∧
    decVector (joinWord idle sync 0x8F#8 r.body) = decVpart r ∧
    decVector (joinWord idle sync 0x98#8 r.body) = decMask r ∧
    decVector (joinWord idle sync 0x99#8 r.body) = decVflag r := by
  repeat' apply And.intro
  all_goals
    rw [decVector, bits_maj, VV.of_joinWord]
    rfl
/-- The fused words, vclamp and vpwl. -/
theorem decVector_fused (r : VV) {maj : BitVec 8} (h : maj ∈ [0x82#8, 0x87#8, 0x88#8]) :
    decVector (joinWord idle sync maj r.body) = decFused maj.toNat r := by
  rw [decVector, bits_maj, VV.of_joinWord]
  fin_cases h <;> rfl
/-- The lane-movement words and vsel. -/
theorem decVector_move (r : VV) {maj : BitVec 8} (h : maj ∈ [0x86#8, 0x89#8, 0x8A#8, 0x8B#8, 0x8C#8, 0x91#8]) :
    decVector (joinWord idle sync maj r.body) = decMove maj.toNat r := by
  rw [decVector, bits_maj, VV.of_joinWord]
  fin_cases h <;> rfl
/-- The words of VM fields. -/
theorem decVector_vm (r : VM) {maj : BitVec 8} (lo : 0xA0 ≤ maj.toNat) (hi : maj.toNat ≤ 0xA7) :
    decVector (joinWord idle sync maj r.body) = decVm maj.toNat r := by
  rw [decVector, bits_maj, VM.of_joinWord]
  interval_cases maj.toNat <;> rfl
/-- The words of VS fields. -/
theorem decVector_vs (r : VS) {maj : BitVec 8} (h : maj ∈ [0xB0#8, 0xB1#8, 0xB2#8, 0xB3#8, 0xB4#8, 0xB6#8, 0xB7#8]) :
    decVector (joinWord idle sync maj r.body) = decVs maj.toNat r := by
  rw [decVector, bits_maj, VS.of_joinWord]
  fin_cases h <;> rfl
/-- The word whose body is zero. -/
theorem decVector_zero : decVector (joinWord idle sync 0x80#8 0#45) = some .vnop := by
  rw [decVector, bits_maj]
  exact decZero_zero idle sync _ _
end

end Sys2Proof
end

section
/-! SUPPORT. What it takes for the words of an instruction to decode to it again: for a vector word, for a control word alone, and
for the units of the engines with the words that follow their head (R34, R36, R328, R329). -/
namespace Sys2Proof

/-- Decoding what encoding writes gives the instruction back, with any IDLE count and SYNC bit and whatever words follow. -/
def RoundTrips (i : Instr) : Prop :=
  ∀ (idle : BitVec 10) (sync : Bool) (mb : BitVec 8 × BitVec 45) (rest : List Word), i.majBody = some mb →
    let w := joinWord idle sync mb.1 mb.2
    decodeUnit (streamOf w) w (i.tailWords ++ rest) = .ok { idle, sync, instr := i }

/-- The instruction of a head, given the words after it. -/
def Head.finish : Head → List Word → Option Instr
  | .done i, _ => some i
  | .more n fin, l => fin (l.take n)

/-- A control word decodes to the instruction of its head (R38). -/
theorem decodeUnit_control {w : Word} {l : List Word} {i : Instr} (pos : 0 < (bits w 45 8).toNat) (lt : (bits w 45 8).toNat < 0x80)
    (dec : (decControl w).bind (·.finish l) = some i) :
    decodeUnit .control w l = .ok { idle := bits w 54 10, sync := bits w 53 1 == 1, instr := i } := by
  obtain ⟨head, hd, fin⟩ := Option.bind_eq_some_iff.mp dec
  cases head with
  | done j =>
    cases fin
    simp [decodeUnit, decodeHead, hd, pos.ne', Nat.not_le.mpr lt]
  | more n f =>
    have last : f (l.take n) = some i := fin
    simp [decodeUnit, decodeHead, hd, pos.ne', Nat.not_le.mpr lt, last]

/-- The round trip of a control word, with the words of its unit. -/
theorem RoundTrips.of_head {i : Instr} {maj : BitVec 8} {body : BitVec 45} (enc : i.majBody = some (maj, body))
    (dec : ∀ idle sync rest, (decControl (joinWord idle sync maj body)).bind (·.finish (i.tailWords ++ rest)) = some i)
    (range : 0 < maj.toNat ∧ maj.toNat < 0x80 := by decide) : RoundTrips i := by
  intro idle sync mb rest h
  cases enc.symm.trans h
  obtain ⟨pos, lt⟩ := range
  have run := decodeUnit_control (by simpa using pos) (by simpa using lt) (dec idle sync rest)
  simpa [streamOf, Nat.not_le.mpr lt] using run
/-- The round trip of a control word that stands alone. -/
theorem RoundTrips.of_control {i : Instr} {maj : BitVec 8} {body : BitVec 45} (enc : i.majBody = some (maj, body))
    (dec : ∀ idle sync, decControl (joinWord idle sync maj body) = some (.done i))
    (range : 0 < maj.toNat ∧ maj.toNat < 0x80 := by decide) : RoundTrips i :=
  .of_head enc (fun idle sync rest => by rw [dec]; rfl) range
/-- The round trip of a vector word. -/
theorem RoundTrips.of_vector {i : Instr} {maj : BitVec 8} {body : BitVec 45} (enc : i.majBody = some (maj, body))
    (dec : ∀ idle sync, decVector (joinWord idle sync maj body) = some i) (range : 0x80 ≤ maj.toNat := by decide) :
    RoundTrips i := by
  intro idle sync mb rest h
  cases enc.symm.trans h
  have pos : ¬ maj.toNat = 0 := by omega
  have above : ¬ maj.toNat ≤ 0x7F := by omega
  simp [streamOf, decodeUnit, decodeHead, dec, range, pos, above]

/-! ## The words of engine units -/

section
variable (idle : BitVec 10) (sync : Bool)

@[simp] theorem paramsOf_words (p : Params) : paramsOf p.words = some p := rfl
@[simp] theorem Params.take_words (p : Params) (l : List Word) : (p.words ++ l).take 4 = p.words := rfl
@[simp] theorem Params.drop_words (p : Params) (l : List Word) : (p.words ++ l).drop 4 = l := rfl
@[simp] theorem Params.take_self (p : Params) : p.words.take 4 = p.words := rfl
/-- The words after a carter unit's head with a follow-on: its parameters, the follow-on and the follow-on's parameters. -/
@[simp] theorem Params.take_follow (p q : Params) (w : Word) (l : List Word) :
    (p.words ++ w :: (q.words ++ l)).take 9 = p.words ++ w :: q.words := rfl

theorem decMill_fields (c : MillCmd) (h : c.wf = true) : decMill c.fields.1.toNat c.fields.2 = some c := by
  cases c with
  | lds p f =>
    have plane : f.isPlane = true := h
    simp [decMill, MillCmd.fields, plane]
  | mmr p r j t =>
    have count : 1 ≤ t.val ∧ t.val ≤ 64 := of_decide_eq_true h
    simp [decMill, MillCmd.fields, count]
  | mm p | relax p b n | relaxb p | pwl t | chain p l => simp [decMill, MillCmd.fields]

/-- The queue codes of the mill are 4 and 5 (R33). -/
theorem millQueue_code (q : Fin 2) :
    ((0b010#3 ++ encFin 1 q : BitVec 4) == 4#4 || (0b010#3 ++ encFin 1 q : BitVec 4) == 5#4) = true := by
  revert q; decide

theorem decMillWord_mill (e : MillWord) (c : MillCmd) (h : c.wf = true) :
    decMillWord (joinWord idle sync (mill e c).1 (mill e c).2) = some (e.q, e.i, e.w, c) := by
  simp [decMillWord, mill, millQueue_code, decMill_fields c h]

/-- The IDLE and SYNC bits of a follow-on word are zero (R36). -/
theorem bits_idle_sync_zero (maj : BitVec 8) (body : BitVec 45) : bits (joinWord 0#10 false maj body) 53 11 = 0#11 := by
  have parts : bits (joinWord 0#10 false maj body) 53 11 = (0#10 ++ bit false : BitVec 11) := by
    rw [bits, joinWord, extract_append_high _ _ (by decide), extract_append_high _ _ (by decide)]
    exact BitVec.extractLsb'_eq_self
  exact parts
/-- A follow-on word and its parameters give the follow-on back (R36). -/
theorem decFollow_words (f : FollowOn) (h : f.cmd.wf = true) :
    decFollow (joinWord 0#10 false (mill f.word f.cmd).1 (mill f.word f.cmd).2) f.word.p = some f := by
  simp only [decFollow, bits_idle_sync_zero, decMillWord_mill _ _ f.word f.cmd h]
  rfl
end

/-! ## The units -/

/-- The round trip of a mill unit. -/
theorem RoundTrips.of_mill {e : MillWord} {c : MillCmd} (enc : (c.instr e).majBody = some (mill e c))
    (tail : (c.instr e).tailWords = e.p.words) (wf : c.wf = true) : RoundTrips (c.instr e) := by
  have range : 0 < c.fields.1.toNat ∧ c.fields.1.toNat < 0x80 := by cases c <;> simp [MillCmd.fields]
  refine .of_head enc (fun idle sync rest => ?_) range
  have word := decMillWord_mill idle sync e c wf
  simp only [mill, BitVec.ofNat_eq_ofNat] at word
  simp [decControl_mill, decMillHead, word, tail, Head.finish]

/-- A carter unit round-trips when its command is read back from its major and X, in its head, where the parameters are still to
come, and in the whole unit; F is for majors other than 0x64 and 0x67, H for those other than 0x67 (R329). -/
theorem RoundTrips.of_carter {i : Instr} {e : CarterWord} {maj : BitVec 8} {x : BitVec 21}
    (enc : i.majBody = some (carter maj e x)) (tail : i.tailWords = e.tailWords)
    (unit : e.wf (maj.toNat != 0x64 && maj.toNat != 0x67) = true) (handle : e.h = 0 ∨ maj.toNat ≠ 0x67)
    (head : ∀ p, (decCarter maj.toNat x { e with p, follow := none }).isSome = true) (whole : decCarter maj.toNat x e = some i)
    (range : 0x60 ≤ maj.toNat ∧ maj.toNat < 0x68 := by decide) : RoundTrips i := by
  refine .of_head enc (fun idle sync rest => ?_) (by omega)
  rw [decControl_carter _ _ range, tail]
  obtain ⟨_, known⟩ := Option.isSome_iff_exists.mp (head { p0 := 0#64, p1 := 0#64, p2 := 0#64, p3 := 0#64 })
  obtain ⟨q, h, i, w, p, follow⟩ := e
  have handleCode : (encFin 4 h == 0#4 || maj.toNat != 0x67) = true := by
    rcases handle with rfl | other
    · rfl
    · simp [other]
  cases follow with
  | none => simp [decCarterHead, CarterWord.tailWords, Head.finish, known, whole, handleCode]
  | some f =>
    obtain ⟨allowed, wf⟩ := Bool.and_eq_true_iff.mp unit
    simp [decCarterHead, CarterWord.tailWords, FollowOn.words, Head.finish, known, whole, handleCode, allowed, decFollow_words f wf]

end Sys2Proof
end

section
/-! SUPPORT. Every instruction that a program can hold decodes from its own words, by the ranges of the majors (R22, R37), and the
statements about encoding and decoding. -/
namespace Sys2Proof

/-- Does the major of an instruction lie from `lo` up to but not including `hi`? An event of the machine has no
major. (The encoding of `qResume` splits on its operand, so its major is read off only after that split.) -/
def Instr.majorIn (i : Instr) (lo hi : Nat) : Bool := i.majBody.any fun mb => lo ≤ mb.1.toNat && mb.1.toNat < hi

/-! ## The control stream -/

/-- The scalar words: arithmetic, transfers, CSRs, TLB invalidation and `wait`. -/
theorem roundTrips_scalar {i : Instr} (wf : i.wf = true) (m : i.majorIn 0x00 0x40 = true) : RoundTrips i := by
  cases i with
  | nop | vjoin | halt => exact .of_control rfl fun _ _ => by simp [decControl_zero]
  | add o | sub o | and o | or o | xor o | andn o | shl o | shr o | sra o | rot o | min o | max o | minu o | maxu o | slt o
  | sltu o | seq o | sel o c => exact .of_control rfl fun _ _ => by simp [decControl_rr, decAlu]
  | addImmediate o | andImmediate o | orImmediate o | xorImmediate o | sltImmediate o | sltuImmediate o =>
    exact .of_control rfl fun _ _ => by simp [decControl_imm, decImm]
  | shlImmediate o | shrImmediate o | sraImmediate o =>
    have amount : o.imm.toNat < 64 := of_decide_eq_true wf
    exact .of_control rfl fun _ _ => by simp [decControl_imm, decImm, amount]
  | mul o | mulh o | mulhu o | div o | divu o | rem o | remu o =>
    exact .of_control rfl fun _ _ => by simp [decControl_rr, decMulDiv]
  | clz d a | ctz d a | popc d a | bswap d a => exact .of_control rfl fun _ _ => by simp [decControl_rr, decBit, decFin]
  | sext d a n | zext d a n => exact .of_control rfl fun _ _ => by simp [decControl_rr, decBit]
  | bfx d a lo wm1 | bfi d a lo wm1 => exact .of_control rfl fun _ _ => by simp [decControl_rr, decBf, decField]
  | li d imm | lih d imm => exact .of_control rfl fun _ _ => by simp [decControl_li, decLi]
  | lea o sh disp | gaddr o => exact .of_control rfl fun _ _ => by simp [decControl_rr, decLea]
  | bEq o | bNe o | bLt o | bGe o | bLtu o | bGeu o | bAl disp | bFany disp | bFall disp | bFnone disp =>
    exact .of_control rfl fun _ _ => by simp [decControl_br, decB]
  | call disp | vgo disp => exact .of_control rfl fun _ _ => by simp [decControl_br, decCall]
  | jr d a => exact .of_control rfl fun _ _ => by simp [decControl_rr, decJr]
  | trap imm | sys imm => exact .of_control rfl fun _ _ => by simp [decControl_ri, decTrap]
  | csrr d n | csrw n a | csrs d n a | csrc d n a => exact .of_control rfl fun _ _ => by simp [decControl_rr, decCsr]
  | uret | kret => exact .of_control rfl fun _ _ => by simp [decControl_rr, decRet]
  | uie d | uid d | fget d => exact .of_control rfl fun _ _ => by simp [decControl_rr, decUie]
  | tlbiPage a b | tlbiContext a | tlbiAll => exact .of_control rfl fun _ _ => by simp [decControl_rr, decTlbi]
  | wait q a => exact .of_control rfl fun _ _ => by simp [decControl_task, decTask]
  | qResume q remote => cases remote <;> exact absurd m Bool.false_ne_true
  | _ => exact absurd m Bool.false_ne_true

/-- The memory, atomic, handle, ring, group and task words. -/
theorem roundTrips_memory {i : Instr} (wf : i.wf = true) (m : i.majorIn 0x40 0x60 = true) : RoundTrips i := by
  cases i with
  | ld d addr sz ord =>
    have base : ldBaseOk d addr = true := wf
    exact .of_control rfl fun _ _ => by simp [decControl_mem, decMem, base]
  | st d addr sz ord | ldq q addr sz ord => exact .of_control rfl fun _ _ => by simp [decControl_mem, decMem]
  | amoSwap o | amoAdd o | amoAnd o | amoOr o | amoXor o | amoMin o | amoMax o | amoMinu o | amoMaxu o | amoFadd o | amoFmin o
  | amoFmax o | amoBfadd o | amoBfmin o | amoBfmax o =>
    exact .of_control rfl fun _ _ => by simp [decControl_rr, decAmo, keep_wf wf]
  | redAdd o | redAnd o | redOr o | redXor o | redMin o | redMax o | redMinu o | redMaxu o | redFadd o | redFmin o | redFmax o
  | redBfadd o | redBfmin o | redBfmax o => exact .of_control rfl fun _ _ => by simp [decControl_rr, decRed, keep_wf wf]
  | cas o c => exact .of_control rfl fun _ _ => by simp [decControl_rr, decCas]
  | fenceAcq s | fenceRel s | fenceFull s => exact .of_control rfl fun _ _ => by simp [decControl_rr, decFence]
  | tnew hf hs a b =>
    cases hs with
    | none => exact .of_control rfl fun _ _ => by simp [decControl_task, decTask, keep_wf wf]
    | some h => exact .of_control rfl fun _ _ => by simp [decControl_task, decTask, keep_wf wf, encH_ne_zero]
  | spawn a b => exact .of_control rfl fun _ _ => by simp [decControl_task, decTask, keep_wf wf]
  | hdup _ _ | hdrop _ | hsend _ _ _ _ | hrecv _ _ | hinfo _ _ | tring _ _ _ _ _ | tclaim _ _ _ _ | tnext _ _ _ _ _ | tclose _ _
  | gdef _ _ | gdel _ | gsee _ _ _ _ _ _ | join _ _ | enq _ _ _ =>
    exact .of_control rfl fun _ _ => by simp [decControl_task, decTask]
  | btAlloc d a | btFree d a | btShare d a b | btXl d a => exact .of_control rfl fun _ _ => by simp [decControl_rr, decBt]
  | qResume q remote => cases remote <;> exact absurd m Bool.false_ne_true
  | _ => exact absurd m Bool.false_ne_true

/-- The engine units and the queue commands. -/
theorem roundTrips_engine {i : Instr} (wf : i.wf = true) (m : i.majorIn 0x60 0x80 = true) : RoundTrips i := by
  cases i with
  | cCopy e | cGath e | cGathZ e | cScat e | cFill e b | cGet e | cPut e =>
    exact .of_carter (e := e) rfl rfl wf (.inr (by decide)) (fun _ => by simp [decCarter]) (by simp [decCarter])
  | cPin e | cPinOff e =>
    obtain ⟨alone, handle⟩ := Bool.and_eq_true_iff.mp wf
    exact .of_carter (e := e) rfl rfl alone (.inl (eq_of_beq handle)) (fun _ => by simp [decCarter]) (by simp [decCarter])
  | cRedAdd e sz | cRedAnd e sz | cRedOr e sz | cRedXor e sz | cRedMin e sz | cRedMax e sz | cRedMinu e sz | cRedMaxu e sz =>
    exact .of_carter (e := e) rfl rfl wf (.inr (by decide))
      (fun _ => by simp [decCarter, credX, keep, Instr.wf, CarterWord.wf]) (by simp [decCarter, credX, keep_wf wf])
  | cRedFadd e sz | cRedFmin e sz | cRedFmax e sz | cRedBfadd e sz | cRedBfmin e sz | cRedBfmax e sz =>
    obtain ⟨unit, size⟩ := Bool.and_eq_true_iff.mp wf
    exact .of_carter (e := e) rfl rfl unit (.inr (by decide))
      (fun _ => by simp [decCarter, credX, keep, Instr.wf, CarterWord.wf, size]) (by simp [decCarter, credX, keep_wf wf])
  | mLds e p f => exact .of_mill (c := .lds p f) rfl rfl wf
  | mMm e p => exact .of_mill (c := .mm p) rfl rfl wf
  | mMmr e p r j t => exact .of_mill (c := .mmr p r j t) rfl rfl wf
  | mRelax e p b n => exact .of_mill (c := .relax p b n) rfl rfl wf
  | mRelaxb e p => exact .of_mill (c := .relaxb p) rfl rfl wf
  | mPwl e t => exact .of_mill (c := .pwl t) rfl rfl wf
  | mChain e p l => exact .of_mill (c := .chain p l) rfl rfl wf
  | qWait e q p =>
    exact .of_head rfl fun _ _ _ => by simp [decControl_queue, decQueueHead, Head.finish, Instr.tailWords]
  | qFence e mask | qSig e => exact .of_control rfl fun _ _ => by simp [decControl_queue, decQueueHead]
  | qResume q remote => cases remote <;> exact .of_control rfl fun _ _ => by simp [decControl_queue, decQueueHead]
  | _ => exact absurd m Bool.false_ne_true

/-! ## The vector stream -/

/-- The vector words on lanes and masks. -/
theorem roundTrips_lanes {i : Instr} (wf : i.wf = true) (m : i.majorIn 0x80 0xA0 = true) : RoundTrips i := by
  cases i with
  | vnop => exact .of_vector rfl fun _ _ => by simp [decVector_zero]
  | vadd o | vsub o | vmul o | vmin o | vmax o | vdiv o | vcsgn o | vabs o | vneg o | vsqrt o =>
    cases o
    exact .of_vector rfl fun _ _ => by simp [decVector_vv, decArith, keep_wf wf]
  | vfma o | vfms o | vfnma o | vfnms o | vclamp o | vpwl o =>
    cases o
    exact .of_vector rfl fun _ _ => by simp [decVector_fused, decFused, keep_wf wf]
  | vand o | vor o | vxor o | vandn o | vshl o | vshr o | vsra o | vrol o | vshlImmediate o | vshrImmediate o | vsraImmediate o
  | vrolImmediate o =>
    cases o
    exact .of_vector rfl fun _ _ => by simp [decVector_vv, decLogic, keep_wf wf]
  | vcmpEq o | vcmpNe o | vcmpLt o | vcmpLe o | vcmpGt o | vcmpGe o | vcmpUn o | vcmpOrd o =>
    cases o
    exact .of_vector rfl fun _ _ => by simp [decVector_vv, decVcmp, keep_wf wf]
  | vclass o =>
    cases o
    exact .of_vector rfl fun _ _ => by simp [decVector_vv, decVcvt, keep_wf wf]
  | vcvt o t s => exact .of_vector rfl fun _ _ => by simp [decVector_vv, decVcvt]
  | vsel _ _ _ _ _ | vperm _ _ _ _ | vrot _ _ _ _ | vbcast _ _ _ _ | vbcastScalar _ _ _ | vmov _ _ _ =>
    exact .of_vector rfl fun _ _ => by simp [decVector_move, decMove]
  | viota ty d k => exact .of_vector rfl fun _ _ => by simp [decVector_move, decMove, keep_wf wf]
  | vfoldAdd o | vfoldMin o | vfoldMax o | vfoldAnd o | vfoldOr o | vfoldXor o | vscanAdd o | vscanMin o | vscanMax o | vscanAnd o
  | vscanOr o | vscanXor o =>
    cases o
    exact .of_vector rfl fun _ _ => by simp [decVector_vv, decFold, keep_wf wf]
  | vpart d c n => exact .of_vector rfl fun _ _ => by simp [decVector_vv, decVpart, keep_wf wf]
  | kand _ _ _ | kor _ _ _ | kxor _ _ _ | knot _ _ | kmov _ _ | kset _ _ | ksetRegister _ _ =>
    exact .of_vector rfl fun _ _ => by simp [decVector_vv, decMask]
  | vflag a k => exact .of_vector rfl fun _ _ => by simp [decVector_vv, decVflag]
  | qResume q remote => cases remote <;> exact absurd m Bool.false_ne_true
  | _ => exact absurd m Bool.false_ne_true

/-- The vector words on memory, address registers, loops, branches and banks. -/
theorem roundTrips_addresses {i : Instr} (wf : i.wf = true) (m : i.majorIn 0xA0 0x100 = true) : RoundTrips i := by
  cases i with
  | vld _ _ _ _ | vst _ _ _ _ | vldx _ _ _ _ _ | vstx _ _ _ _ _ | vpop _ _ _ =>
    exact .of_vector rfl fun _ _ => by simp [decVector_vm, decVm]
  | vldq ty q addr k => cases addr <;> exact .of_vector rfl fun _ _ => by simp [decVector_vm, decVm, VqAddr.fields]
  | vamoSwap o | vamoAdd o | vamoMin o | vamoMax o | vamoAnd o | vamoOr o | vamoXor o =>
    obtain ⟨ty, q, s, addr, k⟩ := o
    cases addr <;> exact .of_vector rfl fun _ _ => by simp [decVector_vm, decVm, VaAddr.fields, keep_wf wf]
  | vredmAdd o | vredmMin o | vredmMax o | vredmAnd o | vredmOr o | vredmXor o =>
    cases o
    exact .of_vector rfl fun _ _ => by simp [decVector_vm, decVm, keep_wf wf]
  | apop d q => exact .of_vector rfl fun _ _ => by simp [decVector_vs, decVs, aqCode_le, extract_aqCode]
  | loop l a imm => exact .of_vector rfl fun _ _ => by simp [decVector_vs, decVs, keep_wf wf]
  | vlend b | vreclaim b => cases b <;> exact .of_vector rfl fun _ _ => by simp [decVector_vs, decVs, lendLc]
  | aadd _ _ _ | asub _ _ _ | ashl _ _ _ | amov _ _ | aaddRegister _ _ _ | asubRegister _ _ _ | ali _ _ | loopOff _ | vbr _
  | vbrZ _ _ | vbrNz _ _ | vbrNeg _ _ | vbrNneg _ _ | vbrKany _ _ | vbrKnone _ _ | vend =>
    exact .of_vector rfl fun _ _ => by simp [decVector_vs, decVs]
  | qResume q remote => cases remote <;> exact absurd m Bool.false_ne_true
  | _ => exact absurd m Bool.false_ne_true

/-! ## All words -/

/-- Every well-formed instruction round-trips, whatever the range of its major. -/
theorem roundTrips {i : Instr} (wf : i.wf = true) : RoundTrips i := by
  intro idle sync mb rest enc
  have inRange (lo hi : Nat) (h : lo ≤ mb.1.toNat ∧ mb.1.toNat < hi) : i.majorIn lo hi = true := by
    simp [Instr.majorIn, enc, h]
  have top : mb.1.toNat < 0x100 := mb.1.isLt
  by_cases scalar : mb.1.toNat < 0x40
  · exact roundTrips_scalar wf (inRange _ _ (by omega)) idle sync mb rest enc
  by_cases memory : mb.1.toNat < 0x60
  · exact roundTrips_memory wf (inRange _ _ (by omega)) idle sync mb rest enc
  by_cases engine : mb.1.toNat < 0x80
  · exact roundTrips_engine wf (inRange _ _ (by omega)) idle sync mb rest enc
  by_cases lanes : mb.1.toNat < 0xA0
  · exact roundTrips_lanes wf (inRange _ _ (by omega)) idle sync mb rest enc
  · exact roundTrips_addresses wf (inRange _ _ (by omega)) idle sync mb rest enc

/-- Settles O53: what encoding writes is the head word and the tail of a well-formed instruction, which round-trips. -/
theorem decodeEncodeRoundTrip : Obligations.DecodeEncodeRoundTrip := by
  unfold Obligations.DecodeEncodeRoundTrip
  intro u w ws rest wf enc
  obtain ⟨mb, body, words⟩ := Option.map_eq_some_iff.mp enc
  obtain ⟨rfl, rfl⟩ := List.cons.inj words
  exact roundTrips wf u.idle u.sync mb rest body

/-- A word that encoding writes for a well-formed instruction decodes to it in its own stream. -/
theorem decodeUnit_of_encode {u : Slot} {w : Word} {st : Stream} (wf : u.instr.wf = true) (enc : encode u = some [w])
    (stream : streamOf w = st) : decodeUnit st w [] = .ok u :=
  stream ▸ decodeEncodeRoundTrip u w [] [] wf enc

/-- Settles O52: each word is the one that encoding writes for its instruction. -/
theorem decodesSpecWords : Obligations.DecodesSpecWords := by
  unfold Obligations.DecodesSpecWords
  exact ⟨decodeUnit_of_encode rfl rfl rfl, decodeUnit_of_encode rfl rfl rfl, decodeUnit_of_encode rfl rfl rfl,
    decodeUnit_of_encode rfl rfl rfl, decodeUnit_of_encode rfl rfl rfl, decodeUnit_of_encode rfl rfl rfl⟩

end Sys2Proof
end

section
/-! SUPPORT. A core's cycle while its words are offered: what each stream's part comes to when its next word is latched, and which
move of the agenda a step makes (R22, R38, R43, R88, R151). -/
namespace Sys2Proof.Machine
open Sys2Proof.Safety

/-! ## How a stream stands as its cycle begins -/

/-- The control stream stands at a word that it is to offer in this cycle, and nothing of an earlier cycle comes first (R22, R48, R56). -/
structure Core.ctlAt (x : Core) (w : Word) : Prop where
  running : x.ctl.running = true
  blk : x.ctl.blk = none
  words : x.ctl.words = [w]
  idle : x.ctl.idle = some 0
  nan : x.ctl.nan = none
  wait : x.ctl.wait = none
/-- The vector stream stands at such a word (R22, R88, R103). -/
structure Core.vecAt (x : Core) (w : Word) : Prop where
  goes : x.vec.goes = true
  words : x.vec.words = [w]
  idle : x.vec.idle = some 0
  nan : x.vec.nan = none
  trap : x.vec.trap = none
  wait : x.vec.wait = none
/-- The control stream issues nothing, and has no trap to take. -/
structure Core.ctlRests (x : Core) : Prop where
  running : x.ctl.running = false
  nan : x.ctl.nan = none
/-- The vector stream issues nothing, and has no trap to take. -/
structure Core.vecRests (x : Core) : Prop where
  goes : x.vec.goes = false
  nan : x.vec.nan = none
  trap : x.vec.trap = none

/-! ## The local stores that are due -/

section
variable (s : State) (c : Nat)

@[simp] theorem State.write_core (k : Nat) (b : List Byte) (d : Nat) : (s.write k b).core d = s.core d := rfl
/-- What is written for stores leaves the cores. -/
theorem State.foldl_write_core (l : List LStore) (d : Nat) :
    (l.foldl (fun s st => s.write (spadKey c st.off) st.bytes) s).core d = s.core d := by
  induction l generalizing s with
  | nil => rfl
  | cons st r ih => rw [List.foldl_cons, ih, State.write_core]
/-- The stores that are due leave their core but for themselves (R83). -/
theorem State.storesDue_core : (s.storesDue c).core c =
    (s.core c).withCtl fun t => { t with stores := t.stores.filter fun st => st.left != 0 } := by
  unfold State.storesDue
  rw [State.core_modCore, State.foldl_write_core]

end

/-! ## A stream whose next word is latched -/

section
variable {s : State} {c : Nat} {w : Word}

theorem State.latchCtl_at (h : (s.core c).ctlAt w) : s.latchCtl c = (s, none) := by
  unfold State.latchCtl
  simp [h.words]
theorem State.latchCtl_rests (h : (s.core c).ctlRests) : s.latchCtl c = (s, none) := by
  unfold State.latchCtl
  simp [h.running]
theorem State.latchVec_at (h : (s.core c).vecAt w) : s.latchVec c = (s, none) := by
  unfold State.latchVec
  simp [h.words]
theorem State.latchVec_rests (h : (s.core c).vecRests) : s.latchVec c = (s, none) := by
  unfold State.latchVec
  simp [h.goes]

/-- The control stream runs the unit at its word, or takes the trap of one that is refused (R38). -/
theorem State.offerCtl_runs (h : (s.core c).ctlAt w) {s2 : State} {u : Slot}
    (unit : s.unitAt c .control w (s.core c).ctl.pc = (s2, .ok u)) : s.offerCtl c = exec u.instr s2 := by
  unfold State.offerCtl Ctl.offers Ctl.offered stallTrap waitOps
  simp [State.latchCtl_at h, h.running, h.blk, h.words, h.idle, h.nan, h.wait, unit]
theorem State.offerCtl_refuses (h : (s.core c).ctlAt w) {s2 : State} {t : Trap}
    (unit : s.unitAt c .control w (s.core c).ctl.pc = (s2, .error t)) : s.offerCtl c = .next (s2.take c (.sync t false)) := by
  unfold State.offerCtl Ctl.offers Ctl.offered stallTrap waitOps
  simp [State.latchCtl_at h, h.running, h.blk, h.words, h.idle, h.nan, h.wait, unit]
theorem State.offerCtl_rests (h : (s.core c).ctlRests) : s.offerCtl c = .next s := by
  unfold State.offerCtl Ctl.offers
  simp [State.latchCtl_rests h, h.running, h.nan]
/-- The vector stream runs the unit at its word. -/
theorem State.offerVec_runs (h : (s.core c).vecAt w) {s2 : State} {u : Slot}
    (unit : s.unitAt c .vector w (s.core c).vec.pc = (s2, .ok u)) : s.offerVec c = exec u.instr s2 := by
  unfold State.offerVec Vec.offers Vec.offered stallTrap waitOps
  simp [State.latchVec_at h, h.goes, h.words, h.idle, h.nan, h.trap, h.wait, unit]
theorem State.offerVec_rests (h : (s.core c).vecRests) : s.offerVec c = .next s := by
  unfold State.offerVec Vec.offers
  simp [State.latchVec_rests h, h.goes, h.nan, h.trap]

/-! ## Units -/

/-- A head word that does not decode is refused with its unit (R38). -/
theorem decodeUnit_refused {st : Stream} {r : Reject} (head : decodeHead st w = .error r) (l : List Word) :
    decodeUnit st w l = .error r := by
  unfold decodeUnit; rw [head]
/-- A unit of one word fetches nothing more (R23). -/
theorem State.fetchTail_zero (s : State) (c : Nat) (pc : Word) : s.fetchTail c pc 0 = (s, .ok []) := rfl
theorem State.unitAt_done {st : Stream} {i : Instr} (head : decodeHead st w = .ok (.done i)) {u : Slot}
    (unit : decodeUnit st w [] = .ok u) (pc : Word) : s.unitAt c st w pc = (s, .ok u) := by
  unfold State.unitAt
  simp only [head, State.fetchTail_zero, unit]
theorem State.unitAt_more {n : Nat} {fin : List Word → Option Instr} (head : decodeHead .control w = .ok (.more n fin)) {pc : Word}
    {s2 : State} {l : List Word} (tail : s.fetchTail c (pc + 8) n = (s2, .ok l)) {u : Slot}
    (unit : decodeUnit .control w l = .ok u) : s.unitAt c .control w pc = (s2, .ok u) := by
  unfold State.unitAt
  simp only [head, tail, unit]
theorem State.unitAt_refused {r : Reject} (head : decodeHead .control w = .error r) (pc : Word) :
    s.unitAt c .control w pc = (s, .error { cause := rejectCause r, info := w }) := by
  have unit : decodeUnit .control w [] = .error r := decodeUnit_refused head []
  unfold State.unitAt
  simp only [head, State.fetchTail_zero, unit]
/-- A word of the vector stream is a unit of its own. -/
theorem State.unitAt_vector {u : Slot} (unit : decodeUnit .vector w [] = .ok u) (pc : Word) :
    s.unitAt c .vector w pc = (s, .ok u) := by
  have one : ∀ n fin, decodeHead .vector w ≠ .ok (.more n fin) := by
    intro n fin head
    unfold decodeHead at head
    dsimp only at head
    split at head
    · cases head
    · split at head
      · cases head
      · split at head <;> cases head
  cases head : decodeHead .vector w with
  | error r => rw [decodeUnit_refused head] at unit; cases unit
  | ok unitHead => cases unitHead with
    | done i => exact State.unitAt_done head unit pc
    | more n fin => exact absurd head (one n fin)

/-- SYNC of a unit is that of its head word (R22). -/
theorem syncOf_eq (w : Word) : syncOf w = (bits w 53 1 == 1) := by
  have bit : (bits w 53 1).getLsbD 0 = w.getLsbD 53 := by simp [bits]
  rw [syncOf, ← bit]
  rcases BitVec.eq_zero_or_eq_one (bits w 53 1) with zero | one
  · rw [zero]; rfl
  · rw [one]; rfl
theorem decodeUnit_sync {st : Stream} {w : Word} {l : List Word} {u : Slot} (unit : decodeUnit st w l = .ok u) : syncOf w = u.sync := by
  rw [syncOf_eq]
  unfold decodeUnit at unit
  cases head : decodeHead st w with
  | error r => rw [head] at unit; cases unit
  | ok unitHead => cases unitHead with
    | done i => rw [head] at unit; cases unit; rfl
    | more n fin =>
      simp only [head] at unit
      cases done : fin (l.take n) with
      | some i => rw [done] at unit; cases unit; rfl
      | none => rw [done] at unit; cases unit

/-! ## The words of a cycle -/

/-- The control stream's word alone is offered: the cycle is its outcome, the stores that are due performed before it (R83, R151). -/
theorem State.offerWords_ctl (h : (s.core c).ctlAt w) (rests : (s.core c).vecRests) (sound : s.trapped c = false) {t : State}
    (run : (s.storesDue c).offerCtl c = .next t) : s.offerWords c = .next t := by
  have latch : s.latch c = s := by
    unfold State.latch; rw [State.latchVec_rests rests]; simp [State.latchCtl_at h]
  unfold State.offerWords Vec.offers State.combine
  simp only [latch, rests.goes, Bool.and_false, Bool.false_and, run, State.offerVec_rests rests, sound, Bool.false_eq_true, if_false]
  split <;> rfl
/-- The vector stream's word alone is offered: a trap that it takes ends the cycle, and otherwise the stores that are due come after
it (R151). -/
theorem State.offerWords_vec (h : (s.core c).vecAt w) (rests : (s.core c).ctlRests) (sound : s.trapped c = false)
    (plain : syncOf w = false) {t : State} (run : s.offerVec c = .next t) :
    (t.trapped c = true → s.offerWords c = .next t) ∧
      (t.trapped c = false → (t.core c).ctlRests → s.offerWords c = .next (t.storesDue c)) := by
  have latch : s.latch c = s := by
    unfold State.latch; rw [State.latchVec_at h]; simp [State.latchCtl_rests rests]
  have due (u : State) (r : (u.core c).ctlRests) : ((u.storesDue c).core c).ctlRests := by
    rw [State.storesDue_core]; exact ⟨r.running, r.nan⟩
  have still : (s.storesDue c).trapped c = false := by
    simpa [State.trapped, State.storesDue_core] using sound
  unfold State.offerWords Ctl.offers Vec.offered State.combine
  simp only [latch, rests.running, Bool.false_and, h.words, List.headD_cons, plain, Bool.and_false, State.offerCtl_rests (due s rests), run,
    still, Bool.false_eq_true, if_false]
  refine ⟨fun trapped => by rw [if_pos trapped], fun sound r => ?_⟩
  rw [if_neg (by simp [sound]), State.offerCtl_rests (due t r)]

end

/-! ## The move of a step -/

section
variable {s : State} {rest : List Move}

/-- With no event and no NANTRAP to take, what a core does in its cycle is its words (R363, R372). -/
theorem State.offerBoth_words {c : Nat} (pending : (s.core c).pending = none) (nan : (s.core c).vec.nan = none) :
    s.offerBoth c = s.offerWords c := by
  unfold State.offerBoth
  rw [pending, nan]
  cases (s.core c).vec.nanNow <;> rfl
/-- A step whose agenda names a core that is to offer its words makes its cycle's words, after which the core's counts advance. -/
theorem step_offers {c : Nat} (agenda : s.agenda = .core c :: rest) (phase : (s.core c).phase = .offer)
    (pending : (s.core c).pending = none) (nan : (s.core c).vec.nan = none) {t : State}
    (words : State.offerWords { s with agenda := rest, cur := c } c = .next t) :
    step s = .next (t.modCore c fun y => { y with phase := .tick }) := by
  have both : State.offerBoth { s with agenda := rest, cur := c } c = .next t :=
    (State.offerBoth_words (s := { s with agenda := rest, cur := c }) pending nan).trans words
  have move : step s = State.offerPhase { s with agenda := rest, cur := c } c := by
    unfold step
    rw [agenda]
    show State.corePhase _ c = _
    unfold State.corePhase
    dsimp only
    rw [show (State.core { s with agenda := rest, cur := c } c).phase = .offer from phase]
  rw [move]
  unfold State.offerPhase
  rw [both]
/-- A step whose agenda names an event makes it where it may come. -/
theorem step_event {i : Instr} (agenda : s.agenda = .event i :: rest) (event : isEvent i = true) :
    step s = if inCycle i || s.betweenCycles then exec i { s with agenda := rest } else .next { s with agenda := rest } := by
  unfold step State.move
  simp only [agenda, event, Bool.true_and]
  rfl
theorem State.betweenCycles_iff : s.betweenCycles = true ↔ ∀ d y, (d, y) ∈ s.cores → y.phase = .land := by
  unfold State.betweenCycles
  simp

end

/-- Settles O54: the step is the cycle's words or the event, and the word is the unit that it decodes to. -/
theorem stepRunsDecodedWord : Obligations.StepRunsDecodedWord := by
  unfold Obligations.StepRunsDecodedWord
  intro s c rest w s0 s1 x ends
  refine fun agenda phase mode pending => ⟨?control, ?vector, ?event⟩
  case control =>
    intro running blk words idle nan wait offer goes vnan vtrap
    have at0 : (s0.core c).ctlAt w := ⟨running, blk, words, idle, nan, wait⟩
    have rests : (s0.core c).vecRests := ⟨goes, vnan, vtrap⟩
    have sound : s0.trapped c = false := by simpa [State.trapped] using ⟨offer, mode⟩
    have due : s1.core c = (s0.core c).withCtl fun t => { t with stores := t.stores.filter fun st => st.left != 0 } :=
      State.storesDue_core s0 c
    have at1 : (s1.core c).ctlAt w := by rw [due]; exact ⟨running, blk, words, idle, nan, wait⟩
    have pc : (s1.core c).ctl.pc = x.ctl.pc := by rw [due]; rfl
    have run {t : State} (h : s1.offerCtl c = .next t) : step s = ends t :=
      step_offers agenda phase pending vnan (State.offerWords_ctl at0 rests sound h)
    refine ⟨fun u t head unit next => run ?_, fun n fin s2 l u t head tail unit next => run ?_, fun head => run ?_⟩
    · rw [State.offerCtl_runs at1 (State.unitAt_done head unit _), next]
    · rw [State.offerCtl_runs at1 (State.unitAt_more head (by rwa [pc]) unit), next]
    · rw [State.offerCtl_refuses at1 (State.unitAt_refused head _)]
      rfl
  case vector =>
    intro running nan offer goes words idle vnan vtrap wait u t unit plain next
    have at0 : (s0.core c).vecAt w := ⟨goes, words, idle, vnan, vtrap, wait⟩
    have sound : s0.trapped c = false := by simpa [State.trapped] using ⟨offer, mode⟩
    have sync : syncOf w = false := (decodeUnit_sync unit).trans plain
    have run : s0.offerVec c = .next t := by rw [State.offerVec_runs at0 (State.unitAt_vector unit _), next]
    obtain ⟨ended, after⟩ := State.offerWords_vec at0 ⟨running, nan⟩ sound sync run
    refine ⟨fun trapped => step_offers agenda phase pending vnan (ended ?_), fun untrapped on r n =>
      step_offers agenda phase pending vnan (after ?_ ⟨r, n⟩)⟩
    · simpa [State.trapped] using trapped
    · simpa [State.trapped] using ⟨untrapped, on⟩
  case event =>
    intro s i agenda event
    rw [step_event agenda event]
    refine ⟨fun free => if_pos ?_, fun outside inside => if_neg ?_⟩
    · simpa [State.betweenCycles_iff] using free
    · obtain ⟨d, y, there, phase⟩ := inside
      simp only [outside, Bool.false_or, State.betweenCycles_iff]
      exact fun all => phase (all d y there)

end Sys2Proof.Machine
end

section
/-! SUPPORT. Operands of the control stream: how conditions of issue combine (R45, R48), what each source waits for and reads (R28, R86,
R201), what the pops of a word leave behind (R28, R117), and where its result goes (R41, R60). -/
namespace Sys2Proof.Machine
open Sys2Proof.Safety

/-! ## Conditions of issue -/

@[simp] theorem awaits_true (w : Wait) : awaits true w = .ok () := rfl
@[simp] theorem awaits_false (w : Wait) : awaits false w = .error (.hold w) := rfl
@[simp] theorem require_true (c : Cause) (i : Word) : require true c i = .ok () := rfl
@[simp] theorem require_false (c : Cause) (i : Word) : require false c i = .error (.trap { cause := c, info := i }) := rfl
@[simp] theorem alsoBlocked_ok {α : Type} (a : α) (b : Except Stop Unit) : alsoBlocked (.ok a) b = .ok a := rfl
@[simp] theorem alsoBlocked_trap {α : Type} (t : Trap) (b : Except Stop Unit) :
    alsoBlocked (.error (.trap t) : Except Stop α) b = .error (.trap t) := rfl
@[simp] theorem alsoBlocked_hold {α : Type} (v w : Wait) :
    alsoBlocked (.error (.hold v) : Except Stop α) (.error (.hold w)) = .error (.hold (v.join w)) := rfl
@[simp] theorem alsoBlocked_hold_ok {α : Type} (v : Wait) :
    alsoBlocked (.error (.hold v) : Except Stop α) (.ok ()) = .error (.hold v) := rfl
/-- A condition that holds leaves the other one. -/
@[simp] theorem together_ok (b : Except Stop Unit) : together (.ok ()) b = b := rfl
/-- Two conditions that do not hold: the word is blocked on both (R48). -/
@[simp] theorem together_hold (v w : Wait) : together (.error (.hold v)) (.error (.hold w)) = .error (.hold (v.join w)) := rfl
/-- A condition that does not hold before one that does. -/
@[simp] theorem together_hold_ok (v : Wait) : together (.error (.hold v)) (.ok ()) = .error (.hold v) := rfl
/-- What a condition and a step after it answer, they answer one after the other. -/
theorem bind_eq_ok_iff {ε α β : Type} {e : Except ε α} {f : α → Except ε β} {b : β} :
    (e >>= f) = .ok b ↔ ∃ a, e = .ok a ∧ f a = .ok b := by
  cases e with
  | error x => simp [bind, Except.bind]
  | ok a => simp [bind, Except.bind]

/-! ## Sources -/

@[simp] theorem Ctl.reg_zero (x : Ctl) : x.reg 0 = 0 := rfl
@[simp] theorem Ctl.setReg_zero (x : Ctl) (v : Word) : x.setReg 0 v = x := rfl
@[simp] theorem Ctl.ready_zero (x : Ctl) : x.ready 0 = true := rfl

section
variable {x : Ctl} {r : Fin 32} {q : Fin 2} {e e1 : LqEntry} {rest : List LqEntry}

@[simp] theorem Ctl.awaitSrc_reg (before : List Src) : x.awaitSrc before (.reg r) = awaits (x.ready r) .other := rfl
/-- s0 is never poisoned (R41). -/
@[simp] theorem Ctl.readSrc_zero (before : List Src) : x.readSrc before (.reg 0) = .ok 0 := by
  simp only [Ctl.readSrc]; split <;> rfl
theorem Ctl.readSrc_poisoned (before : List Src) (h : r ≠ 0) {va : Word} (p : x.poison[r] = some va) :
    x.readSrc before (.reg r) = .error (.trap { cause := .ue, info := va }) := by
  simp only [Ctl.readSrc, p, if_neg h]; rfl

/-- A pop or a peek of an empty queue waits for its queue (R45). -/
theorem Ctl.awaitSrc_pop_empty (h : x.lq[q] = []) (before : List Src) :
    x.awaitSrc before (.pop q) = .error (.hold (.queue (12 + q.val))) := by
  simp [Ctl.awaitSrc, srcQueue, Ctl.entry, h, waitOf]
theorem Ctl.awaitSrc_peek_empty (h : x.lq[q] = []) (before : List Src) :
    x.awaitSrc before (.peek q) = .error (.hold (.queue (12 + q.val))) := by
  simp [Ctl.awaitSrc, srcQueue, Ctl.entry, h, waitOf]
/-- A peek waits until the datum of the head is there, and so does a first pop (R28, R45). -/
theorem Ctl.awaitSrc_peek (h : x.lq[q] = e :: rest) (before : List Src) :
    x.awaitSrc before (.peek q) = awaits e.datum.present (.queue (12 + q.val)) := by
  simp [Ctl.awaitSrc, srcQueue, Ctl.entry, h]
theorem Ctl.awaitSrc_pop (h : x.lq[q] = e :: rest) :
    x.awaitSrc [] (.pop q) = awaits e.datum.present (.queue (12 + q.val)) := by
  simp [Ctl.awaitSrc, srcQueue, Ctl.entry, h]
/-- A second pop waits for the second entry (R28). -/
theorem Ctl.awaitSrc_pop_second (h : x.lq[q] = e :: e1 :: rest) :
    x.awaitSrc [.pop q] (.pop q) = awaits e1.datum.present (.queue (12 + q.val)) := by
  simp [Ctl.awaitSrc, srcQueue, Ctl.entry, srcPops, h]

/-- What an entry that is there gives the word that reads it (R86, R201). -/
def Datum.read : Datum → Except Stop Word
  | .value v => .ok v
  | .fault t => .error (.trap t)
  | .poison va => .error (.trap { cause := .ue, info := va })
  | _ => .ok 0
theorem Ctl.readSrc_peek (h : x.lq[q] = e :: rest) (before : List Src) : x.readSrc before (.peek q) = e.datum.read := by
  simp only [Ctl.readSrc, Ctl.entry, h, List.getElem?_cons_zero]
  cases e.datum <;> rfl
theorem Ctl.readSrc_pop (h : x.lq[q] = e :: rest) : x.readSrc [] (.pop q) = e.datum.read := by
  simp only [Ctl.readSrc, Ctl.entry, h, List.filter_nil, List.length_nil, List.getElem?_cons_zero]
  cases e.datum <;> rfl
theorem Ctl.readSrc_pop_second (h : x.lq[q] = e :: e1 :: rest) : x.readSrc [.pop q] (.pop q) = e1.datum.read := by
  have entry : x.entry [.pop q] (.pop q) = some e1 := by simp [Ctl.entry, srcPops, h]
  simp only [Ctl.readSrc, entry]
  cases e1.datum <;> rfl

end

/-! ## Words of one and of two sources -/

section
variable {x y : Core} {a b : Src} {v w : Word}

/-- Two sources that wait no longer, read in field order (R28, R45). -/
theorem Core.src2_ok (awaitA : x.ctl.awaitSrc [] a = .ok ()) (awaitB : x.ctl.awaitSrc [a] b = .ok ())
    (readA : x.ctl.readSrc [] a = .ok v) (readB : x.ctl.readSrc [a] b = .ok w) :
    x.src2 a b = .ok (v, w, x.commitPops [a, b]) := by
  simp [Core.src2, Core.srcs, Ctl.awaitAll, Ctl.readAll, awaitA, awaitB, readA, readB, bind, Except.bind]
theorem Core.src1_ok (awaitA : x.ctl.awaitSrc [] a = .ok ()) (readA : x.ctl.readSrc [] a = .ok v) :
    x.src1 a = .ok (v, x.commitPops [a]) := by
  simp [Core.src1, Core.srcs, Ctl.awaitAll, Ctl.readAll, awaitA, readA, bind, Except.bind]
/-- What two sources answer is the values read and the core with their pops made. -/
theorem Core.src2_core (h : x.src2 a b = .ok (v, w, y)) : y = x.commitPops [a, b] := by
  simp only [Core.src2, Core.srcs, bind_eq_ok_iff] at h
  obtain ⟨_, ⟨_, _, vs, _, srcs⟩, eq⟩ := h
  cases srcs; cases eq; rfl

end

/-! ## What the pops of a word leave behind -/

/-- A substitution counted for an entry that holds one (R86, R203). -/
def Core.countZeroed (y : Core) (e : LqEntry) : Core := match e.datum with | .zeroed => y.countUez | _ => y
/-- The load queues without the entries that a list of sources pops. -/
def Ctl.dropPops (t : Ctl) (l : List Src) : Ctl := { t with lq := Vector.ofFn fun q => t.lq[q].drop (l.filter (srcPops q)).length }
/-- The pops of a word: the entries go, their substitutions are counted, their flags merge (R28, R86, R117). -/
theorem Core.commitPops_eq (x : Core) (l : List Src) :
    x.commitPops l = ((x.ctl.popped [] l).foldl Core.countZeroed (x.withCtl (·.dropPops l))).mergeCtl
      ((x.ctl.popped [] l).foldl (fun f e => f ||| e.flags) 0) ((x.ctl.popped [] l).any (·.nan)) x.ctl.pc := rfl

section
variable (x : Core) (l : List Src) (es : List LqEntry) (f : BitVec 5) (n : Bool) (pc : Word)

@[simp] theorem Core.countZeroed_ctl (e : LqEntry) : (x.countZeroed e).ctl = x.ctl := by unfold Core.countZeroed; split <;> rfl
@[simp] theorem Core.countZeroed_foldl_ctl : (es.foldl Core.countZeroed x).ctl = x.ctl := by
  induction es generalizing x with
  | nil => rfl
  | cons e r ih => rw [List.foldl_cons, ih, Core.countZeroed_ctl]
@[simp] theorem Core.mergeCtl_csr : (x.mergeCtl f n pc).csr = { x.csr with fsr := x.csr.fsr ||| f.setWidth 64 } := by
  simp only [Core.mergeCtl]; split <;> rfl
@[simp] theorem Core.mergeCtl_lq : (x.mergeCtl f n pc).ctl.lq = x.ctl.lq := by
  simp only [Core.mergeCtl]; split <;> rfl
/-- A queue loses as many entries as the word pops from it (R28). -/
theorem Core.commitPops_lq (q : Fin 2) : (x.commitPops l).ctl.lq[q] = x.ctl.lq[q].drop (l.filter (srcPops q)).length := by
  rw [Core.commitPops_eq, Core.mergeCtl_lq, Core.countZeroed_foldl_ctl]
  simp [Ctl.dropPops]

end

/-- A word that pops nothing leaves the core as it was. -/
theorem Core.commitPops_none (x : Core) (l : List Src) (h : ∀ q, .pop q ∉ l) : x.commitPops l = x := by
  have popped (before : List Src) : x.ctl.popped before l = [] := by
    induction l generalizing before with
    | nil => rfl
    | cons a r ih =>
      have rest := ih fun q hq => h q (List.mem_cons_of_mem _ hq)
      cases a with
      | pop q => exact absurd List.mem_cons_self (h q)
      | reg r => exact rest _
      | peek q => exact rest _
  have pops (q : Fin 2) : l.filter (srcPops q) = [] := List.filter_eq_nil_iff.mpr fun a ha => by
    cases a with
    | pop p => exact absurd ha (h p)
    | reg r => exact Bool.false_ne_true
    | peek p => exact Bool.false_ne_true
  have lq : x.ctl.dropPops l = x.ctl := by simp [Ctl.dropPops, pops]
  rw [Core.commitPops_eq, popped, Core.withCtl, lq]
  exact Core.mergeCtl_none x _

/-! ## Results -/

section
variable {x : Core} {v : Word} {lat : Nat}

@[simp] theorem Core.awaitDst_reg (x : Core) (r : Fin 32) : x.awaitDst (.reg r) = .ok () := rfl
/-- An address queue with room is no wait; a full one is (R60). -/
theorem Core.awaitDst_aq_room {q : Fin 4} (h : x.vec.aq[q].length < 16) : x.awaitDst (.aq q) = .ok () := by
  simp only [Core.awaitDst, h, decide_true, awaits_true]
theorem Core.awaitDst_aq_full {q : Fin 4} (h : 16 ≤ x.vec.aq[q].length) :
    x.awaitDst (.aq q) = .error (.hold (.queue (8 + q.val))) := by
  simp only [Core.awaitDst, Nat.not_lt.mpr h, decide_false, awaits_false]
/-- A register that is not s0 takes the result (R41). -/
theorem Core.putDst_reg_same {r : Fin 32} (h : r ≠ 0) : (x.putDst (.reg r) v lat).ctl.s[r] = v := by
  simp [Core.putDst, Core.putReg, Ctl.setReg, h]
@[simp] theorem Core.putDst_reg_lq (r : Fin 32) : (x.putDst (.reg r) v lat).ctl.lq = x.ctl.lq := by
  simp only [Core.putDst, Core.putReg, Ctl.setReg]; split <;> rfl
@[simp] theorem Core.putDst_csr (d : Dst) : (x.putDst d v lat).csr = x.csr := by cases d <;> rfl
/-- A queue that is a destination has the result as its next entry (R60). -/
theorem Core.putDst_aq_same (q : Fin 4) :
    (x.putDst (.aq q) v lat).vec.aq[q] = x.vec.aq[q] ++ [{ value := v, left := lat + 3 }] := by
  simp [Core.putDst]
@[simp] theorem Core.putDst_aq_ctl (q : Fin 4) : (x.putDst (.aq q) v lat).ctl = x.ctl := rfl

end

/-! ## The core after its word -/

@[simp] theorem State.me_modCore (s : State) (f : Core → Core) : (s.modCore s.cur f).me = f s.me := s.me_onMe f
@[simp] theorem withMe_me (s : State) (x : Core) : (withMe s x).me = x := s.me_setCore x
@[simp] theorem withMe_cur (s : State) (x : Core) : (withMe s x).cur = s.cur := rfl
theorem ctlTo_eq (pc : Word) (t : State) : ctlTo pc t = t.modCore t.cur fun x => x.issuedCtl pc := rfl
@[simp] theorem ctlTo_me (pc : Word) (t : State) : (ctlTo pc t).me = t.me.issuedCtl pc := t.me_modCore _
@[simp] theorem ctlNext_me (t : State) : (ctlNext t).me = t.me.issuedCtl (t.me.ctl.pc + 8) := ctlTo_me _ t
@[simp] theorem Core.issuedCtl_s (x : Core) (pc : Word) : (x.issuedCtl pc).ctl.s = x.ctl.s := rfl
@[simp] theorem Core.issuedCtl_lq (x : Core) (pc : Word) : (x.issuedCtl pc).ctl.lq = x.ctl.lq := rfl
@[simp] theorem Core.issuedCtl_pc (x : Core) (pc : Word) : (x.issuedCtl pc).ctl.pc = pc := rfl
@[simp] theorem Core.issuedCtl_h (x : Core) (pc : Word) : (x.issuedCtl pc).ctl.h = x.ctl.h := rfl

/-! ## The ends of a word of one result -/

section
variable {s : State} {d : Dst} {a b : Src} {v w : Word} {y : Core} {e : Stop} (lat : Nat) (f : Word → Word → Word) (g : Word → Word)

/-- A word whose operands are there issues, with its result on its way (R45, R46). -/
theorem ctl_alu2 (dst : s.me.awaitDst d = .ok ()) (read : s.me.src2 a b = .ok (v, w, y)) :
    ctl s (s.alu2 d a b lat f) = .next (ctlNext (withMe s (y.putDst d (f v w) lat))) := by
  have sources : s.me.ctl.awaitAll [] [a, b] = .ok () := by
    simp only [Core.src2, Core.srcs, bind_eq_ok_iff] at read
    obtain ⟨_, ⟨_, awaited, _⟩, _⟩ := read
    exact awaited
  have issue : s.alu2 d a b lat f = .ok (.go (withMe s (y.putDst d (f v w) lat))) := by
    simp only [State.alu2, Core.awaitOperands, dst, together_ok, sources, read, bind, Except.bind]
    rfl
  rw [issue]
  exact ctl_go s _ rfl
theorem ctl_alu1 (dst : s.me.awaitDst d = .ok ()) (read : s.me.src1 a = .ok (v, y)) :
    ctl s (s.alu1 d a lat g) = .next (ctlNext (withMe s (y.putDst d (g v) lat))) := by
  have sources : s.me.ctl.awaitAll [] [a] = .ok () := by
    simp only [Core.src1, Core.srcs, bind_eq_ok_iff] at read
    obtain ⟨_, ⟨_, awaited, _⟩, _⟩ := read
    exact awaited
  have issue : s.alu1 d a lat g = .ok (.go (withMe s (y.putDst d (g v) lat))) := by
    simp only [State.alu1, Core.awaitOperands, dst, together_ok, sources, read, bind, Except.bind]
    rfl
  rw [issue]
  exact ctl_go s _ rfl
/-- A word whose operands are not there all waits for them (R45). -/
theorem State.alu2_waits (h : s.me.awaitOperands d [a, b] = .error e) : s.alu2 d a b lat f = .error e := by
  simp only [State.alu2, h, bind, Except.bind]
/-- A word whose operands are there traps what reading them finds (R86, R201). -/
theorem State.alu2_stops (h : s.me.awaitOperands d [a, b] = .ok ()) (sources : s.me.ctl.awaitAll [] [a, b] = .ok ())
    (read : s.me.ctl.readAll [] [a, b] = .error e) : s.alu2 d a b lat f = .error e := by
  simp only [State.alu2, h, Core.src2, Core.srcs, sources, read, bind, Except.bind]

end

end Sys2Proof.Machine
end

section
/-! SUPPORT. Branches, jumps, calls and `jr`: where each goes and what it leaves (R25, R43, R72, R73). -/
namespace Sys2Proof.Machine
open Sys2Proof.Safety

/-- The target of a displacement, as R72 states it. -/
theorem Ctl.target_eq (x : Ctl) (disp : BitVec 29) : x.target disp = x.pc + BitVec.ofInt 64 (8 * disp.toInt) := by
  rw [Ctl.target, BitVec.signExtend, BitVec.ofInt_mul]
  rfl

section
variable {s : State} {o : Bcc} {a b : Word} {y : Core} (read : s.me.src2 o.a o.b = .ok (a, b, y))
  (aligned : (s.me.ctl.pc + BitVec.ofInt 64 (8 * o.disp.toInt)).toNat % 8 = 0)
include read aligned

/-- A comparing branch goes to its target under its condition, and else on, its pops made either way (R72). -/
theorem State.branch_goes (f : Word → Word → Bool) (taken : Prop) [Decidable taken] (cond : f a b = true ↔ taken) :
    s.branch o f = .next (if taken then ctlTo (s.me.ctl.pc + BitVec.ofInt 64 (8 * o.disp.toInt)) (withMe s y)
      else ctlNext (withMe s y)) := by
  rw [← Ctl.target_eq] at aligned ⊢
  simp only [State.branch, read, bind, Except.bind, cond]
  split
  · exact ctl_jump s _ _ rfl aligned
  · exact ctl_go s _ rfl
end

/-- A branch on F goes to its target where its condition holds of F, and else on (R72). -/
theorem State.branchF_goes {s : State} {disp : BitVec 29}
    (aligned : (s.me.ctl.pc + BitVec.ofInt 64 (8 * disp.toInt)).toNat % 8 = 0) (f : FReg → Bool) :
    s.branchF disp f = .next (if f s.me.ctl.f then ctlTo (s.me.ctl.pc + BitVec.ofInt 64 (8 * disp.toInt)) s else ctlNext s) := by
  rw [← Ctl.target_eq] at aligned ⊢
  simp only [State.branchF]
  split
  · exact ctl_jump s _ _ rfl aligned
  · exact ctl_go s _ rfl

/-- `call` links and transfers to its target (R73). -/
theorem exec_call {s : State} {disp : BitVec 29} (aligned : (s.me.ctl.pc + BitVec.ofInt 64 (8 * disp.toInt)).toNat % 8 = 0) :
    exec (.call disp) s = .next (ctlTo (s.me.ctl.pc + BitVec.ofInt 64 (8 * disp.toInt))
      (withMe s (s.me.putReg 30 (s.me.ctl.pc + 8) 1))) := by
  rw [← Ctl.target_eq] at aligned ⊢
  exact ctl_jump s _ _ rfl aligned

/-- `jr` as the end of its word: a transfer to the value of its source, with its link (R73). -/
theorem exec_jr {s : State} {r : Src} {a : Word} {y : Core} (read : s.me.src1 r = .ok (a, y)) (d : Fin 32) :
    exec (.jr d r) s = ctl s (.ok (.jump (withMe s (y.putReg d (s.me.ctl.pc + 8) 1)) a)) := by
  have pc : y.ctl.pc = s.me.ctl.pc := by rw [Core.src1_core _ _ _ _ read, Core.commitPops_pc]
  show execJr d r s = _
  simp only [execJr, read, bind, Except.bind, pc]
  rfl

/-- Settles O4: each branch is `branch_goes` or `branchF_goes` at its condition, `call` and `jr` end in a transfer. -/
theorem controlTransfers : Obligations.ControlTransfers := by
  unfold Obligations.ControlTransfers
  refine ⟨fun s o a b y read aligned => ?branches, fun s => ⟨fun disp aligned => exec_call aligned, ?jr⟩⟩
  case branches =>
    refine ⟨State.branch_goes read aligned (fun a b => a == b) _ ?eq, State.branch_goes read aligned (fun a b => a != b) _ ?ne,
      State.branch_goes read aligned (fun a b => a.slt b) _ ?lt, State.branch_goes read aligned (fun a b => !a.slt b) _ ?ge,
      State.branch_goes read aligned (fun a b => a.ult b) _ ?ltu, State.branch_goes read aligned (fun a b => !a.ult b) _ ?geu,
      State.branchF_goes aligned fun _ => true, State.branchF_goes aligned fun f => f.any,
      State.branchF_goes aligned fun f => f.all, State.branchF_goes aligned fun f => f.none⟩
    case eq => exact beq_iff_eq
    case ne => exact bne_iff_ne
    case lt => exact BitVec.slt_iff_toInt_lt
    case ge => simp [BitVec.slt]
    case ltu => exact BitVec.ult_iff_toNat_lt
    case geu => simp [BitVec.ult]
  case jr =>
    intro d r a y read
    rw [exec_jr read]
    exact ⟨fun aligned => ctl_jump s _ a rfl aligned, fun misaligned => ctl_jump_misaligned s _ a misaligned⟩

end Sys2Proof.Machine
end

section
/-! SUPPORT. What a word does with each kind of operand, one lemma for each outcome, and the statement assembled from them (R28, R41,
R45, R48, R60, R86, R201). -/
namespace Sys2Proof.Machine
open Sys2Proof.Safety

/-- A condition of a queue that does not hold, before any other: the word is blocked on that queue, and on the queue operations of the
other one, of which there are none where that one holds (R48). -/
theorem together_queue (c : Nat) (b : Except Stop Unit) :
    ∃ more, together (.error (.hold (.queue c))) b = .error (.hold (.queue c more)) ∧ (b = .ok () → more = []) := by
  cases b with
  | ok u => exact ⟨[], rfl, fun _ => rfl⟩
  | error stop => cases stop with
    | trap t => exact ⟨[], rfl, nofun⟩
    | hold w => cases w with
      | queue code l => exact ⟨_, rfl, nofun⟩
      | other => exact ⟨[], rfl, nofun⟩
      | rendezvous => exact ⟨[], rfl, nofun⟩

section
variable {s : State} {d : Fin 32} {q : Fin 2}

/-- The operands of a word that pops one queue twice. -/
abbrev twoPops (d : Fin 32) (q : Fin 2) : Rrr := { d := .reg d, a := .pop q, b := .pop q }
/-- The operands of a word that peeks a queue and reads s0. -/
abbrev onePeek (d : Fin 32) (q : Fin 2) : Rrr := { d := .reg d, a := .peek q, b := .reg 0 }

/-- The core after two pops of entries with data: both entries are gone, their flags merged (R28, R86, R117). -/
theorem Core.commitPops_two {x : Core} {e0 e1 : LqEntry} {rest : List LqEntry} {v0 v1 : Word} (h : x.ctl.lq[q] = e0 :: e1 :: rest)
    (h0 : e0.datum = .value v0) (h1 : e1.datum = .value v1) :
    (x.commitPops [.pop q, .pop q]).ctl.lq[q] = rest ∧
      (x.commitPops [.pop q, .pop q]).csr.fsr = x.csr.fsr ||| (e0.flags ||| e1.flags).setWidth 64 := by
  have popped : x.ctl.popped [] [.pop q, .pop q] = [e0, e1] := by simp [Ctl.popped, Ctl.entry, srcPops, h]
  refine ⟨?_, ?_⟩
  · rw [Core.commitPops_lq]; simp [srcPops, h]
  · simp [Core.commitPops_eq, popped, Core.countZeroed, h0, h1]

/-- Two pops of one queue take its first two entries, in order (R28). -/
theorem exec_sub_pops {e0 e1 : LqEntry} {rest : List LqEntry} {v0 v1 : Word} (h : s.me.ctl.lq[q] = e0 :: e1 :: rest)
    (h0 : e0.datum = .value v0) (h1 : e1.datum = .value v1) :
    ∃ t, exec (.sub (twoPops d q)) s = .next t ∧ t.me.ctl.lq[q] = rest ∧ (d ≠ 0 → t.me.ctl.s[d] = v0 - v1) ∧
      t.me.csr.fsr &&& 0x1F = (s.me.csr.fsr ||| e0.flags.setWidth 64 ||| e1.flags.setWidth 64) &&& 0x1F := by
  have read : s.me.src2 (.pop q) (.pop q) = .ok (v0, v1, s.me.commitPops [.pop q, .pop q]) := by
    apply Core.src2_ok
    · simp [Ctl.awaitSrc_pop h, h0, Datum.present]
    · simp [Ctl.awaitSrc_pop_second h, h1, Datum.present]
    · simp [Ctl.readSrc_pop h, h0, Datum.read]
    · simp [Ctl.readSrc_pop_second h, h1, Datum.read]
  obtain ⟨lq, fsr⟩ := Core.commitPops_two h h0 h1
  refine ⟨_, ctl_alu2 (d := .reg d) 1 (· - ·) rfl read, ?_, fun hd => ?_, ?_⟩
  · simpa using lq
  · simpa using Core.putDst_reg_same hd
  · simp [fsr, BitVec.or_assoc]

/-- A peek of an entry that is there, added to s0: the entry stays, and its flags do not merge (R28, R86). -/
theorem exec_add_peek {e : LqEntry} {rest : List LqEntry} {v : Word} (h : s.me.ctl.lq[q] = e :: rest)
    (there : e.datum.present = true) (read : e.datum.read = .ok v) :
    exec (.add (onePeek d q)) s = .next (ctlNext (withMe s (s.me.putDst (.reg d) (v + 0) 1))) := by
  have both : s.me.src2 (.peek q) (.reg 0) = .ok (v, 0, s.me) := by
    have kept := s.me.commitPops_none [.peek q, .reg 0] (by simp)
    refine (Core.src2_ok (v := v) (w := 0) ?_ ?_ ?_ ?_).trans (by rw [kept])
    · simp [Ctl.awaitSrc_peek h, there]
    · simp
    · rw [Ctl.readSrc_peek h, read]
    · simp
  exact ctl_alu2 1 (· + ·) rfl both
/-- A peek of an entry that is not there waits for its queue (R45). -/
theorem exec_add_peek_absent {e : LqEntry} {rest : List LqEntry} (h : s.me.ctl.lq[q] = e :: rest) (absent : e.datum = .absent) :
    exec (.add (onePeek d q)) s = .next (ctlHeld (.queue (12 + q.val)) s) := by
  have waits : s.me.awaitOperands (.reg d) [.peek q, .reg 0] = .error (.hold (.queue (12 + q.val))) := by
    simp [Core.awaitOperands, Ctl.awaitAll, Ctl.awaitSrc_peek h, absent, Datum.present]
  exact (congrArg (ctl s) (State.alu2_waits 1 (· + ·) waits)).trans (ctl_hold s _)
/-- A peek of an entry with a fault or with poison traps it, and leaves the entry (R86, R201). -/
theorem exec_add_peek_bad {e : LqEntry} {rest : List LqEntry} {c : Cause} {i : Word} (h : s.me.ctl.lq[q] = e :: rest)
    (there : e.datum.present = true) (read : e.datum.read = .error (.trap { cause := c, info := i })) :
    exec (.add (onePeek d q)) s = .next (ctlTrap c i s) := by
  have sources : s.me.ctl.awaitAll [] [.peek q, .reg 0] = .ok () := by
    simp [Ctl.awaitAll, Ctl.awaitSrc_peek h, there]
  have stops : s.me.ctl.readAll [] [.peek q, .reg 0] = .error (.trap { cause := c, info := i }) := by
    simp [Ctl.readAll, Ctl.readSrc_peek h, read, bind, Except.bind]
  have waits : s.me.awaitOperands (.reg d) [.peek q, .reg 0] = .ok () := by simp [Core.awaitOperands, sources]
  exact (congrArg (ctl s) (State.alu2_stops 1 (· + ·) waits sources stops)).trans (ctl_trap s c i)

/-- A pop of zeros in place of a UE counts the substitution once, in UEZCOUNT and in FSR (R86, R203). -/
theorem exec_addImmediate_pop_zeroed {e : LqEntry} {rest : List LqEntry} (h : s.me.ctl.lq[q] = e :: rest) (zeroed : e.datum = .zeroed) :
    ∃ t, exec (.addImmediate { d := .reg d, a := .pop q, imm := 0 }) s = .next t ∧ t.me.csr.uezcount = s.me.csr.uezcount + 1 ∧
      t.me.csr.fsr.getLsbD 15 = true ∧ t.me.ctl.lq[q] = rest := by
  have read : s.me.src1 (.pop q) = .ok (0, s.me.commitPops [.pop q]) := by
    apply Core.src1_ok
    · simp [Ctl.awaitSrc_pop h, zeroed, Datum.present]
    · simp [Ctl.readSrc_pop h, zeroed, Datum.read]
  have popped : s.me.ctl.popped [] [.pop q] = [e] := by simp [Ctl.popped, Ctl.entry, h]
  have csr : (s.me.commitPops [.pop q]).csr.uezcount = s.me.csr.uezcount + 1 ∧
      (s.me.commitPops [.pop q]).csr.fsr.getLsbD 15 = true := by
    simp [Core.commitPops_eq, popped, Core.countZeroed, zeroed, Core.countUez, Core.mergeFsr]
  refine ⟨_, ctl_alu1 (d := .reg d) 1 (fun a => a + imm64 0) rfl read, ?_, ?_, ?_⟩
  · simpa using csr.1
  · simpa using csr.2
  · rw [ctlNext_me, Core.issuedCtl_lq, withMe_me, Core.putDst_reg_lq, Core.commitPops_lq]; simp [srcPops, h]

/-- A pop or a peek of an empty queue waits for the queue (R45). -/
theorem exec_add_pops_empty (h : s.me.ctl.lq[q] = []) :
    exec (.add (twoPops d q)) s = .next (ctlHeld (.queue (12 + q.val)) s) := by
  have waits : s.me.awaitOperands (.reg d) [.pop q, .pop q] = .error (.hold (.queue (12 + q.val))) := by
    simp [Core.awaitOperands, Ctl.awaitAll, Ctl.awaitSrc_pop_empty h, Wait.join]
  exact (congrArg (ctl s) (State.alu2_waits 1 (· + ·) waits)).trans (ctl_hold s _)
theorem exec_add_peek_empty (h : s.me.ctl.lq[q] = []) :
    exec (.add (onePeek d q)) s = .next (ctlHeld (.queue (12 + q.val)) s) := by
  have waits : s.me.awaitOperands (.reg d) [.peek q, .reg 0] = .error (.hold (.queue (12 + q.val))) := by
    simp [Core.awaitOperands, Ctl.awaitAll, Ctl.awaitSrc_peek_empty h]
  exact (congrArg (ctl s) (State.alu2_waits 1 (· + ·) waits)).trans (ctl_hold s _)
/-- A word that pops both queues, both empty, is blocked on both (R48). -/
theorem exec_add_both_empty (h0 : s.me.ctl.lq[0] = []) (h1 : s.me.ctl.lq[1] = []) :
    exec (.add { d := .reg d, a := .pop 0, b := .pop 1 }) s = .next (ctlHeld (.queue 12 [13]) s) := by
  have waits : s.me.awaitOperands (.reg d) [.pop 0, .pop 1] = .error (.hold (.queue 12 [13])) := by
    simp [Core.awaitOperands, Ctl.awaitAll, Ctl.awaitSrc_pop_empty (q := 0) h0, Ctl.awaitSrc_pop_empty (q := 1) h1, Wait.join]
  exact (congrArg (ctl s) (State.alu2_waits 1 (· + ·) waits)).trans (ctl_hold s _)

/-- A register whose result is not there holds the word; a queue that is empty besides blocks it too (R45, R48). -/
theorem exec_add_unready {r : Fin 32} (h : s.me.ctl.ready r = false) :
    exec (.add { d := .reg d, a := .reg r, b := .reg 0 }) s = .next (ctlHeld .other s) := by
  have waits : s.me.awaitOperands (.reg d) [.reg r, .reg 0] = .error (.hold .other) := by
    simp [Core.awaitOperands, Ctl.awaitAll, h]
  exact (congrArg (ctl s) (State.alu2_waits 1 (· + ·) waits)).trans (ctl_hold s _)
theorem exec_add_unready_pop_empty {r : Fin 32} (h : s.me.ctl.ready r = false) (empty : s.me.ctl.lq[q] = []) :
    exec (.add { d := .reg d, a := .reg r, b := .pop q }) s = .next (ctlHeld (.queue (12 + q.val)) s) := by
  have waits : s.me.awaitOperands (.reg d) [.reg r, .pop q] = .error (.hold (.queue (12 + q.val))) := by
    simp [Core.awaitOperands, Ctl.awaitAll, h, Ctl.awaitSrc_pop_empty empty, Wait.join]
  exact (congrArg (ctl s) (State.alu2_waits 1 (· + ·) waits)).trans (ctl_hold s _)
/-- A poisoned register is UE at the word that reads it (R201). -/
theorem exec_add_poisoned {r : Fin 32} (hr : r ≠ 0) (ready : s.me.ctl.ready r = true) {va : Word}
    (poisoned : s.me.ctl.poison[r] = some va) :
    exec (.add { d := .reg d, a := .reg r, b := .reg 0 }) s = .next (ctlTrap .ue va s) := by
  have sources : s.me.ctl.awaitAll [] [.reg r, .reg 0] = .ok () := by simp [Ctl.awaitAll, ready]
  have stops : s.me.ctl.readAll [] [.reg r, .reg 0] = .error (.trap { cause := .ue, info := va }) := by
    simp [Ctl.readAll, Ctl.readSrc_poisoned [] hr poisoned, bind, Except.bind]
  have waits : s.me.awaitOperands (.reg d) [.reg r, .reg 0] = .ok () := by simp [Core.awaitOperands, sources]
  exact (congrArg (ctl s) (State.alu2_stops 1 (· + ·) waits sources stops)).trans (ctl_trap s .ue va)

variable {n : Fin 4}

/-- A result into an address queue with room takes the next entry (R60). -/
theorem exec_add_aq (room : s.me.vec.aq[n].length < 16) :
    exec (.add { d := .aq n, a := .reg 0, b := .reg 0 }) s = .next (ctlNext (withMe s (s.me.putDst (.aq n) (0 + 0) 1))) := by
  have read : s.me.src2 (.reg 0) (.reg 0) = .ok (0, 0, s.me) := by
    have kept := s.me.commitPops_none [.reg 0, .reg 0] (by simp)
    refine (Core.src2_ok (v := 0) (w := 0) ?_ ?_ ?_ ?_).trans (by rw [kept])
    · simp
    · simp
    · simp
    · simp
  exact ctl_alu2 1 (· + ·) (Core.awaitDst_aq_room room) read
/-- A full address queue holds the word, whatever its sources (R48, R60). -/
theorem exec_add_aq_full (full : 16 ≤ s.me.vec.aq[n].length) (a b : Src) :
    ∃ more, exec (.add { d := .aq n, a := a, b := b }) s = .next (ctlHeld (.queue (8 + n.val) more) s) ∧
      (s.me.ctl.awaitAll [] [a, b] = .ok () → more = []) := by
  obtain ⟨more, waits, alone⟩ := together_queue (8 + n.val) (s.me.ctl.awaitAll [] [a, b])
  rw [← Core.awaitDst_aq_full full] at waits
  exact ⟨more, (congrArg (ctl s) (State.alu2_waits 1 (· + ·) waits)).trans (ctl_hold s _), alone⟩

end

/-- Settles O57: each clause is one outcome of the lemmas above. -/
theorem operandOutcomes : Obligations.OperandOutcomes := by
  unfold Obligations.OperandOutcomes
  intro s d q
  refine ⟨fun v => ⟨rfl, rfl⟩, fun e0 e1 rest v0 v1 => exec_sub_pops, fun e rest h => ⟨?value, exec_add_peek_absent h, ?fault, ?poison,
    ?zeroed, exec_addImmediate_pop_zeroed h⟩, fun h => ⟨exec_add_pops_empty h, exec_add_peek_empty h⟩,
    fun n => ⟨?room, exec_add_aq_full⟩, exec_add_both_empty, fun r => exec_add_unready_pop_empty,
    fun r hr ready va => exec_add_poisoned hr ready, fun r => exec_add_unready⟩
  case value =>
    intro v hv
    refine ⟨_, exec_add_peek h (by rw [hv]; rfl) (by rw [hv]; rfl), by simpa using h, fun hd => ?_, by simp⟩
    simpa using Core.putDst_reg_same hd
  case fault => exact fun f hf => exec_add_peek_bad h (by rw [hf]; rfl) (by rw [hf]; rfl)
  case poison => exact fun va hp => exec_add_peek_bad h (by rw [hp]; rfl) (by rw [hp]; rfl)
  case zeroed =>
    intro hz
    refine ⟨_, exec_add_peek h (by rw [hz]; rfl) (by rw [hz]; rfl), by simp, fun hd => ?_⟩
    simpa using Core.putDst_reg_same hd
  case room =>
    intro room
    exact ⟨_, _, exec_add_aq room, by simpa using Core.putDst_aq_same n, rfl, by simp⟩

end Sys2Proof.Machine
end

section
/-! SUPPORT. What the words of the integer family leave unchanged when they issue (R40, R41, R63 to R71, R80): which fields of its core
and of the state a word keeps, that a word which waits or traps has not issued, and the statement assembled from them. -/
namespace Sys2Proof.Machine
open Sys2Proof.Safety

/-! ## A trap is no issue -/

/-- What every step of a fold keeps, the fold keeps. -/
theorem foldl_keeps {α β γ : Type} {f : β → α → β} {g : β → γ} (h : ∀ b a, g (f b a) = g b) (l : List α) (b : β) :
    g (l.foldl f b) = g b := by
  induction l generalizing b with
  | nil => rfl
  | cons a r ih => rw [List.foldl_cons, ih, h]

section
variable (s : State) (c k : Nat) (e : Event)

@[simp] theorem State.modPkg_cur (p : Nat) (g : Pkg → Pkg) : (s.modPkg p g).cur = s.cur := by
  unfold State.modPkg; split <;> rfl
@[simp] theorem State.modHamlet_cur (p h : Nat) (g : Hamlet → Hamlet) : (s.modHamlet p h g).cur = s.cur := s.modPkg_cur p _
@[simp] theorem State.countCorrection_cur : (s.countCorrection k).cur = s.cur := by
  unfold State.countCorrection; split
  · exact s.modHamlet_cur _ _ _
  · rfl
@[simp] theorem State.poisonGranule_cur : (s.poisonGranule k).cur = s.cur := by
  unfold State.poisonGranule; split <;> rfl
@[simp] theorem State.breakGranule_cur : (s.breakGranule k).cur = s.cur := by
  unfold State.breakGranule
  dsimp only
  split
  · rw [State.modHamlet_cur, State.poisonGranule_cur]
  · exact s.poisonGranule_cur k
@[simp] theorem State.fire_cur (target : Nat) (freezes : Bool) : (s.fire c target k freezes).cur = s.cur := by
  unfold State.fire
  dsimp only
  split
  · split
    · exact State.breakGranule_cur _ _
    · split
      · exact State.countCorrection_cur _ _
      · exact State.countCorrection_cur _ _
  · rfl
@[simp] theorem State.landLoad_cur (l : LLoad) : (s.landLoad c l).cur = s.cur := s.fire_cur c _ 0 true
@[simp] theorem State.performLocal_cur : (s.performLocal c).cur = s.cur := by
  unfold State.performLocal
  rw [State.modCore_cur]
  refine foldl_keeps (g := State.cur) (fun t n => ?_) _ _
  split
  · exact t.landLoad_cur c _
  · split
    · exact t.write_cur _ _
    · rfl
@[simp] theorem State.capture_cur (off : Nat) : (s.capture c e off).cur = s.cur := s.performLocal_cur c
/-- A captured core has trapped. -/
@[simp] theorem State.capture_offer (off : Nat) : ((s.capture c e off).core c).ctl.offer = .trapped := by
  simp [State.capture, Core.captured]
@[simp] theorem State.coreError_cur (code : Nat) : (s.coreError c code).cur = s.cur := by
  unfold State.coreError; split
  · exact s.modPkg_cur _ _
  · rfl
@[simp] theorem State.coreError_core (code d : Nat) : (s.coreError c code).core d = s.core d := by
  unfold State.coreError; split
  · simp [State.core]
  · rfl

@[simp] theorem State.enterKernel_cur : (s.enterKernel c e).cur = s.cur := by
  unfold State.enterKernel; dsimp only; split <;> simp
@[simp] theorem State.enterUli_cur : (s.enterUli c e).cur = s.cur := by
  unfold State.enterUli; dsimp only; split <;> simp
@[simp] theorem State.take_cur : (s.take c e).cur = s.cur := by
  unfold State.take; dsimp only; split <;> simp

variable {s c} (h : (s.core c).ctl.offer ≠ .issued)
include h

/-- A core that takes an exception stands trapped, or has stopped where it stood (R368). -/
theorem State.enterKernel_not_issued : ((s.enterKernel c e).core c).ctl.offer ≠ .issued := by
  unfold State.enterKernel
  dsimp only
  split
  · simp
  · simpa using h
theorem State.enterUli_not_issued : ((s.enterUli c e).core c).ctl.offer ≠ .issued := by
  unfold State.enterUli
  dsimp only
  split
  · simp [Ctl.swapShadow]
  · exact State.enterKernel_not_issued _ h
theorem State.take_not_issued : ((s.take c e).core c).ctl.offer ≠ .issued := by
  unfold State.take
  dsimp only
  split
  · exact State.enterUli_not_issued e h
  · exact State.enterKernel_not_issued e h

end

/-! ## What a word keeps of its core -/

/-- What a word with a destination keeps of its core: every register and address queue but the destination, the handles, F, the level,
the rest of the vector stream, the CSRs but FSR and UEZCOUNT, the engine queues and the tiles. -/
structure Core.keepsBut (d : Dst) (x y : Core) : Prop where
  s : ∀ r : Fin 32, d ≠ .reg r → y.ctl.s[r] = x.ctl.s[r]
  h : y.ctl.h = x.ctl.h
  f : y.ctl.f = x.ctl.f
  kernel : y.ctl.kernel = x.ctl.kernel
  v : y.vec.v = x.vec.v
  k : y.vec.k = x.vec.k
  a : y.vec.a = x.vec.a
  aq : ∀ q : Fin 4, d ≠ .aq q → y.vec.aq[q] = x.vec.aq[q]
  csr : { y.csr with fsr := 0, uezcount := 0 } = { x.csr with fsr := 0, uezcount := 0 }
  queues : y.queues = x.queues
  tiles : y.tiles = x.tiles

section
variable (d : Dst) (x : Core)

theorem Core.keepsBut_refl : x.keepsBut d x := ⟨fun _ _ => rfl, rfl, rfl, rfl, rfl, rfl, rfl, fun _ _ => rfl, rfl, rfl, rfl⟩
variable {d x} in
theorem Core.keepsBut.trans {y z : Core} (h : x.keepsBut d y) (g : y.keepsBut d z) : x.keepsBut d z where
  s r hr := (g.s r hr).trans (h.s r hr)
  h := g.h.trans h.h
  f := g.f.trans h.f
  kernel := g.kernel.trans h.kernel
  v := g.v.trans h.v
  k := g.k.trans h.k
  a := g.a.trans h.a
  aq q hq := (g.aq q hq).trans (h.aq q hq)
  csr := g.csr.trans h.csr
  queues := g.queues.trans h.queues
  tiles := g.tiles.trans h.tiles

theorem Core.keepsBut_countZeroed (e : LqEntry) : x.keepsBut d (x.countZeroed e) := by
  unfold Core.countZeroed; split
  · exact ⟨fun _ _ => rfl, rfl, rfl, rfl, rfl, rfl, rfl, fun _ _ => rfl, rfl, rfl, rfl⟩
  · exact x.keepsBut_refl d
theorem Core.keepsBut_countZeroed_foldl (es : List LqEntry) : x.keepsBut d (es.foldl Core.countZeroed x) := by
  induction es generalizing x with
  | nil => exact x.keepsBut_refl d
  | cons e r ih => exact (x.keepsBut_countZeroed d e).trans (ih _)
theorem Core.keepsBut_mergeCtl (f : BitVec 5) (n : Bool) (pc : Word) : x.keepsBut d (x.mergeCtl f n pc) := by
  simp only [Core.mergeCtl]
  split <;> exact ⟨fun _ _ => rfl, rfl, rfl, rfl, rfl, rfl, rfl, fun _ _ => rfl, rfl, rfl, rfl⟩
/-- The pops of a word change its load queues and what they merge into (R28, R86, R117). -/
theorem Core.keepsBut_commitPops (l : List Src) : x.keepsBut d (x.commitPops l) := by
  have dropped : x.keepsBut d (x.withCtl (·.dropPops l)) :=
    ⟨fun _ _ => rfl, rfl, rfl, rfl, rfl, rfl, rfl, fun _ _ => rfl, rfl, rfl, rfl⟩
  rw [Core.commitPops_eq]
  exact (dropped.trans (Core.keepsBut_countZeroed_foldl d _ _)).trans (Core.keepsBut_mergeCtl d _ _ _ _)
theorem Core.keepsBut_issuedCtl (pc : Word) : x.keepsBut d (x.issuedCtl pc) :=
  ⟨fun _ _ => rfl, rfl, rfl, rfl, rfl, rfl, rfl, fun _ _ => rfl, rfl, rfl, rfl⟩
/-- A register that is written leaves the others. -/
theorem Ctl.setReg_ne (t : Ctl) {r i : Fin 32} (v : Word) (h : r ≠ i) : (t.setReg r v).s[i] = t.s[i] := by
  unfold Ctl.setReg
  split
  · rfl
  · exact Vector.getElem_set_ne r.isLt i.isLt (fun e => h (Fin.ext e))
/-- A result goes to its destination alone (R41, R60). -/
theorem Core.keepsBut_putDst (v : Word) (lat : Nat) : x.keepsBut d (x.putDst d v lat) := by
  cases d with
  | reg r =>
    have kept : ((x.putDst (.reg r) v lat).ctl.h, (x.putDst (.reg r) v lat).ctl.f, (x.putDst (.reg r) v lat).ctl.kernel) =
        (x.ctl.h, x.ctl.f, x.ctl.kernel) := by
      simp only [Core.putDst, Core.putReg, Core.withCtl, Ctl.setReg]; split <;> rfl
    simp only [Prod.mk.injEq] at kept
    obtain ⟨h, f, kernel⟩ := kept
    exact ⟨fun i hi => x.ctl.setReg_ne v fun e => hi (e ▸ rfl), h, f, kernel, rfl, rfl, rfl, fun _ _ => rfl, rfl, rfl, rfl⟩
  | aq q =>
    refine ⟨fun _ _ => rfl, rfl, rfl, rfl, rfl, rfl, rfl, fun i hi => ?_, rfl, rfl, rfl⟩
    exact Vector.getElem_set_ne q.isLt i.isLt (fun e => hi (congrArg Dst.aq (Fin.ext e)))

end

/-! ## What a word keeps of the state -/

/-- What a word with a destination keeps between two states: what it keeps of its own core, memory, the packages, the partitions and
every other core. -/
structure State.keepsBut (d : Dst) (s t : State) : Prop where
  cur : t.cur = s.cur
  me : s.me.keepsBut d t.me
  mem : t.mem = s.mem
  pkgs : t.pkgs = s.pkgs
  parts : t.parts = s.parts
  others : ∀ c, c ≠ s.cur → t.core c = s.core c

section
variable {s : State} {d : Dst}

/-- Only the running core is replaced. -/
theorem State.keepsBut_withMe {y : Core} (h : s.me.keepsBut d y) : s.keepsBut d (withMe s y) where
  cur := rfl
  me := by rwa [withMe_me]
  mem := rfl
  pkgs := rfl
  parts := rfl
  others c hc := State.core_setCore_ne _ _ _ _ hc
/-- The word after it follows. -/
theorem State.keepsBut.ctlNext {t : State} (h : s.keepsBut d t) : s.keepsBut d (ctlNext t) where
  cur := h.cur
  me := by rw [ctlNext_me]; exact h.me.trans (Core.keepsBut_issuedCtl d _ _)
  mem := h.mem
  pkgs := h.pkgs
  parts := h.parts
  others c hc := (State.core_modCore_ne _ _ _ _ (by rwa [h.cur])).trans (h.others c hc)

/-! ## Words that issue in order -/

/-- A word whose only effect, where it issues, is on its own core, but for what it keeps of that. -/
def State.goesBut (s : State) (d : Dst) (r : Issue) : Prop :=
  ∀ x, r = .ok x → ∃ y, s.me.keepsBut d y ∧ x = .go (withMe s y)

/-- Such a word, where it has issued, keeps what it keeps; where it waits or traps it has not issued (R43, R45, R56). -/
theorem State.goesBut.keeps {r : Issue} {t : State} (h : s.goesBut d r) (before : s.me.ctl.offer ≠ .issued)
    (run : ctl s r = .next t) (issued : t.me.ctl.offer = .issued) : s.keepsBut d t := by
  cases r with
  | error stop => cases stop with
    | hold w =>
      rw [ctl_hold] at run
      cases run
      have held : (ctlHeld w s).me.ctl.offer = .held := by simp [ctlHeld]
      rw [held] at issued
      cases issued
    | trap tr =>
      rw [ctl_trap] at run
      cases run
      have me : (ctlTrap tr.cause tr.info s).me = (ctlTrap tr.cause tr.info s).core s.cur := by simp [State.me, ctlTrap]
      rw [me] at issued
      exact absurd issued (State.take_not_issued _ before)
  | ok x =>
    obtain ⟨y, kept, rfl⟩ := h x rfl
    rw [ctl_go s (withMe s y) rfl] at run
    cases run
    exact (State.keepsBut_withMe kept).ctlNext

/-- A check before a word changes nothing. -/
theorem State.goesBut_bind {α : Type} {e : Except Stop α} {f : α → Issue} (h : ∀ a, e = .ok a → s.goesBut d (f a)) :
    s.goesBut d (e >>= f) := by
  intro x hx
  obtain ⟨a, ha, hf⟩ := bind_eq_ok_iff.mp hx
  exact h a ha x hf
/-- A word that ends in a result put into its destination. -/
theorem State.goesBut_put {y : Core} (h : s.me.keepsBut d y) (v : Word) (lat : Nat) :
    s.goesBut d (.ok (.go (withMe s (y.putDst d v lat)))) := by
  rintro x ⟨⟩
  exact ⟨_, h.trans (Core.keepsBut_putDst d y v lat), rfl⟩

/-- The core after its sources have been read is the core with their pops made (R28). -/
theorem Core.srcs_core {x : Core} {l : List Src} {r : List Word × Core} (h : x.srcs l = .ok r) : r.2 = x.commitPops l := by
  simp only [Core.srcs, bind_eq_ok_iff] at h
  obtain ⟨_, _, vs, _, eq⟩ := h
  cases eq; rfl
theorem Core.keepsBut_srcs {x : Core} {l : List Src} {r : List Word × Core} (d : Dst) (h : x.srcs l = .ok r) : x.keepsBut d r.2 := by
  rw [Core.srcs_core h]; exact x.keepsBut_commitPops d l

theorem State.goesBut_alu2 (a b : Src) (lat : Nat) (f : Word → Word → Word) : s.goesBut d (s.alu2 d a b lat f) := by
  refine State.goesBut_bind fun _ _ => State.goesBut_bind fun r hr => State.goesBut_put ?_ _ _
  obtain ⟨v, w, y⟩ := r
  exact Core.src2_core hr ▸ s.me.keepsBut_commitPops d _
theorem State.goesBut_alu1 (a : Src) (lat : Nat) (f : Word → Word) : s.goesBut d (s.alu1 d a lat f) := by
  refine State.goesBut_bind fun _ _ => State.goesBut_bind fun r hr => State.goesBut_put ?_ _ _
  obtain ⟨v, y⟩ := r
  exact Core.src1_core _ _ _ _ hr ▸ s.me.keepsBut_commitPops d _

/-- A word on the divider, which it also occupies (R66). -/
theorem State.goesBut_divide (a b : Src) (f : Word → Word → Word) : s.goesBut d (do
    awaits (s.me.ctl.div == 0) .other
    match ← s.alu2 d a b 24 f with
    | .go t => .ok (.go (t.onMe fun x => x.withCtl fun c => { c with div := 24 }))
    | r => .ok r) := by
  refine State.goesBut_bind fun _ _ => State.goesBut_bind fun r hr => ?_
  obtain ⟨y, kept, rfl⟩ := State.goesBut_alu2 a b 24 f r hr
  rintro x ⟨⟩
  have divider : y.keepsBut d (y.withCtl fun c => { c with div := 24 }) :=
    ⟨fun _ _ => rfl, rfl, rfl, rfl, rfl, rfl, rfl, fun _ _ => rfl, rfl, rfl, rfl⟩
  refine ⟨_, kept.trans divider, ?_⟩
  simp [State.onMe, withMe]

end

/-! ## The words -/

/-- A word of one word's length that goes on in order. -/
def ScalarWord (i : Instr) (d : Dst) : Prop := ∃ r : State → Issue, (∀ s, exec i s = ctl s (r s)) ∧ ∀ s : State, s.goesBut d (r s)

theorem scalarWord_alu2 {i : Instr} {d : Dst} {a b : Src} (lat : Nat) (f : Word → Word → Word)
    (h : ∀ s, exec i s = ctl s (s.alu2 d a b lat f)) : ScalarWord i d := ⟨_, h, fun _ => State.goesBut_alu2 a b lat f⟩
theorem scalarWord_alu1 {i : Instr} {d : Dst} {a : Src} (f : Word → Word)
    (h : ∀ s, exec i s = ctl s (s.alu1 d a 1 f)) : ScalarWord i d := ⟨_, h, fun _ => State.goesBut_alu1 a 1 f⟩
theorem scalarWord_divide {i : Instr} {o : Rrr} (f : Word → Word → Word) (h : ∀ s, exec i s = s.divide o f) : ScalarWord i o.d :=
  ⟨_, h, fun _ => State.goesBut_divide o.a o.b f⟩

/-- The words of two sources: the alu family, multiply and divide (R63, R65, R66). -/
theorem scalarWord_rrr (o : Rrr) (i : Instr) (hi : i ∈ [Instr.add o, .sub o, .and o, .or o, .xor o, .andn o, .shl o, .shr o, .sra o,
    .rot o, .min o, .max o, .minu o, .maxu o, .slt o, .sltu o, .seq o, .mul o, .mulh o, .mulhu o, .div o, .divu o, .rem o, .remu o]) :
    ScalarWord i o.d := by
  simp only [List.mem_cons, List.not_mem_nil, or_false] at hi
  rcases hi with rfl | rfl | rfl | rfl | rfl | rfl | rfl | rfl | rfl | rfl | rfl | rfl | rfl | rfl | rfl | rfl | rfl | rfl | rfl |
    rfl | rfl | rfl | rfl | rfl
  iterate 17 exact scalarWord_alu2 1 _ fun _ => rfl
  iterate 3 exact scalarWord_alu2 3 _ fun _ => rfl
  iterate 4 exact scalarWord_divide _ fun _ => rfl
/-- The immediate forms (R64). -/
theorem scalarWord_rri (o : Rri) (i : Instr) (hi : i ∈ [Instr.addImmediate o, .andImmediate o, .orImmediate o, .xorImmediate o,
    .shlImmediate o, .shrImmediate o, .sraImmediate o, .sltImmediate o, .sltuImmediate o]) : ScalarWord i o.d := by
  simp only [List.mem_cons, List.not_mem_nil, or_false] at hi
  rcases hi with rfl | rfl | rfl | rfl | rfl | rfl | rfl | rfl | rfl
  all_goals exact scalarWord_alu1 _ fun _ => rfl
/-- The bit family (R67). -/
theorem scalarWord_bits (d : Dst) (a : Src) (i : Instr) (hi : i ∈ [Instr.clz d a, .ctz d a, .popc d a, .bswap d a]) : ScalarWord i d := by
  simp only [List.mem_cons, List.not_mem_nil, or_false] at hi
  rcases hi with rfl | rfl | rfl | rfl
  all_goals exact scalarWord_alu1 _ fun _ => rfl
/-- `sel` reads three sources (R63). -/
theorem scalarWord_sel (o : Rrr) (c : Fin 32) : ScalarWord (.sel o c) o.d :=
  ⟨_, fun _ => rfl, fun _ => State.goesBut_bind fun _ _ => State.goesBut_bind fun _ hr =>
    State.goesBut_put (Core.keepsBut_srcs o.d hr) _ _⟩
/-- `gaddr` checks the values of its sources (R71). -/
theorem scalarWord_gaddr (o : Rrr) : ScalarWord (.gaddr o) o.d := by
  refine ⟨_, fun _ => rfl, fun s => State.goesBut_bind fun _ _ => State.goesBut_bind fun r hr => State.goesBut_bind fun _ _ =>
    State.goesBut_bind fun _ _ => State.goesBut_put ?_ _ _⟩
  obtain ⟨v, w, y⟩ := r
  exact Core.src2_core hr ▸ s.me.keepsBut_commitPops o.d _
/-- `li` and `fget` read no source (R69, R80). -/
theorem scalarWord_li (d : Dst) (imm : BitVec 39) : ScalarWord (.li d imm) d :=
  ⟨_, fun _ => rfl, fun s => State.goesBut_bind fun _ _ => State.goesBut_put (s.me.keepsBut_refl d) _ _⟩
theorem scalarWord_fget (d : Dst) : ScalarWord (.fget d) d :=
  ⟨_, fun _ => rfl, fun s => State.goesBut_bind fun _ _ => State.goesBut_put (s.me.keepsBut_refl d) _ _⟩

/-- Settles O58: every word it names goes on in order with no effect but on its own core, and keeps what it keeps of that. -/
theorem scalarFrame : Obligations.ScalarFrame := by
  unfold Obligations.ScalarFrame
  intro keeps
  have frame {i : Instr} {d : Dst} (h : ScalarWord i d) : keeps i d := by
    obtain ⟨r, runs, goes⟩ := h
    intro s t before run issued
    have kept := (goes s).keeps before ((runs s).symm.trans run) issued
    exact ⟨kept.cur, kept.me.s, kept.me.h, kept.me.f, kept.me.kernel, kept.me.v, kept.me.k, kept.me.a, kept.me.aq, kept.me.csr,
      kept.me.queues, kept.me.tiles, kept.mem, kept.pkgs, kept.parts, kept.others⟩
  exact ⟨fun o i hi => frame (scalarWord_rrr o i hi), fun o i hi => frame (scalarWord_rri o i hi), fun o c => frame (scalarWord_sel o c),
    fun d a n => ⟨frame (scalarWord_alu1 _ fun _ => rfl), frame (scalarWord_alu1 _ fun _ => rfl)⟩,
    fun d a lo w => frame (scalarWord_alu1 _ fun _ => rfl), fun d a lo w => frame (scalarWord_alu2 1 _ fun _ => rfl),
    fun d imm => frame (scalarWord_li d imm), fun d imm => frame (scalarWord_alu1 _ fun _ => rfl),
    fun o sh disp => frame (scalarWord_alu2 1 _ fun _ => rfl), fun o => frame (scalarWord_gaddr o), fun d => frame (scalarWord_fget d),
    fun d a i hi => frame (scalarWord_bits d a i hi)⟩

end Sys2Proof.Machine
end

section
/-! SUPPORT. The push of a unit into a queue of its core (R35, R293, R333): what a unit is once its words are resolved, what a push
that passes its checks does, and the statements about the words that push, assembled from it. -/
namespace Sys2Proof.Machine
open Sys2Proof.Safety

/-! ## Units -/

/-- Resolving changes the words of a unit and of its follow-on alone (R35). -/
structure EUnit.sameBut (u0 u : EUnit) : Prop where
  q : u.q = u0.q
  op : u.op = u0.op
  h : u.h = u0.h
  i : u.i = u0.i
  w : u.w = u0.w

theorem Ctl.resolveUnit_same {x : Ctl} {u0 u : EUnit} (h : x.resolveUnit u0 = .ok u) : u0.sameBut u := by
  simp only [Ctl.resolveUnit, bind_eq_ok_iff] at h
  obtain ⟨_, _, v, _, eq⟩ := h
  cases eq
  exact ⟨rfl, rfl, rfl, rfl, rfl⟩

/-! ## A push that passes its checks -/

/-- The checks of a push, which the statements take as hypotheses (R35, R45, R83, R226, R298, R333, R391). -/
structure State.passes (s : State) (u0 u : EUnit) (fill see : Option TileRef) : Prop where
  resolved : s.me.ctl.resolveUnit u0 = .ok u
  words : u.check (s.me.csr.mitl.setWidth 16) = .ok ()
  refs : s.checkRefs u = .ok (fill, see)
  forward : s.me.checkForward u = .ok ()
  kept : s.me.lost = none
  ready : s.me.accessReady = true

/-- The command of a push. -/
def State.pushed (s : State) (u : EUnit) (fill see : Option TileRef) : Cmd :=
  s.me.command u (s.me.capture s.me.ctl.kernel) s.cur s.nextId s.me.vec.era fill see
/-- The core after a push, as it stands once the see handle has its reference. -/
def Core.afterPush (y : Core) (u : EUnit) (fill : Option TileRef) (cmd : Cmd) : Core :=
  let z := if fill.isSome then y.putHandle u.h .null else y
  { (z.addEntry u.q (.cmd cmd)).numbered u.q with lastPush := z.lastPush.set u.q cmd.num }
/-- The state after a push. -/
def State.afterPush (s : State) (u : EUnit) (fill see : Option TileRef) : State :=
  ((match see with | some t => s.addSee t | none => s).release s.cur).onMe (·.afterPush u fill (s.pushed u fill see))

section
variable {s : State} {u0 u : EUnit} {fill see : Option TileRef} (h : s.passes u0 u fill see)
include h

/-- A full queue holds the push (R293). -/
theorem State.pushUnit_full (full : queueDepth u0.q ≤ s.me.queues[u0.q].entries.length) :
    s.pushUnit u0 = .error (.hold (.queue u0.q.val)) := by
  unfold State.pushUnit Core.checkLost orTrap
  simp only [h.resolved, h.words, h.refs, h.forward, h.kept, h.ready, Nat.not_lt.mpr full, decide_false,
    alsoBlocked_ok, awaits_true, awaits_false, together_ok, bind, Except.bind]
/-- A queue with room takes it. -/
theorem State.pushUnit_room (room : s.me.queues[u0.q].entries.length < queueDepth u0.q) :
    s.pushUnit u0 = .ok (.go (s.afterPush u fill see)) := by
  unfold State.pushUnit Core.checkLost orTrap
  simp only [h.resolved, h.words, h.refs, h.forward, h.kept, h.ready, room, decide_true,
    alsoBlocked_ok, awaits_true, together_ok, bind, Except.bind]
  rfl

end

/-! ## What a push leaves -/

section
variable (s : State) (c : Nat) (t r : TileRef) (f : Core → Core) (g : Tile → Tile)

/-- A core after one of its tiles, or of another core's, is changed. -/
theorem State.modTile_core : ∃ tiles, (s.modTile t g).core c = { s.core c with tiles := tiles } := by
  by_cases h : c = t.core
  · subst h; exact ⟨_, State.core_modCore s t.core _⟩
  · exact ⟨(s.core c).tiles, State.core_modCore_ne s t.core c _ h⟩
/-- The tile that was changed is changed so. -/
theorem State.tileOf_modTile : (s.modTile t g).tileOf t = g (s.tileOf t) := by
  simp [State.modTile, State.tileOf, Core.tile]
/-- A change of a core other than of its tiles leaves every tile. -/
theorem State.tileOf_modCore (h : (f (s.core c)).tiles = (s.core c).tiles) : (s.modCore c f).tileOf r = s.tileOf r := by
  unfold State.tileOf
  by_cases e : r.core = c
  · rw [e, State.core_modCore, Core.tile, Core.tile, h]
  · rw [State.core_modCore_ne _ _ _ _ e]

end

section
variable (s : State) (u : EUnit) (fill see : Option TileRef)

/-- The state in which the see handle of a push has its reference, and the push has gone as a release (R226, R255). -/
def State.referenced : State := (match see with | some t => s.addSee t | none => s).release s.cur

theorem State.referenced_cur : (s.referenced see).cur = s.cur := by cases see <;> rfl
theorem State.referenced_mem : (s.referenced see).mem = s.mem := by cases see <;> rfl
theorem State.referenced_me : ∃ tiles, (s.referenced see).me = { s.me with tiles := tiles } := by
  cases see with
  | none => exact ⟨s.me.tiles, rfl⟩
  | some t => exact s.modTile_core s.cur t fun y => { y with see := y.see + 1 }

theorem State.afterPush_eq : s.afterPush u fill see = (s.referenced see).onMe (·.afterPush u fill (s.pushed u fill see)) := rfl
theorem State.afterPush_cur : (s.afterPush u fill see).cur = s.cur := s.referenced_cur see

variable (y : Core) (cmd : Cmd)

@[simp] theorem Core.afterPush_tiles : (y.afterPush u fill cmd).tiles = y.tiles := by
  unfold Core.afterPush; dsimp only; split <;> rfl
@[simp] theorem Core.afterPush_pc : (y.afterPush u fill cmd).ctl.pc = y.ctl.pc := by
  unfold Core.afterPush; dsimp only; split <;> rfl
/-- The command stands last in its queue (R293). -/
theorem Core.afterPush_entries {q : Fin 6} (h : u.q = q) :
    (y.afterPush u fill cmd).queues[q].entries = y.queues[q].entries ++ [.cmd cmd] := by
  subst h
  unfold Core.afterPush
  dsimp only
  split <;> simp [Core.numbered, Core.addEntry, Core.putHandle]
theorem Core.afterPush_pseq {q : Fin 6} (h : u.q = q) : (y.afterPush u fill cmd).csr.pseq[q] = y.csr.pseq[q] + 1 := by
  subst h
  unfold Core.afterPush
  dsimp only
  split <;> simp [Core.numbered, Core.addEntry, Core.putHandle]
/-- A fill handle that the unit references leaves its register (R226). -/
theorem Core.afterPush_fill (h : fill ≠ none) : (y.afterPush u fill cmd).ctl.h[u.h] = .null := by
  have some_ : fill.isSome = true := Option.isSome_iff_ne_none.mpr h
  unfold Core.afterPush
  simp [some_, Core.numbered, Core.addEntry, Core.putHandle]

end

/-! ## The words -/

/-- A push that issues: the word after its unit follows (R36, R43). -/
theorem push_issues {s t : State} {u : EUnit} (h : s.pushUnit u = .ok (.go t)) (cur : t.cur = s.cur) :
    push s u = .next (ctlTo (t.me.ctl.pc + BitVec.ofNat 64 (8 * u.length)) t) := by
  unfold push
  simp only [h, State.reportLost, State.settleCtl, ← cur]
  rfl
theorem push_held {s : State} {u : EUnit} {w : Wait} (h : s.pushUnit u = .error (.hold w)) : push s u = .next (ctlHeld w s) := by
  unfold push
  simp only [h, State.reportLost]
  rfl

/-- A word that pushes a unit does what the statements say of it (R35, R293, R333). -/
theorem pushes_of_push {i : Instr} {u0 : EUnit} {op : Core → Params → CmdOp} (run : ∀ s, exec i s = push s u0)
    (cmdOp : ∀ x p, u0.op.cmdOp x u0.q.val p = op x p) : pushes i u0 u0.length op := by
  intro s u fill see resolved words refs forward kept ready depth before
  have h : s.passes u0 u fill see := ⟨resolved, words, refs, forward, kept, ready⟩
  obtain ⟨q, unitOp, hreg, ibit, wbit⟩ := Ctl.resolveUnit_same resolved
  refine ⟨fun full => ?_, fun room => ?_⟩
  · rw [run, push_held (State.pushUnit_full h full)]
  obtain ⟨tiles, me⟩ := s.referenced_me see
  let y : Core := { s.me with tiles := tiles }
  let cmd := s.pushed u fill see
  have after : (s.afterPush u fill see).me = y.afterPush u fill cmd := by
    rw [State.afterPush_eq, State.me_onMe, me]
  refine ⟨_, cmd, (run s).trans (push_issues (State.pushUnit_room h room) (s.afterPush_cur u fill see)), ?pc, ?mem, ?entries, ?pseq, ?num,
    ?op, rfl, ibit, wbit, rfl, rfl, rfl, rfl, rfl, ?handle, ?tile⟩
  case pc => rw [ctlTo_me, Core.issuedCtl_pc, after, Core.afterPush_pc]
  case mem => exact s.referenced_mem see
  case entries => rw [ctlTo_me, Core.issuedCtl_queues, after, Core.afterPush_entries _ _ _ _ q]
  case pseq => rw [ctlTo_me, Core.issuedCtl_csr, after, Core.afterPush_pseq _ _ _ _ q]
  case num =>
    show s.me.pseq u.q.val + 1 = _
    rw [q]
    simp [Core.pseq]
  case op =>
    show u.op.cmdOp s.me u.q.val u.p = _
    rw [unitOp, q, cmdOp]
  case handle =>
    intro filled
    rw [ctlTo_me, Core.issuedCtl_h, after, Core.afterPush_fill _ _ _ _ filled]
  case tile =>
    rintro r rfl
    rw [ctlTo_eq, State.tileOf_modCore _ _ _ _ (by rfl), State.afterPush_eq, State.onMe, State.tileOf_modCore _ _ _ _ (by simp)]
    exact congrArg Tile.see (s.tileOf_modTile r fun y => { y with see := y.see + 1 })

/-- A mill command and a carter command have parameters; so a unit with a follow-on is ten words long, and without one five (R36). -/
theorem roles_mill (m : MillCmd) : (EOp.mill m).roles ≠ [] := by cases m <;> exact List.cons_ne_nil _ _
theorem roles_carter (o : CarterOp) : (EOp.carter o).roles ≠ [] := by cases o <;> exact List.cons_ne_nil _ _
theorem length_carterUnit (e : CarterWord) (o : CarterOp) : (carterUnit e o).length = if e.follow.isSome then 10 else 5 := by
  cases follow : e.follow <;> simp [EUnit.length, EUnit.pieces, carterUnit, follow, roles_mill, roles_carter]
theorem length_millUnit (e : MillWord) (m : MillCmd) : (millUnit e m).length = 5 := by
  simp [EUnit.length, EUnit.pieces, millUnit, roles_mill]

theorem pushes_carter {i : Instr} {e : CarterWord} {o : CarterOp} (run : ∀ s, exec i s = push s (carterUnit e o)) :
    pushes i (carterUnit e o) (if e.follow.isSome then 10 else 5) fun _ _ => .carter o :=
  length_carterUnit e o ▸ pushes_of_push run fun _ _ => rfl
theorem pushes_mill {i : Instr} {e : MillWord} {m : MillCmd} (run : ∀ s, exec i s = push s (millUnit e m)) :
    pushes i (millUnit e m) 5 fun _ _ => .mill m :=
  length_millUnit e m ▸ pushes_of_push run fun _ _ => rfl
/-- The operation of a `q.fence`: PSEQ of every queue of its mask but its own (R299). -/
theorem cmdOp_qfence (x : Core) (q : Nat) (mask : BitVec 6) (p : Params) : (EOp.qfence mask).cmdOp x q p =
    .qfence (((upto 6).filter fun i => mask.getLsbD i && i != q).map fun i => (i, x.csr.pseq.toList.getD i 0)) := by
  simp only [EOp.cmdOp, maskQueues, List.filter_filter, Core.pseq, Bool.and_comm]

/-- Settles O27: every carter word is a push of its unit. -/
theorem carterPushes : Obligations.CarterPushes := by
  unfold Obligations.CarterPushes
  intro e words as
  have word {i : Instr} {o : CarterOp} (run : ∀ s, exec i s = push s (carterUnit e o)) : as i o := pushes_carter run
  exact ⟨word fun _ => rfl, word fun _ => rfl, word fun _ => rfl, word fun _ => rfl, fun b => word fun _ => rfl, word fun _ => rfl,
    word fun _ => rfl, word fun _ => rfl, word fun _ => rfl, fun sz => ⟨word fun _ => rfl, word fun _ => rfl, word fun _ => rfl,
      word fun _ => rfl, word fun _ => rfl, word fun _ => rfl, word fun _ => rfl, word fun _ => rfl, word fun _ => rfl, word fun _ => rfl,
      word fun _ => rfl, word fun _ => rfl, word fun _ => rfl, word fun _ => rfl⟩⟩

/-- Settles O28: so is every mill word, and so are `q.wait`, `q.fence` and `q.sig`. -/
theorem millAndQueuePushes : Obligations.MillAndQueuePushes := by
  unfold Obligations.MillAndQueuePushes
  refine ⟨fun e p => ?mill, fun e => ⟨fun m p => ?wait, fun mask => ?fence, ?sig⟩⟩
  case mill =>
    intro as
    have word {i : Instr} {m : MillCmd} (run : ∀ s, exec i s = push s (millUnit e m)) : as i m := pushes_mill run
    exact ⟨fun f => word fun _ => rfl, word fun _ => rfl, fun r j t => word fun _ => rfl, fun b n => word fun _ => rfl,
      word fun _ => rfl, fun t => word fun _ => rfl, fun l => word fun _ => rfl⟩
  case wait => exact pushes_of_push (u0 := queueUnit e (.qwait m) p) (fun _ => rfl) fun _ _ => rfl
  case fence =>
    exact pushes_of_push (u0 := queueUnit e (.qfence mask) noParams) (fun _ => rfl) fun x p => cmdOp_qfence x e.q.val mask p
  case sig => exact pushes_of_push (u0 := queueUnit e .qsig noParams) (fun _ => rfl) fun _ _ => rfl

end Sys2Proof.Machine
end

section
/-! SUPPORT. Elements of integer types: the bits of a lane that an element keeps, and what the operations of atomics and reductions give
on them (R129, R132, R135, R261). -/
namespace Sys2Proof

/-! ## Words and elements -/

section
variable (t : Ty) (n : Nat) (v : Word) (i : Int)

theorem Ty.width_pos : 0 < t.width := by cases t <;> decide
theorem Ty.width_le : t.width ≤ 64 := by cases t <;> decide
/-- The element of a word is its low bits (R129). -/
theorem Ty.low_eq : t.low v = (v.setWidth t.width).toNat := (BitVec.toNat_setWidth ..).symm
theorem Ty.ofNat_low : BitVec.ofNat t.width (t.low v) = v.setWidth t.width := by
  rw [Ty.low_eq, BitVec.ofNat_toNat, BitVec.setWidth_eq]
/-- The upper half of the numbers of a width are those that are negative as signed ones. -/
theorem two_pow_pred_le_iff {w b : Nat} (h : 0 < w) : 2 ^ (w - 1) ≤ b ↔ ¬ 2 * b < 2 ^ w := by
  obtain ⟨k, rfl⟩ := Nat.exists_eq_add_of_lt h
  simp only [Nat.zero_add, Nat.add_sub_cancel, Nat.pow_succ]
  omega

variable {t}

/-- The number in an element of a signed type (R114). -/
theorem Ty.toInt_signed (h : t.signed = true) : t.toInt v = (v.setWidth t.width).toInt := by
  simp only [Ty.toInt, h, Bool.true_and, decide_eq_true_eq, Ty.low_eq, BitVec.toInt_eq_toNat_cond, two_pow_pred_le_iff t.width_pos]
  split <;> simp_all
theorem Ty.toInt_unsigned (h : t.signed = false) : t.toInt v = ((v.setWidth t.width).toNat : Int) := by
  simp [Ty.toInt, h, Ty.low_eq]
/-- An element of a signed type stands sign-extended in its lane (R129). -/
theorem Ty.extend_signed (h : t.signed = true) : t.extend n = (BitVec.ofNat t.width n).signExtend 64 := by
  have top : (BitVec.ofNat t.width n).toNat = n % 2 ^ t.width := BitVec.toNat_ofNat ..
  simp only [Ty.extend, h, Bool.true_and, decide_eq_true_eq, two_pow_pred_le_iff t.width_pos, BitVec.signExtend,
    BitVec.toInt_eq_toNat_cond, top, ite_not]
  split
  case isTrue => exact (BitVec.ofInt_natCast ..).symm
  case isFalse => push_cast; rfl

/-- A sign-extended element reads back. -/
theorem setWidth_signExtend {w : Nat} (x : BitVec w) (h : w ≤ 64) : (x.signExtend 64).setWidth w = x := by
  apply BitVec.eq_of_getLsbD_eq
  intro i hi
  have inside : i < 64 := by omega
  rw [BitVec.getLsbD_setWidth, BitVec.getLsbD_signExtend]
  simp [hi, inside]
/-- An element extended into a lane reads back. -/
theorem Ty.setWidth_extend (w : Nat) (hw : t.width = w) : (t.extend n).setWidth w = BitVec.ofNat w n := by
  subst hw
  by_cases h : t.signed = true
  · rw [Ty.extend_signed n h, setWidth_signExtend _ t.width_le]
  · have low : BitVec.ofNat t.width (n % 2 ^ t.width) = BitVec.ofNat t.width n := BitVec.eq_of_toNat_eq (by simp)
    simp [Ty.extend, h, BitVec.setWidth_ofNat_of_le t.width_le, low]
theorem Ty.setWidth_extend_toNat (r : BitVec t.width) : (t.extend r.toNat).setWidth t.width = r := by
  rw [Ty.setWidth_extend _ _ rfl, BitVec.ofNat_toNat, BitVec.setWidth_eq]
/-- An integer wrapped into its type reads back (R132). -/
theorem Ty.setWidth_ofInt (w : Nat) (hw : t.width = w) : (t.ofInt i).v.setWidth w = BitVec.ofInt w i := by
  subst hw
  rw [Ty.ofInt, Ty.setWidth_extend _ _ rfl]
  apply BitVec.eq_of_toNat_eq
  have inside : (i % 2 ^ t.width).toNat < 2 ^ t.width := by
    have := Int.emod_lt_of_pos i (b := 2 ^ t.width) (by positivity)
    have := Int.emod_nonneg i (b := 2 ^ t.width) (by positivity)
    zify
    omega
  simp [BitVec.toNat_ofInt, Nat.mod_eq_of_lt inside]

end

namespace Machine

theorem ff_of_signed {t : Ty} (h : t.signed = true) : t.ff = none := by revert h; cases t <;> decide

/-- What an operation on integers makes of an element and its operand (R154, R261). -/
def AmoOp.onInts {w : Nat} (op : AmoOp) (old u : BitVec w) : Option (BitVec w) :=
  match op with
  | .swap => some u
  | .add => some (old + u)
  | .and => some (old &&& u)
  | .or => some (old ||| u)
  | .xor => some (old ^^^ u)
  | .min => some (if u.toInt < old.toInt then u else old)
  | .max => some (if old.toInt < u.toInt then u else old)
  | .minu => some (if (u.toNat : Int) < (old.toNat : Int) then u else old)
  | .maxu => some (if (old.toNat : Int) < (u.toNat : Int) then u else old)
  | _ => none

section
variable {t : Ty} {w : Nat} (hw : t.width = w) (ff : t.ff = none) (a b : Word)
include hw ff

theorem laneAdd_int (m : RM) : (laneBin .add t m a b).v.setWidth w = BitVec.ofInt w (t.toInt a + t.toInt b) := by
  simp only [laneBin, ff, Bin.int, Ty.setWidth_ofInt _ w hw]
theorem laneMin_int : (laneMin false t a b).v.setWidth w = BitVec.ofInt w (if t.toInt b < t.toInt a then t.toInt b else t.toInt a) := by
  simp only [laneMin, ff, Ty.setWidth_ofInt _ w hw, Bool.false_eq_true, if_false]
theorem laneMax_int : (laneMin true t a b).v.setWidth w = BitVec.ofInt w (if t.toInt a < t.toInt b then t.toInt b else t.toInt a) := by
  simp only [laneMin, ff, Ty.setWidth_ofInt _ w hw, if_true]
end

/-- The number of an element taken as unsigned gives the element back. -/
theorem ofInt_toNat {w : Nat} (x : BitVec w) : BitVec.ofInt w (x.toNat : Int) = x := by
  rw [BitVec.ofInt_natCast, BitVec.ofNat_toNat, BitVec.setWidth_eq]
theorem unsignedTy_width (t : Ty) : (unsignedTy t).width = t.width := by cases t <;> rfl
theorem unsignedTy_unsigned {t : Ty} (h : t.signed = true) : (unsignedTy t).signed = false := by revert h; cases t <;> decide
theorem unsignedTy_ff {t : Ty} (h : t.signed = true) : (unsignedTy t).ff = none := by revert h; cases t <;> decide
/-- The number in an element taken as unsigned. -/
theorem toInt_unsignedTy {t : Ty} (h : t.signed = true) (v : Word) :
    (unsignedTy t).toInt v = ((v.setWidth t.width).toNat : Int) := by
  rw [Ty.toInt_unsigned v (unsignedTy_unsigned h), unsignedTy_width]

/-- The new element that an operation leaves on an integer type (R154, R261). -/
theorem AmoOp.apply_int {t : Ty} (h : t.signed = true) (op : AmoOp) (a b : Word) {r : BitVec t.width}
    (hr : op.onInts (a.setWidth t.width) (b.setWidth t.width) = some r) : (op.apply t a b).v.setWidth t.width = r := by
  have ff := ff_of_signed h
  have uff := unsignedTy_ff h
  have uw := unsignedTy_width t
  cases op with
  | swap =>
    cases hr
    rw [AmoOp.apply, Ty.low_eq, Ty.setWidth_extend_toNat]
  | add =>
    cases hr
    rw [AmoOp.apply, laneAdd_int rfl ff, Ty.toInt_signed _ h, Ty.toInt_signed _ h, BitVec.ofInt_add, BitVec.ofInt_toInt,
      BitVec.ofInt_toInt]
  | and =>
    cases hr
    rw [AmoOp.apply, laneLogic, Ty.low_eq, Ty.low_eq, ← BitVec.toNat_and, Ty.setWidth_extend_toNat]
  | or =>
    cases hr
    rw [AmoOp.apply, laneLogic, Ty.low_eq, Ty.low_eq, ← BitVec.toNat_or, Ty.setWidth_extend_toNat]
  | xor =>
    cases hr
    rw [AmoOp.apply, laneLogic, Ty.low_eq, Ty.low_eq, ← BitVec.toNat_xor, Ty.setWidth_extend_toNat]
  | min =>
    cases hr
    rw [AmoOp.apply, laneMin_int rfl ff, Ty.toInt_signed _ h, Ty.toInt_signed _ h, apply_ite (BitVec.ofInt _), BitVec.ofInt_toInt,
      BitVec.ofInt_toInt]
  | max =>
    cases hr
    rw [AmoOp.apply, laneMax_int rfl ff, Ty.toInt_signed _ h, Ty.toInt_signed _ h, apply_ite (BitVec.ofInt _), BitVec.ofInt_toInt,
      BitVec.ofInt_toInt]
  | minu =>
    cases hr
    rw [AmoOp.apply, laneMin_int uw uff, toInt_unsignedTy h, toInt_unsignedTy h, apply_ite (BitVec.ofInt _), ofInt_toNat, ofInt_toNat]
  | maxu =>
    cases hr
    rw [AmoOp.apply, laneMax_int uw uff, toInt_unsignedTy h, toInt_unsignedTy h, apply_ite (BitVec.ofInt _), ofInt_toNat, ofInt_toNat]
  | fadd => cases hr
  | fmin => cases hr
  | fmax => cases hr

end Machine
end Sys2Proof
end

section
/-! SUPPORT. An access at its home on an element of an integer type: what stands in the element afterwards and what comes back (R201,
R241, R252, R261 to R264). -/
namespace Sys2Proof.Machine

/-! ## Numbers in memory -/

@[simp] theorem length_leBytes (n v : Nat) : (leBytes n v).length = n := by
  induction n generalizing v with
  | zero => rfl
  | succ n ih => simp [leBytes, ih]
/-- The bytes of a number read back. -/
theorem leNat_leBytes (n v : Nat) : leNat (leBytes n v) = v % 256 ^ n := by
  induction n generalizing v with
  | zero => simp [leBytes, leNat, Nat.mod_one]
  | succ n ih =>
    rw [leBytes, leNat, ih, BitVec.toNat_ofNat, pow_succ' 256 n, Nat.mod_mul]
theorem State.readNat_writeNat (s : State) (k n v : Nat) : (s.writeNat k n v).readNat k n = v % 256 ^ n := by
  have bytes := s.readBytes_write k (leBytes n v)
  rw [length_leBytes] at bytes
  rw [State.readNat, State.writeNat, bytes, leNat_leBytes]
theorem State.readByte_writeNat_outside (s : State) {k j n : Nat} (v : Nat) (h : j < k ∨ k + n ≤ j) :
    (s.writeNat k n v).readByte j = s.readByte j :=
  s.readByte_write_outside k j _ (by rwa [length_leBytes])
/-- A number is read from its bytes alone. -/
theorem State.readNat_congr {s t : State} (h : ∀ j, t.readByte j = s.readByte j) (k n : Nat) : t.readNat k n = s.readNat k n := by
  simp [State.readNat, State.readBytes, h]

/-! ## What an access does beside its element -/

section
variable (s : State) (c k n j : Nat)

@[simp] theorem State.countFrame_cores : (s.countFrame k n).cores = s.cores := by
  unfold State.countFrame; split
  · exact s.modPkg_cores _ _
  · rfl
@[simp] theorem State.countFrame_core (x : Nat) : (s.countFrame k n).core x = s.core x := by simp [State.core]
@[simp] theorem State.countFrame_poisoned (a m : Nat) : (s.countFrame k n).poisoned a m = s.poisoned a m := by
  simp [State.poisoned, State.poisonAt, (sameBytes_countFrame s k n).2.1]
@[simp] theorem State.readByte_countFrame : (s.countFrame k n).readByte j = s.readByte j :=
  State.readByte_congr (sameBytes_countFrame s k n).1 (s.countFrame_cores k n) j
@[simp] theorem State.readByte_noteHost : (s.noteHost c k).readByte j = s.readByte j := by
  unfold State.noteHost; split
  · split
    · rfl
    · exact State.readByte_congr (s.modPkg_mem _ _) (s.modPkg_cores _ _) j
  · rfl
/-- A change of a core other than of its wake count leaves every byte. -/
theorem State.readByte_modCore (f : Core → Core) (h : (f (s.core c)).wakes = (s.core c).wakes) :
    (s.modCore c f).readByte j = s.readByte j := by
  have epoch : (s.modCore c f).epoch j = s.epoch j := by
    unfold State.epoch
    split
    case h_1 d _ =>
      by_cases e : d = c
      · rw [e, State.core_modCore, h]
      · rw [State.core_modCore_ne _ _ _ _ e]
    case h_2 => rfl
  simp [State.readByte, epoch]
@[simp] theorem State.readByte_memFlags (f : BitVec 5) : (s.memFlags c f).readByte j = s.readByte j := by
  unfold State.memFlags; split
  · split
    · rfl
    · rw [State.readByte_modCore _ _ _ _ (by rfl), State.readByte_modPart]
  · rfl

variable {s}

/-- With no injection armed at the core whose ERRINJ counts, a read sets off none (R205). -/
theorem State.fire_unarmed {c : Nat} (unarmed : (s.core c).csr.errinj.toNat % 2 = 0) (target : Nat) (freezes : Bool) :
    s.fire c target k freezes = s := by
  simp [State.fire, Core.armed, unarmed]
theorem State.onLocalRead_unarmed {c : Nat} (unarmed : (s.core c).csr.errinj.toNat % 2 = 0) : s.onLocalRead c k = s :=
  State.fire_unarmed k unarmed _ _
theorem State.onRead_unarmed (unarmed : ∀ x, (s.core x).csr.errinj.toNat % 2 = 0) (feed : Bool) : s.onRead c k feed = s := by
  unfold State.onRead
  split
  case h_1 =>
    split
    case h_1 => exact State.fire_unarmed _ (unarmed _) _ _
    case h_2 => rfl
  case h_2 => exact State.fire_unarmed _ (unarmed _) _ _
  case h_3 => exact State.fire_unarmed _ (unarmed _) _ _
  case h_4 => rfl

end

/-! ## The element after an access -/

/-- What an access does with a sound element that it found to hold `old` (R252, R262 to R264). -/
def State.actOn (s : State) (c : Nat) (r : Req) (k : Nat) (old : Word) : State × Result :=
  let put (v : Word) : State := (s.writeNat k r.ty.size (r.ty.low v)).noteHost c k
  match r.op with
  | .load => (s, .of (.value old))
  | .store v => (put v, .of .absent)
  | .amo op v => (put (op.apply r.ty old v).v,
      { datum := .value old, flags := (op.apply r.ty old v).fl, nan := (op.apply r.ty old v).nan })
  | .red op v => ((put (op.apply r.ty old v).v).memFlags c (op.apply r.ty old v).fl, .of .absent)
  | .cas e v => (if r.ty.low old = r.ty.low e then put v else s, .of (.value old))
/-- That is what is performed at the home where no granule is poisoned and no injection armed, the access counted (R197, R201, R205). -/
theorem State.performKey_eq {s : State} {c k : Nat} {r : Req} (clean : s.poisoned k r.ty.size = false)
    (unarmed : ∀ x, (s.core x).csr.errinj.toNat % 2 = 0) :
    s.performKey c r k = (s.countFrame k r.ty.size).actOn c r k (r.ty.extend (s.readNat k r.ty.size)) := by
  have width : 8 * r.ty.size = r.ty.width := by cases r.ty <;> rfl
  have unarmed' (x : Nat) : ((s.countFrame k r.ty.size).core x).csr.errinj.toNat % 2 = 0 := by simpa using unarmed x
  have near := State.onLocalRead_unarmed k (unarmed' c)
  have far := State.onRead_unarmed c k unarmed' false
  have read := State.readNat_congr fun j => s.readByte_countFrame k r.ty.size j
  cases op : r.op with
  | load => cases addr : r.addr <;> simp [State.performKey, State.actOn, op, addr, near, far, clean, read]
  | store v => simp [State.performKey, State.actOn, op, width, Ty.low]
  | amo o v => cases addr : r.addr <;> simp [State.performKey, State.actOn, op, addr, near, far, clean, read]
  | red o v => cases addr : r.addr <;> simp [State.performKey, State.actOn, op, addr, near, far, clean, read]
  | cas e v =>
    rw [State.actOn, op]
    dsimp only
    split
    case isTrue same => cases addr : r.addr <;> simp [State.performKey, op, addr, near, far, clean, read, same]
    case isFalse other => cases addr : r.addr <;> simp [State.performKey, op, addr, near, far, clean, read, other]

/-- Between two states the element of a type at a key has become `new`, and no byte outside it has changed. -/
def State.leaves (s t : State) (k : Nat) (ty : Ty) (new : BitVec ty.width) : Prop :=
  BitVec.ofNat ty.width (t.readNat k ty.size) = new ∧ ∀ j, j < k ∨ k + ty.size ≤ j → t.readByte j = s.readByte j

theorem Ty.pow_size (t : Ty) : 256 ^ t.size = 2 ^ t.width := by cases t <;> rfl

section
variable {s t : State} {k : Nat} {ty : Ty}

theorem State.leaves_same (h : ∀ j, t.readByte j = s.readByte j) : s.leaves t k ty (BitVec.ofNat ty.width (s.readNat k ty.size)) :=
  ⟨by rw [State.readNat_congr h], fun j _ => h j⟩
/-- A number written into the element, its other effects leaving the bytes. -/
theorem State.leaves_written {u : State} (x : Nat) (h : ∀ j, u.readByte j = s.readByte j)
    (ht : ∀ j, t.readByte j = (u.writeNat k ty.size x).readByte j) : s.leaves t k ty (BitVec.ofNat ty.width x) := by
  refine ⟨?_, fun j outside => ?_⟩
  · rw [State.readNat_congr ht, State.readNat_writeNat, Ty.pow_size]
    exact BitVec.eq_of_toNat_eq (by simp)
  · rw [ht, State.readByte_writeNat_outside _ _ outside, h]

/-- The element as the access finds it, as it stands in its lane. -/
theorem Ty.setWidth_extend_readNat : (ty.extend (s.readNat k ty.size)).setWidth ty.width =
    BitVec.ofNat ty.width (s.readNat k ty.size) := Ty.setWidth_extend _ _ rfl

variable {r : Req} (c : Nat) (clean : s.poisoned k r.ty.size = false) (unarmed : ∀ x, (s.core x).csr.errinj.toNat % 2 = 0)
include clean unarmed

/-- A load leaves its element as it was and brings it, extended (R201). -/
theorem State.performKey_load (signed : r.ty.signed = true) (op : r.op = .load) :
    s.leaves (s.performKey c r k).1 k r.ty (BitVec.ofNat r.ty.width (s.readNat k r.ty.size)) ∧
      (s.performKey c r k).2.datum = .value ((BitVec.ofNat r.ty.width (s.readNat k r.ty.size)).signExtend 64) := by
  rw [State.performKey_eq clean unarmed, State.actOn, op, ← Ty.extend_signed _ signed]
  exact ⟨State.leaves_same (by simp), rfl⟩
/-- A store leaves the low bytes of its datum (R82). -/
theorem State.performKey_store {v : Word} (op : r.op = .store v) :
    s.leaves (s.performKey c r k).1 k r.ty (v.setWidth r.ty.width) ∧ (s.performKey c r k).2.datum = .absent := by
  rw [State.performKey_eq clean unarmed, State.actOn, op, ← Ty.ofNat_low]
  exact ⟨State.leaves_written (u := s.countFrame k r.ty.size) _ (by simp) (by simp), rfl⟩
/-- An atomic leaves what its operation makes of the element, and brings the old one (R252, R262). -/
theorem State.performKey_amo (signed : r.ty.signed = true) {o : AmoOp} {v : Word} (op : r.op = .amo o v) :
    s.leaves (s.performKey c r k).1 k r.ty ((o.apply r.ty (r.ty.extend (s.readNat k r.ty.size)) v).v.setWidth r.ty.width) ∧
      (s.performKey c r k).2.datum = .value ((BitVec.ofNat r.ty.width (s.readNat k r.ty.size)).signExtend 64) := by
  rw [State.performKey_eq clean unarmed, State.actOn, op, ← Ty.extend_signed _ signed, ← Ty.ofNat_low]
  exact ⟨State.leaves_written (u := s.countFrame k r.ty.size) _ (by simp) (by simp), rfl⟩
/-- A reduction leaves the same, and brings nothing (R263). -/
theorem State.performKey_red {o : AmoOp} {v : Word} (op : r.op = .red o v) :
    s.leaves (s.performKey c r k).1 k r.ty ((o.apply r.ty (r.ty.extend (s.readNat k r.ty.size)) v).v.setWidth r.ty.width) ∧
      (s.performKey c r k).2.datum = .absent := by
  rw [State.performKey_eq clean unarmed, State.actOn, op, ← Ty.ofNat_low]
  exact ⟨State.leaves_written (u := s.countFrame k r.ty.size) _ (by simp) (by simp), rfl⟩
/-- `cas` stores where the element equals the low bytes of what it expects, and brings the old element (R264). -/
theorem State.performKey_cas (signed : r.ty.signed = true) {e v : Word} (op : r.op = .cas e v) :
    s.leaves (s.performKey c r k).1 k r.ty
        (if BitVec.ofNat r.ty.width (s.readNat k r.ty.size) = e.setWidth r.ty.width then v.setWidth r.ty.width
          else BitVec.ofNat r.ty.width (s.readNat k r.ty.size)) ∧
      (s.performKey c r k).2.datum = .value ((BitVec.ofNat r.ty.width (s.readNat k r.ty.size)).signExtend 64) := by
  have same : r.ty.low (r.ty.extend (s.readNat k r.ty.size)) = r.ty.low e ↔
      BitVec.ofNat r.ty.width (s.readNat k r.ty.size) = e.setWidth r.ty.width := by
    rw [Ty.low_eq, Ty.low_eq, Ty.setWidth_extend_readNat, BitVec.toNat_inj]
  rw [State.performKey_eq clean unarmed, State.actOn, op, ← Ty.extend_signed _ signed]
  refine ⟨?_, rfl⟩
  by_cases h : BitVec.ofNat r.ty.width (s.readNat k r.ty.size) = e.setWidth r.ty.width
  · simp only [if_pos h, if_pos (same.mpr h)]
    rw [← Ty.ofNat_low]
    exact State.leaves_written (u := s.countFrame k r.ty.size) _ (by simp) (by simp)
  · simp only [if_neg h, if_neg (mt same.mp h)]
    exact State.leaves_same (by simp)

end

/-- What an operation makes of the element that an access finds (R154, R261). -/
theorem AmoOp.apply_readNat {s : State} {k : Nat} {t : Ty} (signed : t.signed = true) (o : AmoOp) (v : Word) {u : BitVec t.width}
    (h : o.onInts (BitVec.ofNat t.width (s.readNat k t.size)) (v.setWidth t.width) = some u) :
    (o.apply t (t.extend (s.readNat k t.size)) v).v.setWidth t.width = u :=
  AmoOp.apply_int signed o _ v (by rwa [Ty.setWidth_extend_readNat])

/-- Settles O18: each kind of access is one of the lemmas above, on the element of its type. -/
theorem homeEffects : Obligations.HomeEffects := by
  unfold Obligations.HomeEffects
  intro s c k r w types clean unarmed
  obtain ⟨rfl, signed⟩ : r.ty.width = w ∧ r.ty.signed = true := by
    rcases types with ⟨h, rfl⟩ | ⟨h, rfl⟩ | ⟨h, rfl⟩ | ⟨h, rfl⟩ <;> rw [h] <;> exact ⟨rfl, rfl⟩
  intro p old new least most result
  cases op : r.op with
  | load =>
    obtain ⟨⟨element, outside⟩, datum⟩ := State.performKey_load c clean unarmed signed op
    exact ⟨outside, element, datum⟩
  | store v =>
    obtain ⟨⟨element, outside⟩, datum⟩ := State.performKey_store c clean unarmed op
    exact ⟨outside, element, datum⟩
  | amo o v =>
    obtain ⟨⟨element, outside⟩, datum⟩ := State.performKey_amo c clean unarmed signed op
    exact ⟨outside, fun u hu => ⟨element.trans (AmoOp.apply_readNat signed o v hu), datum⟩⟩
  | red o v =>
    obtain ⟨⟨element, outside⟩, datum⟩ := State.performKey_red c clean unarmed op
    exact ⟨outside, fun u hu => ⟨element.trans (AmoOp.apply_readNat signed o v hu), datum⟩⟩
  | cas e v =>
    obtain ⟨⟨element, outside⟩, datum⟩ := State.performKey_cas c clean unarmed signed op
    exact ⟨outside, element, datum⟩

end Sys2Proof.Machine
end

section
/-! SUPPORT. Local accesses of the vector stream (R147 to R150, R155): lanes and masks read back, the address of an access, its checks one
by one, what it puts in flight, and the statement about the local accesses assembled from them. -/
namespace Sys2Proof.Machine
open Sys2Proof.Safety

/-! ## Lanes and masks -/

theorem ok_bind {ε α β : Type} (a : α) (f : α → Except ε β) : (Except.ok a >>= f) = f a := rfl
theorem error_bind {ε α β : Type} (e : ε) (f : α → Except ε β) : (Except.error e >>= f) = .error e := rfl

theorem mem_lanesIn {m : Mask} {i : Nat} : i ∈ lanesIn m ↔ i < 64 ∧ active m i = true := by simp [lanesIn, upto]
/-- A bit of a mask that a list of lanes makes up. -/
theorem getLsbD_maskOf {l : List Nat} (h : ∀ j ∈ l, j < 64) {i : Nat} (hi : i < 64) : (maskOf l).getLsbD i = decide (i ∈ l) := by
  have from_ (m : Mask) : (l.foldl (fun m i => m ||| BitVec.ofNat 64 (2 ^ (i % 64))) m).getLsbD i = (m.getLsbD i || decide (i ∈ l)) := by
    induction l generalizing m with
    | nil => simp
    | cons j r ih =>
      have hj : j % 64 = j := Nat.mod_eq_of_lt (h j List.mem_cons_self)
      have bit : (BitVec.ofNat 64 (2 ^ j)).getLsbD i = decide (i = j) := by
        rw [BitVec.getLsbD_ofNat]
        simp [hi, Nat.testBit_two_pow, eq_comm]
      rw [List.foldl_cons, ih (fun k hk => h k (List.mem_cons_of_mem _ hk)), BitVec.getLsbD_or, hj, bit]
      simp [Bool.or_assoc]
  exact (from_ 0).trans (by simp)
/-- A lane of a list of words. -/
theorem getElem?_lanesOf (l : List Word) {i : Nat} (hi : i < 64) : (lanesOf l).toList[i]? = some (l.getD i 0) := by
  simp [lanesOf, hi]
/-- An enabled lane of lane results (R99). -/
theorem getElem?_laneWords {m : Mask} {i : Nat} (hi : i < 64) (on : active m i = true) (f : Nat → Lane) :
    (laneWords (forLanes m f)).toList[i]? = some (f i).v := by
  rw [laneWords, getElem?_lanesOf _ hi]
  simp [forLanes, upto, hi, on]

/-! ## The vector word has issued -/

@[simp] theorem vecTo_me (pc : Word) (l : Vector Level 4) (t : State) : (vecTo pc l t).me = t.me.withVec (·.issued pc l) := t.me_modCore _

/-- The running core changed once it is replaced. -/
theorem onMe_setCore (s : State) (x : Core) (f : Core → Core) : (s.setCore s.cur x).onMe f = withMe s (f x) :=
  s.modCore_setCore s.cur x f

/-! ## Addresses -/

/-- The address of a local access takes at most an entry of an address queue (R31, R147). -/
theorem Core.vaddr_core {x : Core} {n : Nat} {a : VAddr n} {loc : VLoc} (h : x.vaddr a = .ok loc) :
    ∃ aq, loc.core = x.withVec fun v => { v with aq := aq } := by
  cases a with
  | loc b off =>
    simp only [Core.vaddr, Core.ab, bind_eq_ok_iff] at h
    obtain ⟨r, ⟨_, _, read⟩, eq⟩ := h
    cases read; cases eq
    cases b with
    | areg i => exact ⟨x.vec.aq, rfl⟩
    | aq q =>
      simp only [Core.readAb]
      split
      · exact ⟨_, rfl⟩
      · exact ⟨x.vec.aq, rfl⟩
  | postInc r off => cases h; exact ⟨x.vec.aq, rfl⟩
  | preInc r off => cases h; exact ⟨x.vec.aq, rfl⟩

/-! ## The checks of an access -/

section
variable {s : State} {addr : Word} {e : VElems} {m : Mask} {ok writes : Bool} (on : m ≠ 0)
include on

/-- The first checks of R148 in their order, for a word with an active lane. -/
theorem State.checkElems_beyond (h : 0x20_0000 ≤ addr.toNat) :
    s.checkElems addr e m ok writes = .error (.trap { cause := .perm, info := addr }) := by
  have out : ¬ addr.toNat < Config.spadSize := Nat.not_lt.mpr h
  simp only [State.checkElems, if_neg on, decide_eq_false out, require_false, bind, Except.bind]
variable (inside : addr.toNat < 0x20_0000)
include inside
theorem State.checkElems_bank : s.checkElems addr e m false writes = .error (.trap { cause := .perm, info := addr }) := by
  have spad : addr.toNat < Config.spadSize := inside
  simp only [State.checkElems, if_neg on, decide_eq_true spad, require_true, require_false, bind, Except.bind]
theorem State.checkElems_misaligned (h : addr.toNat % 131072 % e.lay.size ≠ 0) :
    s.checkElems addr e m true writes = .error (.trap { cause := .misalign, info := addr }) := by
  have spad : addr.toNat < Config.spadSize := inside
  have crooked : ¬ addr.toNat % bankSize % e.lay.size = 0 := h
  simp only [State.checkElems, if_neg on, decide_eq_true spad, require_true, decide_eq_false crooked, require_false, bind, Except.bind]
end

/-- An address in the scratchpad lies in the bank that its upper bits name, under that bank's layout (R148, R181). -/
theorem State.velems_lay {s : State} {addr : Word} (inside : addr.toNat < 0x20_0000) (ty : Ty) (idx : Option (Nat → Word)) :
    (s.velems addr ty idx).lay = (BankFmt.of (s.bankWord s.cur (addr.toNat / 131072))).layout ty := by
  have bank : addr.toNat / bankSize % 16 = addr.toNat / 131072 := Nat.mod_eq_of_lt (Nat.div_lt_of_lt_mul inside)
  simp only [State.velems, bank]

/-- The interval of the indexed words (R91). -/
theorem Core.checkRepeat_ok {x : Core} {last : Option Nat} {n : Nat} {i : Word} (h : ∀ t, last = some t → t + n ≤ x.vec.now) :
    x.checkRepeat last n i = .ok () := by
  cases last with
  | none => rfl
  | some t => simp [Core.checkRepeat, h t rfl]
theorem Core.checkRepeat_conflict {x : Core} {t n : Nat} {i : Word} (h : x.vec.now < t + n) :
    x.checkRepeat (some t) n i = .error (.trap { cause := .issueConflict, info := i }) := by
  simp [Core.checkRepeat, Nat.not_le.mpr h]

/-- The checks of a local access before those of its elements, which the statements take as hypotheses (R91, R102, R130). -/
structure State.vReady (s : State) {n : Nat} (a : VAddr n) (d : Fin 32) (idx : Option (Fin 32)) (ues : List (Fin 32)) (k : Fin 8)
    (loc : VLoc) : Prop where
  addr : s.me.vaddr a = .ok loc
  lent : s.me.checkLent (d :: idx.toList) = .ok ()
  apart : idx ≠ none → ∀ n, s.me.vec.idxAt = some n → n + 4 ≤ s.me.vec.now
  ues : s.me.checkUes (s.me.vec.mask k) ues = .ok ()

section
variable {s : State} {n : Nat} {a : VAddr n} {d : Fin 32} {idx : Option (Fin 32)} {ues : List (Fin 32)} {k : Fin 8} {loc : VLoc}

/-- An access that comes far enough after the last indexed one goes on to its other checks (R91). -/
theorem State.vReady.interval (h : s.vReady a d idx ues k loc) (r : Issue) :
    (if idx.isSome = true then (s.me.checkRepeat s.me.vec.idxAt 4 1 >>= fun _ => r) else r) = r := by
  cases idx with
  | none => rfl
  | some x => rw [Core.checkRepeat_ok (h.apart (Option.some_ne_none x))]; rfl

variable {ty : Ty} {lat : Nat} {stop : Stop}

/-- What the checks of its elements find, a load, a store and a reduction stop for. -/
theorem State.vLoad_stops (h : s.vReady a d idx idx.toList k loc)
    (check : s.checkElems loc.addr (s.velems loc.addr ty (idx.map fun r => s.me.vec.lane r)) (s.me.vec.mask k) true false = .error stop) :
    s.vLoad ty d a idx k lat = .error stop := by
  simp only [State.vLoad, h.addr, h.lent, h.interval, h.ues, check, ok_bind, error_bind]
theorem State.vStore_stops (h : s.vReady a d idx (d :: idx.toList) k loc)
    (check : s.checkElems loc.addr (s.velems loc.addr ty (idx.map fun r => s.me.vec.lane r)) (s.me.vec.mask k)
      (!(idx.isSome && (s.velems loc.addr ty (idx.map fun r => s.me.vec.lane r)).lay.isBlock)) true = .error stop) :
    s.vStore ty d a idx k = .error stop := by
  simp only [State.vStore, h.addr, h.lent, h.interval, h.ues, check, ok_bind, error_bind]

end

/-! ## What an access puts in flight -/

/-- The core after a local access: its entries in flight, the indexed access noted, its bank's port taken, its base register on its way
(R50, R89, R91, R147). -/
def Core.sendsLocal (y : Core) (l : List PEntry) (indexed : Bool) (m : Mask) (bank : Nat) (base : Option (Fin 12 × Word)) : Core :=
  let z := l.foldl Core.pend y
  ((if indexed then z.withVec fun v => { v with idxAt := some v.now } else z).takePort m bank).vbase base
/-- The entry of a new base register, one cycle later (R99, R147). -/
def Core.baseEntry (y : Core) (b : Fin 12 × Word) : PEntry :=
  { y.blank .a b.1.val 1 .u64 with value := lanesOf [b.2], lanes := BitVec.allOnes 64 }

section
variable (y : Core) (l : List PEntry) (indexed : Bool) (m : Mask) (bank : Nat) (base : Option (Fin 12 × Word))

/-- What stays of a vector stream, but for what is in flight, under updates that put something in flight. -/
structure Core.onlyPends (x y : Core) (l : List PEntry) : Prop where
  pend : y.vec.pend = x.vec.pend ++ l
  now : y.vec.now = x.vec.now
  pc : y.vec.pc = x.vec.pc
  loops : y.vec.loops = x.vec.loops

variable {y l} in
theorem Core.onlyPends.trans {x z : Core} {l' : List PEntry} (h : x.onlyPends y l) (g : y.onlyPends z l') : x.onlyPends z (l ++ l') where
  pend := by rw [g.pend, h.pend, List.append_assoc]
  now := g.now.trans h.now
  pc := g.pc.trans h.pc
  loops := g.loops.trans h.loops
theorem Core.onlyPends_foldl : y.onlyPends (l.foldl Core.pend y) l := by
  induction l generalizing y with
  | nil => exact ⟨(List.append_nil _).symm, rfl, rfl, rfl⟩
  | cons p r ih => exact (⟨rfl, rfl, rfl, rfl⟩ : y.onlyPends (y.pend p) [p]).trans (ih (y.pend p))
theorem Core.onlyPends_takePort : y.onlyPends (y.takePort m bank) [] := by
  unfold Core.takePort; split <;> exact ⟨(List.append_nil _).symm, rfl, rfl, rfl⟩
/-- All that a local access puts in flight before its base register. -/
theorem Core.onlyPends_sendsLocal : ∃ z, y.onlyPends z l ∧ y.sendsLocal l indexed m bank base = z.vbase base := by
  refine ⟨_, ?_, rfl⟩
  have sent := y.onlyPends_foldl l
  have noted : y.onlyPends (if indexed then (l.foldl Core.pend y).withVec fun v => { v with idxAt := some v.now } else l.foldl Core.pend y)
      l := by
    split
    · exact ⟨sent.pend, sent.now, sent.pc, sent.loops⟩
    · exact sent
  simpa using noted.trans (Core.onlyPends_takePort _ m bank)

theorem Core.baseEntry_word (b : Fin 12 × Word) : (y.baseEntry b).word = b.2 := by
  rw [PEntry.word, List.headD_eq_head?_getD, List.head?_eq_getElem?, Core.baseEntry, getElem?_lanesOf _ (by decide)]
  rfl

variable {y l base} {s : State} {aq : Vector (List AqEntry) 4}

/-- The vector word after a local access: what it put in flight, and the word that the loop levels name (R97, R147). -/
theorem vecNext_sendsLocal (hy : y = s.me.withVec fun v => { v with aq := aq }) :
    (vecNext (withMe s (y.sendsLocal l indexed m bank base))).me.vec.pc = (loopStep s.me.vec.pc s.me.vec.loops).2 ∧
      inFlight s (vecNext (withMe s (y.sendsLocal l indexed m bank base))) base l := by
  obtain ⟨z, sent, eq⟩ := y.onlyPends_sendsLocal l indexed m bank base
  have core : s.me.onlyPends z l := by
    subst hy; exact ⟨sent.pend, sent.now, sent.pc, sent.loops⟩
  rw [eq]
  cases base with
  | none =>
    refine ⟨?_, ?_⟩
    · simp only [vecNext, vecTo_me, withMe_me, Core.vbase, Core.withVec_vec, Vec.issued, core.pc, core.loops]
    · simp only [inFlight, vecNext, vecTo_me, withMe_me, Core.vbase, Core.withVec_vec, Vec.issued, core.pend]
  | some b =>
    refine ⟨?_, z.baseEntry b, ?_, rfl, rfl, z.baseEntry_word b, ?_⟩
    · simp only [vecNext, vecTo_me, withMe_me, Core.vbase, Core.putA, Core.pend, Core.withVec_vec, Vec.issued, core.pc, core.loops]
    · simp only [vecNext, vecTo_me, withMe_me, Core.vbase, Core.putA, Core.pend, Core.withVec_vec, Vec.issued, core.pend, Core.baseEntry]
    · simp only [Core.baseEntry, Core.blank, core.now]

end

/-! ## Loads -/

/-- The element number of a lane (R148). -/
theorem State.velems_num (s : State) (addr : Word) (ty : Ty) (idx : Option (Fin 32)) (f : Fin 32 → Nat → Word) {i : Nat} (hi : i < 64) :
    (s.velems addr ty (idx.map f)).nums.getD i 0 =
      (s.velems addr ty (idx.map f)).lay.first (addr.toNat % 131072) + match idx with | some r => (f r i).toNat | none => i := by
  cases idx <;> simp [State.velems, elemNums, upto, hi, bankSize]

/-- The entry of a load: the active lanes' elements, each with its poison (R149). -/
def State.loadEntry (s : State) (ty : Ty) (d : Fin 32) (lat : Nat) (m : Mask) (e : VElems) : PEntry :=
  let bad := maskOf ((lanesIn m).filter fun i => s.elemPoisoned (bankKey s.cur e.bank) e.lay (e.nums.getD i 0))
  let l := forLanes m fun i =>
    if active bad i then plainLane 0 else s.elemAs (bankKey s.cur e.bank) e.lay (e.nums.getD i 0) ty
  { s.me.blank .v d.val lat ty with
    value := laneWords l, lanes := m, poison := bad, flags := laneFlags l, nan := (nanLane? l).isSome, nanLane := (nanLane? l).getD 0 }

section
variable {s : State} {ty : Ty} {d : Fin 32} {lat : Nat} {m : Mask} {e : VElems} {i : Nat} (hi : i < 64) (on : active m i = true)
include hi on

theorem State.loadEntry_poison :
    (s.loadEntry ty d lat m e).poison.getLsbD i = s.elemPoisoned (bankKey s.cur e.bank) e.lay (e.nums.getD i 0) := by
  have inLanes : i ∈ lanesIn m := mem_lanesIn.mpr ⟨hi, on⟩
  rw [State.loadEntry, getLsbD_maskOf (fun j hj => (mem_lanesIn.mp (List.mem_filter.mp hj).1).1) hi]
  simp [List.mem_filter, inLanes]
theorem State.loadEntry_value (sound : (s.loadEntry ty d lat m e).poison.getLsbD i = false) :
    (s.loadEntry ty d lat m e).value.toList[i]? = some (s.elemAs (bankKey s.cur e.bank) e.lay (e.nums.getD i 0) ty).v := by
  rw [State.loadEntry] at sound ⊢
  rw [getElem?_laneWords hi on]
  simp only [active, sound, Bool.false_eq_true, if_false]
end

/-- Elements are read from the bytes, poison from the list of poisoned granules. -/
theorem State.elemAs_congr {s t : State} (h : ∀ j, t.readByte j = s.readByte j) (kb : Nat) (l : Layout) (n : Nat) (ty : Ty) :
    t.elemAs kb l n ty = s.elemAs kb l n ty := by
  simp [State.elemAs, State.elemValue, State.elemBits, State.readNat_congr h, State.readBytes, h]
theorem State.elemPoisoned_congr {s t : State} (h : t.poison = s.poison) (kb : Nat) (l : Layout) (n : Nat) :
    t.elemPoisoned kb l n = s.elemPoisoned kb l n := by
  simp [State.elemPoisoned, State.poisoned, State.poisonAt, h]

section
variable {s : State} {n : Nat} {a : VAddr n} {d : Fin 32} {idx : Option (Fin 32)} {k : Fin 8} {loc : VLoc} {ty : Ty} {lat : Nat}

/-- A load whose checks pass, with no injection armed and no atomic of its stream under way to its bytes, issues with its lanes in flight
(R149, R205, R242). -/
theorem State.vLoad_issues (h : s.vReady a d idx idx.toList k loc) (unarmed : s.me.csr.errinj.toNat % 2 = 0)
    (check : s.checkElems loc.addr (s.velems loc.addr ty (idx.map fun r => s.me.vec.lane r)) (s.me.vec.mask k) true false = .ok ())
    (own : s.ownAtomics s.cur s.nextId
      ((s.velems loc.addr ty (idx.map fun r => s.me.vec.lane r)).runs s.cur (s.me.vec.mask k)) = []) :
    s.vLoad ty d a idx k lat = .ok (.go (withMe s (loc.core.sendsLocal
      [(withMe s loc.core).loadEntry ty d lat (s.me.vec.mask k) (s.velems loc.addr ty (idx.map fun r => s.me.vec.lane r))]
      idx.isSome (s.me.vec.mask k) (s.velems loc.addr ty (idx.map fun r => s.me.vec.lane r)).bank loc.base))) := by
  obtain ⟨aq, core⟩ := Core.vaddr_core h.addr
  have performed : s.performOwn s.cur s.nextId
      ((s.velems loc.addr ty (idx.map fun r => s.me.vec.lane r)).runs s.cur (s.me.vec.mask k)) = s := by
    rw [State.performOwn, own]; rfl
  have quiet (j : Nat) : (s.setCore s.cur loc.core).onLocalRead s.cur j = s.setCore s.cur loc.core := by
    refine State.onLocalRead_unarmed j ?_
    rw [State.core_setCore, core]
    exact unarmed
  simp only [State.vLoad, h.addr, h.lent, h.interval, h.ues, check, ok_bind, performed]
  cases ((s.velems loc.addr ty (idx.map fun r => s.me.vec.lane r)).runs s.cur (s.me.vec.mask k)).head? with
  | none => simp only [onMe_setCore, State.loadEntry, withMe_me, withMe_cur]; rfl
  | some r => simp only [quiet, onMe_setCore, State.loadEntry, withMe_me, withMe_cur]; rfl

end

/-- The words that load do what the statement says of them (R147 to R149). -/
theorem loads_of_vLoad {i : Instr} {ty : Ty} {d : Fin 32} {n : Nat} {a : VAddr n} {idx : Option (Fin 32)} {k : Fin 8} {lat : Nat}
    (run : ∀ s, exec i s = vec s (s.vLoad ty d a idx k lat)) : loads i ty d a idx k lat := by
  intro s loc addr lent apart ues unarmed e check own
  obtain ⟨aq, core⟩ := Core.vaddr_core addr
  have issue := State.vLoad_issues (lat := lat) ⟨addr, lent, apart, ues⟩ unarmed check own
  have bytes (j : Nat) : (withMe s loc.core).readByte j = s.readByte j := s.readByte_modCore s.cur j (fun _ => loc.core) (by rw [core]; rfl)
  obtain ⟨pc, flight⟩ := vecNext_sendsLocal (l := [(withMe s loc.core).loadEntry ty d lat (s.me.vec.mask k) e]) (base := loc.base)
    idx.isSome (s.me.vec.mask k) e.bank core
  refine ⟨_, _, (run s).trans ((congrArg (vec s) issue).trans (vec_go s _ rfl)), pc, rfl, flight, rfl, rfl, ?due, rfl,
    fun i hi on => ⟨?poison, fun sound => ?value⟩⟩
  case due => simp only [State.loadEntry, withMe_me, core, Core.blank, Core.withVec_vec]
  case poison =>
    rw [State.loadEntry_poison hi on, s.velems_num loc.addr ty idx s.me.vec.lane hi]
    exact State.elemPoisoned_congr rfl _ _ _
  case value =>
    rw [State.loadEntry_value hi on sound, s.velems_num loc.addr ty idx s.me.vec.lane hi, State.elemAs_congr bytes]
    rfl

/-! ## Stores and reductions -/

/-- Where the first element of a store stands, for its entry: the offset of lane 0's element where it is indexed (R371). -/
def VElems.firstAt (e : VElems) (addr : Word) (idx : Option (Fin 32)) : Word :=
  match idx with
  | some _ => addr + BitVec.ofNat 64 (e.lay.size * (e.nums.getD 0 0 - e.lay.first (addr.toNat % bankSize)))
  | none => addr
/-- The entries of a store or a reduction: its data, and the element numbers where it is indexed (R150, R155, R371). -/
def State.storeEntries (s : State) (kind : PKind) (op : Nat) (ty : Ty) (d : Fin 32) (m : Mask) (addr : Word) (e : VElems)
    (idx : Option (Fin 32)) : List PEntry :=
  { s.me.storeEntry kind d m ty addr e.word op (e.runs s.cur m) with offset := e.firstAt addr idx, seq := s.nextId } ::
    idx.toList.map fun r => { s.me.storeEntry .elems r m ty addr e.word 0 [] with value := lanesOf (e.nums.map (BitVec.ofNat 64)) }
/-- The state after a store or a reduction has issued. -/
def State.storeSent (s : State) (kind : PKind) (op : Nat) (ty : Ty) (d : Fin 32) (idx : Option (Fin 32)) (m : Mask) (loc : VLoc) : State :=
  let e := s.velems loc.addr ty (idx.map fun r => s.me.vec.lane r)
  withMe s (loc.core.sendsLocal (s.storeEntries kind op ty d m loc.addr e idx) idx.isSome m e.bank loc.base)

section
variable {s : State} {n : Nat} {a : VAddr n} {d : Fin 32} {idx : Option (Fin 32)} {k : Fin 8} {loc : VLoc} {ty : Ty}

/-- A store whose checks pass issues with its data in flight (R150). -/
theorem State.vStore_issues (h : s.vReady a d idx (d :: idx.toList) k loc)
    (check : s.checkElems loc.addr (s.velems loc.addr ty (idx.map fun r => s.me.vec.lane r)) (s.me.vec.mask k)
      (!(idx.isSome && (s.velems loc.addr ty (idx.map fun r => s.me.vec.lane r)).lay.isBlock)) true = .ok ()) :
    s.vStore ty d a idx k = .ok (.go (s.storeSent .store 0 ty d idx (s.me.vec.mask k) loc)) := by
  simp only [State.vStore, h.addr, h.lent, h.interval, h.ues, check, ok_bind]
  cases idx <;> rfl

/-- The offset of lane 0's element (R371). -/
theorem State.firstAt_some (s : State) (addr : Word) (ty : Ty) (r : Fin 32) :
    (s.velems addr ty (some (s.me.vec.lane r))).firstAt addr (some r) =
      addr + BitVec.ofNat 64 ((s.velems addr ty (some (s.me.vec.lane r))).lay.size * (s.me.vec.lane r 0).toNat) := by
  have num := s.velems_num addr ty (some r) s.me.vec.lane (i := 0) (by decide)
  simp only [Option.map_some] at num
  simp only [VElems.firstAt, num, bankSize, Nat.add_sub_cancel_left]
/-- The element numbers of an indexed store, in the lanes of their entry (R371). -/
theorem State.elemNums_lane (s : State) (addr : Word) (ty : Ty) (r : Fin 32) {i : Nat} (hi : i < 64) :
    (lanesOf ((s.velems addr ty (some (s.me.vec.lane r))).nums.map (BitVec.ofNat 64))).toList[i]? =
      some (BitVec.ofNat 64 ((s.velems addr ty (some (s.me.vec.lane r))).lay.first (addr.toNat % 131072) + (s.me.vec.lane r i).toNat)) := by
  have num := s.velems_num addr ty (some r) s.me.vec.lane hi
  simp only [Option.map_some] at num
  rw [getElem?_lanesOf _ hi, ← num]
  exact congrArg some (List.getD_map ..)
end

/-- A word that issues so where its checks pass does what the statement says of a store or a reduction (R148, R150, R155). -/
theorem stores_of_sent {i : Instr} {kind : PKind} {op : Nat} {ty : Ty} {d : Fin 32} {n : Nat} {a : VAddr n} {idx : Option (Fin 32)}
    {k : Fin 8} {bankOk : Layout → Bool}
    (run : ∀ s loc, s.vReady a d idx (d :: idx.toList) k loc →
      s.checkElems loc.addr (s.velems loc.addr ty (idx.map fun r => s.me.vec.lane r)) (s.me.vec.mask k)
        (bankOk (s.velems loc.addr ty (idx.map fun r => s.me.vec.lane r)).lay) true = .ok () →
      exec i s = vec s (.ok (.go (s.storeSent kind op ty d idx (s.me.vec.mask k) loc)))) :
    stores i kind op ty d a idx k bankOk := by
  intro s loc addr lent apart ues e check
  obtain ⟨aq, core⟩ := Core.vaddr_core addr
  obtain ⟨pc, flight⟩ := vecNext_sendsLocal (l := s.storeEntries kind op ty d (s.me.vec.mask k) loc.addr e idx) (base := loc.base)
    idx.isSome (s.me.vec.mask k) e.bank core
  refine ⟨_, _, _, (run s loc ⟨addr, lent, apart, ues⟩ check).trans (vec_go s _ rfl), pc, rfl, flight, rfl, rfl, rfl, rfl, rfl, rfl, rfl,
    ?plain, ?indexed⟩
  case plain => rintro rfl; exact ⟨rfl, rfl⟩
  case indexed =>
    rintro r rfl
    exact ⟨s.firstAt_some loc.addr ty r, _, rfl, rfl, rfl, fun i hi => s.elemNums_lane loc.addr ty r hi⟩

theorem stores_of_vStore {i : Instr} {ty : Ty} {d : Fin 32} {n : Nat} {a : VAddr n} {idx : Option (Fin 32)} {k : Fin 8}
    (run : ∀ s, exec i s = vec s (s.vStore ty d a idx k)) : stores i .store 0 ty d a idx k fun l => !(idx.isSome && l.isBlock) :=
  stores_of_sent fun s _ ready check => (run s).trans (congrArg (vec s) (State.vStore_issues ready check))

section
variable {s : State} {o : Vredm} {op : Nat} {loc : VLoc}

/-- A reduction whose checks pass issues with its data in flight, and one whose checks fail stops for what they find (R155). -/
theorem State.vReduce_issues (h : s.vReady o.addr o.s none [o.s] o.k loc)
    (check : s.checkElems loc.addr (s.velems loc.addr o.ty none) (s.me.vec.mask o.k) ((s.velems loc.addr o.ty none).lay.plain o.ty) true =
      .ok ()) : s.vReduce o op = vec s (.ok (.go (s.storeSent .red op o.ty o.s none (s.me.vec.mask o.k) loc))) := by
  have lent : s.me.checkLent [o.s] = .ok () := h.lent
  have ue : s.me.checkUe o.s (s.me.vec.mask o.k) = .ok () := h.ues
  simp only [State.vReduce, h.addr, lent, ue, check, ok_bind]
  rfl
theorem State.vReduce_stops {stop : Stop} (h : s.vReady o.addr o.s none [o.s] o.k loc)
    (check : s.checkElems loc.addr (s.velems loc.addr o.ty none) (s.me.vec.mask o.k) ((s.velems loc.addr o.ty none).lay.plain o.ty) true =
      .error stop) : s.vReduce o op = vec s (.error stop) := by
  have lent : s.me.checkLent [o.s] = .ok () := h.lent
  have ue : s.me.checkUe o.s (s.me.vec.mask o.k) = .ok () := h.ues
  simp only [State.vReduce, h.addr, lent, ue, check, ok_bind, error_bind]
end
theorem stores_of_vReduce {i : Instr} {o : Vredm} {op : Nat} (run : ∀ s, exec i s = s.vReduce o op) :
    stores i .red op o.ty o.s o.addr none o.k fun l => !l.isBlock && l.ty == o.ty :=
  stores_of_sent fun s _ ready check => (run s).trans (State.vReduce_issues ready check)

/-! ## Traps -/

/-- What the first checks of its elements stop a word for: an address outside the scratchpad, a format that the word does not allow, a
misaligned address (R148). -/
def State.vTraps (s : State) (i : Instr) (addr : Word) (ty : Ty) (allows : Layout → Bool) : Prop :=
  let l := (BankFmt.of (s.bankWord s.cur (addr.toNat / 131072))).layout ty
  (0x20_0000 ≤ addr.toNat → exec i s = .next (Safety.vecTrap .perm addr s)) ∧
  (addr.toNat < 0x20_0000 → allows l = false → exec i s = .next (Safety.vecTrap .perm addr s)) ∧
  (addr.toNat < 0x20_0000 → allows l = true → addr.toNat % 131072 % l.size ≠ 0 → exec i s = .next (Safety.vecTrap .misalign addr s))

section
variable {s : State} (past : s.me.ctl.past = false) {k : Fin 8} (on : s.me.vec.mask k ≠ 0)
include past on

/-- A word that stops for what the checks of its elements find traps what the statement says (R148). -/
theorem State.vTraps_of_checkElems {i : Instr} {addr : Word} {ty : Ty} {allows : Layout → Bool} (idx : Option (Nat → Word)) {writes : Bool}
    (run : ∀ stop, s.checkElems addr (s.velems addr ty idx) (s.me.vec.mask k) (allows (s.velems addr ty idx).lay) writes = .error stop →
      exec i s = vec s (.error stop)) : s.vTraps i addr ty allows := by
  have lay (inside : addr.toNat < 0x20_0000) := s.velems_lay inside ty idx
  refine ⟨fun beyond => ?_, fun inside deny => ?_, fun inside allow crooked => ?_⟩
  · rw [run _ (State.checkElems_beyond on beyond), vec_trap s _ _ past]
  · rw [← lay inside] at deny
    rw [run _ (deny ▸ State.checkElems_bank on inside), vec_trap s _ _ past]
  · rw [← lay inside] at allow crooked
    rw [run _ (allow ▸ State.checkElems_misaligned on inside crooked), vec_trap s _ _ past]

section
variable {n : Nat} {a : VAddr n} {d : Fin 32} {idx : Option (Fin 32)} {loc : VLoc} {i : Instr} {ty : Ty}

theorem State.vTraps_of_vLoad {lat : Nat} (h : s.vReady a d idx idx.toList k loc) (run : exec i s = vec s (s.vLoad ty d a idx k lat)) :
    s.vTraps i loc.addr ty fun _ => true :=
  State.vTraps_of_checkElems past on (idx.map fun r => s.me.vec.lane r) fun _ check =>
    run.trans (congrArg (vec s) (State.vLoad_stops h check))
theorem State.vTraps_of_vStore (h : s.vReady a d idx (d :: idx.toList) k loc) (run : exec i s = vec s (s.vStore ty d a idx k)) :
    s.vTraps i loc.addr ty fun l => !(idx.isSome && l.isBlock) :=
  State.vTraps_of_checkElems past on (idx.map fun r => s.me.vec.lane r) fun _ check =>
    run.trans (congrArg (vec s) (State.vStore_stops h check))
end
theorem State.vTraps_of_vReduce {o : Vredm} {op : Nat} {loc : VLoc} {i : Instr} (hk : o.k = k)
    (h : s.vReady o.addr o.s none [o.s] o.k loc) (run : exec i s = s.vReduce o op) :
    s.vTraps i loc.addr o.ty fun l => !l.isBlock && l.ty == o.ty := by
  subst hk
  exact State.vTraps_of_checkElems past on none fun _ check => run.trans (State.vReduce_stops h check)

end

section
variable {s : State} {a : VAddr 20} {d x : Fin 32} {k : Fin 8} {loc : VLoc} {ty : Ty} {n : Nat}

/-- An indexed access too soon after the last one (R91). -/
theorem State.indexed_conflict (addr : s.me.vaddr a = .ok loc) (lent : s.me.checkLent [d, x] = .ok ()) (last : s.me.vec.idxAt = some n)
    (soon : s.me.vec.now < n + 4) (lat : Nat) :
    s.vLoad ty d a (some x) k lat = .error (.trap { cause := .issueConflict, info := 1 }) ∧
      s.vStore ty d a (some x) k = .error (.trap { cause := .issueConflict, info := 1 }) := by
  have lents : s.me.checkLent (d :: (some x).toList) = .ok () := lent
  have conflict := Core.checkRepeat_conflict (i := 1) soon
  constructor
  · simp only [State.vLoad, addr, lents, last, conflict, ok_bind, error_bind, Option.isSome_some, if_true]
  · simp only [State.vStore, addr, lents, last, conflict, ok_bind, error_bind, Option.isSome_some, if_true]
end

/-! ## The statement -/

/-- Settles O38: loads, stores and reductions issue through one lemma each, over every address, index and mask; the traps are those of the
first checks of their elements. -/
theorem vectorMemory : Obligations.VectorMemory := by
  unfold Obligations.VectorMemory
  refine ⟨fun ty d a k => loads_of_vLoad fun _ => rfl, fun ty d a x k => loads_of_vLoad fun _ => rfl,
    fun ty d a k => stores_of_vStore fun _ => rfl, fun ty d a x k => stores_of_vStore fun _ => rfl,
    fun o => ?reduce, fun s past => ⟨?plain, ?indexed, ?reduceTraps⟩, ?conflict⟩
  case reduce =>
    exact ⟨stores_of_vReduce fun _ => rfl, stores_of_vReduce fun _ => rfl, stores_of_vReduce fun _ => rfl,
      stores_of_vReduce fun _ => rfl, stores_of_vReduce fun _ => rfl, stores_of_vReduce fun _ => rfl⟩
  case plain =>
    intro ty d a k loc addr lent on
    have ready (ues : List (Fin 32)) (h : s.me.checkUes (s.me.vec.mask k) ues = .ok ()) : s.vReady a d none ues k loc :=
      ⟨addr, lent, fun h => absurd rfl h, h⟩
    exact ⟨State.vTraps_of_vLoad past on (ready [] rfl) rfl, fun ues => State.vTraps_of_vStore past on (ready [d] ues) rfl⟩
  case indexed =>
    intro ty d a x k loc addr lent apart on
    have ready (ues : List (Fin 32)) (h : s.me.checkUes (s.me.vec.mask k) ues = .ok ()) : s.vReady a d (some x) ues k loc :=
      ⟨addr, lent, fun _ => apart, h⟩
    exact ⟨fun ues => State.vTraps_of_vLoad past on (ready [x] ues) rfl, fun ues => State.vTraps_of_vStore past on (ready [d, x] ues) rfl⟩
  case reduceTraps =>
    intro o loc addr lent ues on
    have ready : s.vReady o.addr o.s none [o.s] o.k loc := ⟨addr, lent, fun h => absurd rfl h, ues⟩
    have red {i : Instr} {op : Nat} (run : exec i s = s.vReduce o op) := State.vTraps_of_vReduce past on rfl ready run
    exact ⟨red rfl, red rfl, red rfl, red rfl, red rfl, red rfl⟩
  case conflict =>
    intro s ty d a x k loc n addr lent past last soon
    obtain ⟨load, store⟩ := State.indexed_conflict (ty := ty) (k := k) addr lent last soon 10
    exact ⟨(congrArg (vec s) load).trans (vec_trap s _ _ past), (congrArg (vec s) store).trans (vec_trap s _ _ past)⟩

end Sys2Proof.Machine
end

section
/-! SUPPORT. What finding the way of a request leaves of the state: translation fills caches, counts frames and draws free values, and
changes nothing else (R58, R82, R188, R192, R197). -/
namespace Sys2Proof.Machine

/-! ## Caches and counts -/

/-- Two states that differ at most in the packages, in the free values drawn, and in the translations that the cores hold. -/
structure State.cached (s t : State) : Prop where
  form : ∃ cores pkgs draws, t = { s with cores := cores, pkgs := pkgs, draws := draws }
  cores : ∀ c, ∃ l, t.core c = { s.core c with tlb := l }

section
variable {s t u : State}

theorem State.cached.refl (s : State) : s.cached s := ⟨⟨_, _, _, rfl⟩, fun _ => ⟨_, rfl⟩⟩
theorem State.cached.trans (h : s.cached t) (g : t.cached u) : s.cached u where
  form := by
    obtain ⟨_, _, _, rfl⟩ := h.form
    obtain ⟨_, _, _, rfl⟩ := g.form
    exact ⟨_, _, _, rfl⟩
  cores c := by
    obtain ⟨_, ht⟩ := h.cores c
    obtain ⟨_, hu⟩ := g.cores c
    rw [hu, ht]
    exact ⟨_, rfl⟩

theorem State.cached.cur (h : s.cached t) : t.cur = s.cur := by obtain ⟨_, _, _, rfl⟩ := h.form; rfl
theorem State.cached.nextId (h : s.cached t) : t.nextId = s.nextId := by obtain ⟨_, _, _, rfl⟩ := h.form; rfl
theorem State.cached.mem (h : s.cached t) : t.mem = s.mem := by obtain ⟨_, _, _, rfl⟩ := h.form; rfl
theorem State.cached.flight (h : s.cached t) : t.flight = s.flight := by obtain ⟨_, _, _, rfl⟩ := h.form; rfl
theorem State.cached.ctl (h : s.cached t) (c : Nat) : (t.core c).ctl = (s.core c).ctl := by
  obtain ⟨_, core⟩ := h.cores c; rw [core]
theorem State.cached.vec (h : s.cached t) (c : Nat) : (t.core c).vec = (s.core c).vec := by
  obtain ⟨_, core⟩ := h.cores c; rw [core]

end

/-! ## Translation -/

section
variable (s : State) (c p va : Nat)

theorem State.cached_modPkg (g : Pkg → Pkg) : s.cached (s.modPkg p g) where
  form := by
    unfold State.modPkg
    split
    · exact ⟨_, _, _, rfl⟩
    · exact ⟨_, _, _, rfl⟩
  cores d := ⟨(s.core d).tlb, by simp only [State.core, State.modPkg_cores]⟩
theorem State.cached_modDie (d : Nat) (g : Die → Die) : s.cached (s.modDie p d g) := s.cached_modPkg p _
theorem State.cached_draws (n : Nat) : s.cached { s with draws := n } := ⟨⟨_, _, _, rfl⟩, fun _ => ⟨_, rfl⟩⟩
theorem State.cached_modCore {f : Core → Core} (h : ∀ y, ∃ l, f y = { y with tlb := l }) : s.cached (s.modCore c f) where
  form := ⟨_, _, _, rfl⟩
  cores d := by
    by_cases e : d = c
    · subst e; rw [State.core_modCore]; exact h _
    · rw [State.core_modCore_ne _ _ _ _ e]; exact ⟨_, rfl⟩
theorem State.cached_countFrame (k n : Nat) : s.cached (s.countFrame k n) := by
  unfold State.countFrame
  split
  · exact s.cached_modDie ..
  · exact .refl s

/-- The reads of a walk are counted, level by level (R188, R197). -/
theorem State.cached_countWalkFrom (fuel level table : Nat) : s.cached (s.countWalkFrom p va fuel level table) := by
  induction fuel generalizing s level table with
  | zero => exact .refl s
  | succ n ih =>
    unfold State.countWalkFrom
    split
    case h_1 => exact .refl s
    case h_2 q _ =>
      dsimp only
      split
      · exact .refl s
      · split
        · exact s.cached_countFrame ..
        · split
          · exact (s.cached_countFrame ..).trans (ih ..)
          · exact s.cached_countFrame ..
/-- A lookup takes a translation from the core's cache, from the die's, or from a walk that both then hold (R192). -/
theorem State.cached_lookup : s.cached (s.lookup c va).1 := by
  unfold State.lookup
  dsimp only
  split
  case h_1 => exact .refl s
  case h_2 =>
    split
    case h_1 => exact (s.cached_modCore c fun _ => ⟨_, rfl⟩).trans (State.cached_draws _ _)
    case h_2 =>
      split
      case h_1 =>
        exact (((s.cached_countWalkFrom ..).trans (State.cached_modCore _ c fun _ => ⟨_, rfl⟩)).trans (State.cached_modDie ..)).trans
          (State.cached_draws _ _)
      case h_2 => exact s.cached_countWalkFrom ..
theorem State.cached_translate (va : Word) (n : Nat) (need : Need) (kernel guard : Bool) :
    s.cached (s.translate c va n need kernel guard).1 := by
  unfold State.translate
  split
  · exact .refl s
  · split
    · exact .refl s
    · exact s.cached_lookup ..
/-- The way of a request is found by a translation, or from the state alone (R82). -/
theorem State.cached_route (r : Req) (info : Word) : s.cached (s.route c r info).1 := by
  unfold State.route
  split
  case h_1 va _ =>
    have found := s.cached_translate c va r.ty.size r.op.need r.kernel (!r.kernel)
    split
    case h_1 eq => rw [eq] at found; exact found
    case h_2 eq => rw [eq] at found; exact found
    case h_3 eq => rw [eq] at found; exact found
  case h_2 => split <;> exact .refl s
  case h_3 => exact .refl s
  case h_4 => exact .refl s

end

end Sys2Proof.Machine
end

section
/-! SUPPORT. The returns from handlers: what QCTL changes, what `uret` and `kret` check, and what they leave (R43, R78, R368 to R373, R377). -/
namespace Sys2Proof.Machine
open Sys2Proof.Safety

/-! ## What the QCTL of a frame changes -/

/-- A core with other load queues and another translation cache. -/
def Core.withQueues (x : Core) (lq : Vector (List LqEntry) 2) (vlq : Vector (List VlqEntry) 2) (tlb : List TlbEntry) : Core :=
  { x with ctl := { x.ctl with lq := lq }, vec := { x.vec with vlq := vlq }, tlb := tlb }

section
variable (x : Core) (lq : Vector (List LqEntry) 2) (vlq : Vector (List VlqEntry) 2) (tlb : List TlbEntry)

@[simp] theorem Core.withQueues_pc : (x.withQueues lq vlq tlb).ctl.pc = x.ctl.pc := rfl
@[simp] theorem Core.withQueues_f : (x.withQueues lq vlq tlb).ctl.f = x.ctl.f := rfl
@[simp] theorem Core.withQueues_kernel : (x.withQueues lq vlq tlb).ctl.kernel = x.ctl.kernel := rfl
@[simp] theorem Core.withQueues_s : (x.withQueues lq vlq tlb).ctl.s = x.ctl.s := rfl
@[simp] theorem Core.withQueues_shadow : (x.withQueues lq vlq tlb).ctl.shadow = x.ctl.shadow := rfl
@[simp] theorem Core.withQueues_vpc : (x.withQueues lq vlq tlb).vec.pc = x.vec.pc := rfl
@[simp] theorem Core.withQueues_loops : (x.withQueues lq vlq tlb).vec.loops = x.vec.loops := rfl
@[simp] theorem Core.withQueues_pend : (x.withQueues lq vlq tlb).vec.pend = x.vec.pend := rfl
@[simp] theorem Core.withQueues_now : (x.withQueues lq vlq tlb).vec.now = x.vec.now := rfl
@[simp] theorem Core.withQueues_csr : (x.withQueues lq vlq tlb).csr = x.csr := rfl

end

/-- Between two states the running core is the same one, and of core `c` the load queues and the translations it holds have changed alone. -/
structure State.requeues (c : Nat) (s t : State) : Prop where
  cur : t.cur = s.cur
  core : ∃ lq vlq tlb, t.core c = (s.core c).withQueues lq vlq tlb

section
variable {s t u : State} {c : Nat}

theorem State.requeues.refl (s : State) (c : Nat) : s.requeues c s := ⟨rfl, _, _, _, rfl⟩
theorem State.requeues.trans (h : s.requeues c t) (g : t.requeues c u) : s.requeues c u where
  cur := g.cur.trans h.cur
  core := by
    obtain ⟨_, _, _, ht⟩ := h.core
    obtain ⟨_, _, _, hu⟩ := g.core
    rw [hu, ht]
    exact ⟨_, _, _, rfl⟩
theorem State.cached.requeues (h : s.cached t) (c : Nat) : s.requeues c t where
  cur := h.cur
  core := by
    obtain ⟨_, core⟩ := h.cores c
    exact ⟨_, _, _, core⟩
/-- A request of a queue is sent, as an access or as a group load, or its fault is; only its translation reaches a core (R85, R152). -/
theorem State.requeues_issueQueued (s : State) (c d : Nat) (vec : Bool) (r : Req) (back : Back) : s.requeues c (s.issueQueued d vec r back) := by
  have sent {info : Word} {s1 : State} {o : Except Trap Route} (found : s.route d r info = (s1, o)) (a : Access) :
      s.requeues c (s1.send a) := by
    have way := (s.cached_route d r info).requeues c
    rw [found] at way
    exact ⟨way.cur, way.core⟩
  have grouped (g : GLoad) : s.requeues c (s.sendGroup g) := ⟨rfl, (State.requeues.refl s c).core⟩
  unfold State.issueQueued
  split
  case h_1 => split <;> exact grouped _
  case h_2 => split <;> exact grouped _
  all_goals
    split
    case h_1 found => exact sent found _
    case h_2 found => exact sent found _

theorem State.requeues_replayLanes (s : State) (c d : Nat) (q : Fin 2) (id lane : Nat) (ds : List (Option Datum)) (rs : List (Option Req)) :
    s.requeues c (s.replayLanes d q id lane ds rs) := by
  fun_induction State.replayLanes s d q id lane ds rs
  case case1 ds r rs s1 ih =>
    refine State.requeues.trans ?_ ih
    unfold s1
    split
    · exact State.requeues_issueQueued ..
    · exact .refl _ _
  case case2 ih => exact ih
  case case3 => exact .refl _ _

section
variable (s : State) (c : Nat) (q : Fin 2) (code : Nat)

theorem State.requeues_modCore {f : Core → Core}
    (h : ∀ x, ∃ lq vlq, f x = x.withQueues lq vlq x.tlb) :
    s.requeues c (s.modCore c f) where
  cur := rfl
  core := by
    obtain ⟨_, _, change⟩ := h (s.core c)
    rw [State.core_modCore, change]
    exact ⟨_, _, _, rfl⟩
/-- The head of a load queue is sent again, made zero, or left (R373). -/
theorem State.requeues_qctlLq : s.requeues c (s.qctlLq c q code) := by
  unfold State.qctlLq
  split
  case h_1 => exact .refl s c
  case h_2 =>
    dsimp only
    split
    · exact .refl s c
    · split
      · exact (s.requeues_modCore c fun _ => ⟨_, _, rfl⟩).trans (State.requeues_issueQueued ..)
      · split
        · exact s.requeues_modCore c fun _ => ⟨_, _, rfl⟩
        · exact .refl s c
/-- So are the lanes of the head of a vector load queue (R373). -/
theorem State.requeues_qctlVlq : s.requeues c (s.qctlVlq c q code) := by
  unfold State.qctlVlq
  split
  case h_1 => exact .refl s c
  case h_2 =>
    dsimp only
    split
    · exact (s.requeues_modCore c fun _ => ⟨_, _, rfl⟩).trans (State.requeues_replayLanes ..)
    · split
      · exact s.requeues_modCore c fun _ => ⟨_, _, rfl⟩
      · exact .refl s c
/-- The QCTL of a frame works on the load queues alone (R370, R373). -/
theorem State.requeues_applyQctl (n : Nat) : s.requeues c (s.applyQctl c n) :=
  (((s.requeues_qctlLq c 0 _).trans (State.requeues_qctlLq _ c 1 _)).trans (State.requeues_qctlVlq _ c 0 _)).trans
    (State.requeues_qctlVlq _ c 1 _)

end
end

/-! ## The return of a user-level interrupt -/

/-- The core that a user-level interrupt leaves: ACTIVE is clear and s24 to s29 are exchanged with the shadow set (R368). -/
def Core.endUli (x : Core) : Core := { x with ctl := x.ctl.swapShadow, csr := { x.csr with uie := clearBit x.csr.uie 1 } }
/-- The core that `uret` leaves for a frame at a local offset, before its QCTL: both streams are the frame's, at the level of the handler
(R368, R370). -/
def Core.userReturned (x : Core) (off : Nat) (f : Frame) : Core := x.endUli.restore off f x.endUli.ctl.kernel (x.endUli.live != [])

section
variable {s : State} {f : Frame}

/-- Two changes of a core, one after the other. -/
theorem State.modCore_modCore (s : State) (c : Nat) (f g : Core → Core) : (s.modCore c f).modCore c g = s.modCore c fun x => g (f x) :=
  s.modCore_setCore c _ g

theorem frameOff_eq (w : Word) : frameOff w = w.toNat / 64 % 2 ^ 15 * 64 := Nat.mul_mod_mul_right 64 _ (2 ^ 15)
theorem frameFits_iff (off : Nat) : frameFits off = true ↔ off + 20480 ≤ 0x1F_FFC0 := decide_eq_true_iff

/-- Outside a handler `uret` is ILLEGAL (R78). -/
theorem exec_uret_outside (h : s.me.csr.uie.getLsbD 1 = false) : exec .uret s = .next (ctlTrap .illegal s.me.ctl.offered s) := by
  show execUret s = _
  have inactive : s.me.uliActive = false := h
  simp only [execUret, inactive, require_false, error_bind]
  rfl
theorem exec_uret_inside (h : s.me.csr.uie.getLsbD 1 = true) : exec .uret s = .next (s.settleReturn (orTrap (s.returnUli s.cur))) := by
  show execUret s = _
  have inHandler : s.me.uliActive = true := h
  simp only [execUret, inHandler, require_true, ok_bind]

/-- A frame that does not fit, or that does not read as a frame, is ILLEGAL (R368, R370). -/
theorem State.returnUli_unfit (h : frameFits (frameOff s.me.csr.uframe) = false) :
    s.returnUli s.cur = .error { cause := .illegal, info := s.me.ctl.offered } := by
  have me : s.core s.cur = s.me := rfl
  simp only [State.returnUli, me, h, Bool.not_false, if_true]
theorem State.returnUli_unread (h : s.frameAt s.cur (frameOff s.me.csr.uframe) = none) :
    s.returnUli s.cur = .error { cause := .illegal, info := s.me.ctl.offered } := by
  have me : s.core s.cur = s.me := rfl
  simp only [State.returnUli, me, h, ite_self]

section
variable (fits : frameFits (frameOff s.me.csr.uframe) = true) (read : s.frameAt s.cur (frameOff s.me.csr.uframe) = some f)
include fits read

/-- A frame whose PC is not aligned is MISALIGN (R43, R370, entry 74). -/
theorem State.returnUli_misaligned (h : f.cpc.toNat % 8 ≠ 0) : s.returnUli s.cur = .error { cause := .misalign, info := f.cpc } := by
  have me : s.core s.cur = s.me := rfl
  simp only [State.returnUli, me, fits, read, h, Bool.not_true, Bool.false_eq_true, if_false, ne_eq, not_false_eq_true, if_true]
/-- Otherwise both streams stand as the frame says, ACTIVE is clear and the shadow set is exchanged back (R368, R370). -/
theorem State.returnUli_aligned (h : f.cpc.toNat % 8 = 0) :
    s.returnUli s.cur = .ok ((withMe s (s.me.userReturned (frameOff s.me.csr.uframe) f)).applyQctl s.cur f.qctl) := by
  have me : s.core s.cur = s.me := rfl
  simp only [State.returnUli, me, fits, read, h, Bool.not_true, Bool.false_eq_true, if_false, ne_eq, not_true_eq_false]
  rw [State.modCore_modCore]
  simp only [State.modCore, me, withMe, Core.userReturned, Core.endUli]

end

end

/-! ## What a core holds after a return -/

/-- The running core after the QCTL of a frame. -/
theorem State.requeues.me {s t : State} {y : Core} (h : (withMe s y).requeues s.cur t) : ∃ lq vlq tlb, t.me = y.withQueues lq vlq tlb := by
  obtain ⟨lq, vlq, tlb, core⟩ := h.core
  have me : (withMe s y).core s.cur = y := withMe_me s y
  exact ⟨lq, vlq, tlb, by rw [State.me, h.cur, withMe_cur, core, me]⟩

/-- s24 to s29 are exchanged with the shadow set, and the other registers stay (R368). -/
theorem Ctl.swapShadow_s (t : Ctl) (i : Fin 6) : t.swapShadow.s[24 + i.val]'(by omega) = t.shadow[i] := by
  simp [Ctl.swapShadow]
  omega
theorem Ctl.swapShadow_shadow (t : Ctl) (i : Fin 6) : t.swapShadow.shadow[i] = t.s[24 + i.val]'(by omega) := by
  have inside : i.val + 24 < 32 := by omega
  simp [Ctl.swapShadow, inside, Nat.add_comm]
theorem Ctl.swapShadow_others (t : Ctl) {i : Fin 32} (h : i.val < 24 ∨ 30 ≤ i.val) : t.swapShadow.s[i] = t.s[i] := by
  have outside : ¬ (24 ≤ i.val ∧ i.val < 30) := by omega
  simp [Ctl.swapShadow, outside]
theorem getLsbD_clearBit_self (w : Word) {n : Nat} (h : n < 64) : (clearBit w n).getLsbD n = false := by
  simp [clearBit, BitVec.getLsbD_ofNat, h, -BitVec.ofNat_pow]

/-- A loop level that a frame holds is the stream's again (R370). -/
theorem Core.restore_loops (x : Core) (off : Nat) {f : Frame} (kernel inHandler : Bool) {i : Fin 4} {l : Level}
    (h : f.loops[i.val]? = some l) : (x.restore off f kernel inHandler).vec.loops[i] = l := by
  simp [Core.restore, h]

section
variable (x : Core) (off : Nat) (f : Frame)

@[simp] theorem Core.userReturned_pc : (x.userReturned off f).ctl.pc = f.cpc := rfl
@[simp] theorem Core.userReturned_vpc : (x.userReturned off f).vec.pc = f.vpc &&& ~~~7 := rfl
@[simp] theorem Core.userReturned_f : (x.userReturned off f).ctl.f = f.f := rfl
@[simp] theorem Core.userReturned_kernel : (x.userReturned off f).ctl.kernel = x.ctl.kernel := by
  simp only [Core.userReturned, Core.restore, Core.endUli, Ctl.swapShadow]
@[simp] theorem Core.userReturned_uie : (x.userReturned off f).csr.uie = clearBit x.csr.uie 1 := rfl
@[simp] theorem Core.userReturned_s : (x.userReturned off f).ctl.s = x.ctl.swapShadow.s := rfl
@[simp] theorem Core.userReturned_shadow : (x.userReturned off f).ctl.shadow = x.ctl.swapShadow.shadow := rfl
theorem Core.userReturned_loops {f : Frame} {i : Fin 4} {l : Level} (h : f.loops[i.val]? = some l) :
    (x.userReturned off f).vec.loops[i] = l := Core.restore_loops _ _ _ _ h
/-- The results of the frame are in flight again, at the stream cycle that the return puts back (R372). -/
theorem Core.userReturned_pend :
    (x.userReturned off f).vec.pend = f.pending (x.vec.frames.find off) (x.userReturned off f).vec.now := rfl

end

/-- A frame that does not fit, or that does not read as a frame, is ILLEGAL at `uret` (R78, R368, R370). -/
theorem exec_uret_illegal {s : State} (h : ¬ frameFits (frameOff s.me.csr.uframe) = true ∨ s.frameAt s.cur (frameOff s.me.csr.uframe) = none) :
    exec .uret s = .next (ctlTrap .illegal s.me.ctl.offered s) := by
  cases inHandler : s.me.csr.uie.getLsbD 1 with
  | false => exact exec_uret_outside inHandler
  | true =>
    have illegal : s.returnUli s.cur = .error { cause := .illegal, info := s.me.ctl.offered } :=
      h.elim (fun unfit => State.returnUli_unfit (Bool.eq_false_of_not_eq_true unfit)) State.returnUli_unread
    rw [exec_uret_inside inHandler, illegal]
    rfl
/-- What `uret` leaves for a frame that it accepts (R368, R370). -/
theorem exec_uret_returns {s : State} {f : Frame} (inHandler : s.me.csr.uie.getLsbD 1 = true)
    (fits : frameFits (frameOff s.me.csr.uframe) = true) (read : s.frameAt s.cur (frameOff s.me.csr.uframe) = some f)
    (aligned : f.cpc.toNat % 8 = 0) : ∃ t lq vlq tlb, exec .uret s = .next t ∧
      t.me = (s.me.userReturned (frameOff s.me.csr.uframe) f).withQueues lq vlq tlb := by
  obtain ⟨lq, vlq, tlb, me⟩ := (State.requeues_applyQctl (withMe s (s.me.userReturned (frameOff s.me.csr.uframe) f)) s.cur f.qctl).me
  refine ⟨_, lq, vlq, tlb, ?_, me⟩
  rw [exec_uret_inside inHandler, State.returnUli_aligned fits read aligned]
  rfl

/-! ## The return of a kernel trap -/

/-- The core that `kret` leaves for a frame at a local offset, before its QCTL: KFRAME.BASE is back by 320, and both streams and the
level are the frame's (R368, R370). -/
def Core.kernelReturned (x : Core) (off : Nat) (f : Frame) : Core :=
  { x with csr := { x.csr with kframe := x.csr.kframe - 320 * 64 } }.restore off f f.savedK ((x.live.filter (· != off)) != [] || x.uliActive)
/-- A frame that its handler has left. -/
def Core.dropFrame (x : Core) (off : Nat) : Core := { x with live := x.live.filter (· != off) }
/-- The local offset of the frame below KFRAME.BASE. -/
def Core.lastFrame (x : Core) : Nat := frameOff x.csr.kframe - 20480
/-- Does `kret` start a context save: is the frame a watchdog's, with REQ and WDOG set (R377)? -/
def Core.savesAt (x : Core) (f : Frame) : Bool :=
  f.cause.toNat % 256 == Cause.preemptWatchdog.code && x.req && bitOf x.csr.preempt 2

theorem Core.lastFrame_eq (x : Core) : x.lastFrame = x.csr.kframe.toNat / 64 % 2 ^ 15 * 64 - 20480 :=
  congrArg (fun n => n - 20480) (frameOff_eq x.csr.kframe)
theorem Core.savesAt_iff {x : Core} {f : Frame} : x.savesAt f = true ↔
    f.cause.toNat % 256 = 30 ∧ x.csr.preempt.getLsbD 0 = true ∧ x.csr.preempt.getLsbD 2 = true := by
  simp only [Core.savesAt, Bool.and_eq_true, beq_iff_eq, and_assoc]
  rfl

section
variable {s : State} {f : Frame}

/-- At U `kret` is PRIV (R51, R78). -/
theorem exec_kret_user (h : s.me.ctl.kernel = false) : exec .kret s = .next (ctlTrap .priv s.me.ctl.offered s) := by
  show execKret s = _
  simp only [execKret, Core.needK, h, require_false, error_bind]
  rfl

section
variable (kernel : s.me.ctl.kernel = true)
include kernel

/-- It waits for the end of a kernel vector run and for the results of a stream that a handler holds (R78). -/
theorem exec_kret_waits (h : s.me.vec.run = .kernelRun ∨ (s.me.vec.run = .held ∧ s.me.vec.pend ≠ [])) :
    exec .kret s = .next (ctlHeld .other s) := by
  have waits : (!(s.me.vec.run == .kernelRun) && (s.me.vec.run != .held || s.me.vec.pend.isEmpty)) = false := by
    rcases h with run | ⟨run, pend⟩
    · rw [run]; rfl
    · rw [run, List.isEmpty_eq_false_iff.mpr pend]; rfl
  show execKret s = _
  simp only [execKret, Core.needK, kernel, waits, require_true, awaits_false, ok_bind, error_bind]
  rfl

variable (notRunning : s.me.vec.run ≠ .kernelRun) (settled : s.me.vec.run = .held → s.me.vec.pend = [])
include notRunning settled

omit kernel in
theorem kret_awaits : (!(s.me.vec.run == .kernelRun) && (s.me.vec.run != .held || s.me.vec.pend.isEmpty)) = true := by
  by_cases run : s.me.vec.run = .held
  · simp [settled run, run]
  · simp [notRunning, run]
/-- Otherwise it traps what the frame has wrong with it. -/
theorem exec_kret_traps {c : Cause} {i : Word} (h : s.returnKernel s.cur = .error { cause := c, info := i }) :
    exec .kret s = .next (ctlTrap c i s) := by
  have runs := kret_awaits notRunning settled
  show execKret s = _
  simp only [execKret, Core.needK, kernel, runs, h, orTrap, require_true, awaits_true, ok_bind, error_bind]
  rfl
/-- Or it returns, but for a watchdog's frame with REQ and WDOG set, from which it starts a context save (R78, R377). -/
theorem exec_kret_returns {t : State} (read : s.frameAt s.cur s.me.lastFrame = some f) (h : s.returnKernel s.cur = .ok t) :
    exec .kret s = .next (if s.me.savesAt f then withMe s { s.me with mode := .saving .preemptWatchdog } else t) := by
  have runs := kret_awaits notRunning settled
  have last : frameOff s.me.csr.kframe - 20480 = s.me.lastFrame := rfl
  show execKret s = _
  simp only [execKret, Core.needK, kernel, runs, last, h, orTrap, require_true, awaits_true, ok_bind, read]
  cases saves : s.me.savesAt f with
  | true =>
    have stops : (f.cause.toNat % 256 == Cause.preemptWatchdog.code && s.me.req && bitOf s.me.csr.preempt 2) = true := saves
    rw [if_pos stops]
    rfl
  | false =>
    have goes : (f.cause.toNat % 256 == Cause.preemptWatchdog.code && s.me.req && bitOf s.me.csr.preempt 2) = false := saves
    simp only [goes, Bool.false_eq_true, if_false]
    rfl

end

theorem State.returnKernel_low (h : frameOff s.me.csr.kframe < 20480) :
    s.returnKernel s.cur = .error { cause := .illegal, info := s.me.ctl.offered } := by
  have me : s.core s.cur = s.me := rfl
  simp only [State.returnKernel, me, h, if_true]

section
variable (room : ¬ frameOff s.me.csr.kframe < 20480) (read : s.frameAt s.cur s.me.lastFrame = some f)
include room read

theorem State.returnKernel_misaligned (h : f.cpc.toNat % 8 ≠ 0) : s.returnKernel s.cur = .error { cause := .misalign, info := f.cpc } := by
  have me : s.core s.cur = s.me := rfl
  have last : frameOff s.me.csr.kframe - 20480 = s.me.lastFrame := rfl
  simp only [State.returnKernel, me, last, room, read, h, if_false, ne_eq, not_false_eq_true, if_true]
/-- Otherwise both streams and the level stand as the frame below KFRAME.BASE says (R368, R370). -/
theorem State.returnKernel_aligned (h : f.cpc.toNat % 8 = 0) :
    s.returnKernel s.cur = .ok (((withMe s (s.me.kernelReturned s.me.lastFrame f)).applyQctl s.cur f.qctl).modCore s.cur
      (·.dropFrame s.me.lastFrame)) := by
  have me : s.core s.cur = s.me := rfl
  have last : frameOff s.me.csr.kframe - 20480 = s.me.lastFrame := rfl
  simp only [State.returnKernel, me, last, room, read, h, if_false, ne_eq, not_true_eq_false]
  simp only [State.resume, State.modCore_modCore]
  simp only [State.modCore, me, withMe, Core.kernelReturned, Core.dropFrame]

end

end

section
variable (x : Core) (off : Nat) (f : Frame)

@[simp] theorem Core.kernelReturned_pc : (x.kernelReturned off f).ctl.pc = f.cpc := rfl
@[simp] theorem Core.kernelReturned_vpc : (x.kernelReturned off f).vec.pc = f.vpc &&& ~~~7 := rfl
@[simp] theorem Core.kernelReturned_f : (x.kernelReturned off f).ctl.f = f.f := rfl
@[simp] theorem Core.kernelReturned_kernel : (x.kernelReturned off f).ctl.kernel = f.savedK := rfl
@[simp] theorem Core.kernelReturned_kframe : (x.kernelReturned off f).csr.kframe = x.csr.kframe - 320 * 64 := rfl
@[simp] theorem Core.kernelReturned_s : (x.kernelReturned off f).ctl.s = x.ctl.s := rfl
theorem Core.kernelReturned_loops {f : Frame} {i : Fin 4} {l : Level} (h : f.loops[i.val]? = some l) :
    (x.kernelReturned off f).vec.loops[i] = l := Core.restore_loops _ _ _ _ h
theorem Core.kernelReturned_pend :
    (x.kernelReturned off f).vec.pend = f.pending (x.vec.frames.find off) (x.kernelReturned off f).vec.now := rfl

@[simp] theorem Core.dropFrame_ctl : (x.dropFrame off).ctl = x.ctl := rfl
@[simp] theorem Core.dropFrame_vec : (x.dropFrame off).vec = x.vec := rfl
@[simp] theorem Core.dropFrame_csr : (x.dropFrame off).csr = x.csr := rfl

end

/-- The core that a return from a kernel trap leaves. -/
theorem State.kernelReturned_me (s : State) (off : Nat) (f : Frame) :
    ∃ lq vlq tlb, (((withMe s (s.me.kernelReturned off f)).applyQctl s.cur f.qctl).modCore s.cur (·.dropFrame off)).me =
      ((s.me.kernelReturned off f).withQueues lq vlq tlb).dropFrame off := by
  have requeues := State.requeues_applyQctl (withMe s (s.me.kernelReturned off f)) s.cur f.qctl
  obtain ⟨lq, vlq, tlb, me⟩ := requeues.me
  have dropped := State.me_modCore ((withMe s (s.me.kernelReturned off f)).applyQctl s.cur f.qctl) (·.dropFrame off)
  rw [requeues.cur, withMe_cur, me] at dropped
  exact ⟨lq, vlq, tlb, dropped⟩

/-- Settles O10: both returns check their frame in the same order, and leave the core that the frame describes but for the heads of its load
queues, on which QCTL works. -/
theorem returnsFromHandlers : Obligations.ReturnsFromHandlers := by
  unfold Obligations.ReturnsFromHandlers
  refine ⟨fun s f => ?user, fun s f => ?kernel⟩
  case user =>
    dsimp only
    rw [← frameOff_eq, ← frameFits_iff, ← Nat.not_le, ← frameFits_iff]
    refine ⟨?illegal, fun inHandler fits read aligned => ?returns, fun inHandler fits read misaligned => ?misalign⟩
    case illegal =>
      rintro (outside | unfit | unread)
      · exact exec_uret_outside outside
      · exact exec_uret_illegal (.inl unfit)
      · exact exec_uret_illegal (.inr unread)
    case returns =>
      obtain ⟨t, lq, vlq, tlb, run, me⟩ := exec_uret_returns inHandler fits read aligned
      refine ⟨t, run, ?_⟩
      rw [me]
      refine ⟨by simp, by simp, by simp, by simp, ?active, ?pending, fun i l h => ?loops, fun i => ?shadow, fun i h => ?others⟩
      case active => rw [Core.withQueues_csr, Core.userReturned_uie]; exact getLsbD_clearBit_self _ (by decide)
      case pending => simpa using s.me.userReturned_pend _ f
      case loops => simpa using s.me.userReturned_loops _ h
      case shadow => simpa using ⟨s.me.ctl.swapShadow_s i, s.me.ctl.swapShadow_shadow i⟩
      case others => simpa using s.me.ctl.swapShadow_others h
    case misalign =>
      rw [exec_uret_inside inHandler, State.returnUli_misaligned fits read misaligned]
      rfl
  case kernel =>
    dsimp only
    refine ⟨exec_kret_user, exec_kret_waits, fun kernel notRunning settled => ⟨?illegal, ?misalign, fun room read aligned => ?returns⟩⟩
    case illegal =>
      intro low
      exact exec_kret_traps kernel notRunning settled (State.returnKernel_low (by rw [frameOff_eq]; omega))
    case misalign =>
      intro room read misaligned
      rw [← Core.lastFrame_eq] at read
      exact exec_kret_traps kernel notRunning settled (State.returnKernel_misaligned (by rw [frameOff_eq]; omega) read misaligned)
    case returns =>
      rw [← Core.lastFrame_eq] at read ⊢
      have back := State.returnKernel_aligned (by rw [frameOff_eq]; omega) read aligned
      have run := exec_kret_returns kernel notRunning settled read back
      refine ⟨fun plain => ?back, fun saves => ?save⟩
      case save => rw [run, if_pos (Core.savesAt_iff.mpr saves)]
      case back =>
        rw [if_neg (mt Core.savesAt_iff.mp plain)] at run
        obtain ⟨lq, vlq, tlb, me⟩ := s.kernelReturned_me s.me.lastFrame f
        refine ⟨_, run, ?_⟩
        rw [me]
        refine ⟨by simp, by simp, by simp, by simp, by simp, by simp, fun i l h => ?loops, ?pending⟩
        case loops => simpa using s.me.kernelReturned_loops _ h
        case pending => simpa using s.me.kernelReturned_pend _ f

end Sys2Proof.Machine
end

section
/-! SUPPORT. Blocking loads: what goes in flight and how the stream stands until the answer, and what the answer does (R58, R82, R83, R201). -/
namespace Sys2Proof.Machine
open Sys2Proof.Safety

/-! ## A load that blocks its stream -/

/-- A control word that issues with its stream waiting at it (R83). -/
theorem ctl_block (s t : State) (h : t.cur = s.cur) : ctl s (.ok (.block t)) = .next (ctlTo t.me.ctl.pc t) := by
  simp only [ctl, State.settleCtl, ctlTo_eq, ← h]
  rfl

section
variable (s : State) (d : Fin 32) (info : Word)

/-- The answer that a load waits for: under the next number, in its register, after the least time (R46, R83). -/
def State.awaited : BlkLoad := { id := s.nextId, d := d.val, left := 4, info := info }
theorem State.startBlocking_me : (s.startBlocking d info).me = s.me.withCtl fun c => { c with blk := some (s.awaited d info) } :=
  s.me_onMe _
@[simp] theorem State.startBlocking_vec (c : Nat) : ((s.startBlocking d info).core c).vec = (s.core c).vec := by
  unfold State.startBlocking State.onMe
  by_cases h : c = s.cur
  · rw [h, State.core_modCore]; rfl
  · rw [State.core_modCore_ne _ _ _ _ h]

/-- How a stream stands whose load has gone: still at it, its registers as they were, the answer awaited (R83). -/
structure State.blocksOn (u : State) : Prop where
  pc : u.me.ctl.pc = s.me.ctl.pc
  regs : u.me.ctl.s = s.me.ctl.s
  blk : u.me.ctl.blk = some (s.awaited d info)

variable {s d info}

/-- A word that ends in a blocking load under way. -/
theorem ctl_blocksOn {s1 t : State} (way : s.cached s1) (cur : t.cur = s.cur) (me : t.me = (s1.startBlocking d info).me) :
    ∃ u, ctl s (.ok (.block t)) = .next u ∧ s.blocksOn d info u ∧ u.mem = t.mem ∧ u.flight = t.flight ∧ u.gloads = t.gloads := by
  have ctl : t.me.ctl = { s.me.ctl with blk := some (s.awaited d info) } := by
    have kept : s1.me.ctl = s.me.ctl := by rw [State.me, way.cur]; exact way.ctl s.cur
    rw [me, State.startBlocking_me, Core.withCtl, kept, State.awaited, way.nextId]
    rfl
  refine ⟨_, ctl_block s t cur, ⟨?_, ?_, ?_⟩, rfl, rfl, rfl⟩
  · rw [ctlTo_me, Core.issuedCtl_pc, ctl]
  · rw [ctlTo_me, Core.issuedCtl_s, ctl]
  · rw [ctlTo_me]; exact congrArg Ctl.blk ctl

/-! ## Translated and handle-relative loads -/

section
variable {r : Req} {s1 : State}

theorem State.blockingLoad_faults {f : Trap} (found : s.route s.cur r info = (s1, .error f)) :
    ctl s (s.blockingLoad d r info) = .next (ctlTrap f.cause f.info s) := by
  unfold State.blockingLoad
  rw [found]
  rfl
/-- A load whose checks pass goes in flight under the next number (R82, R83, R302). -/
theorem State.blockingLoad_sends {t : Route} (found : s.route s.cur r info = (s1, .ok t)) (clear : s.checkRequest r = .ok ()) :
    ∃ u, ctl s (s.blockingLoad d r info) = .next u ∧ s.blocksOn d info u ∧ u.mem = s.mem ∧
      u.flight = s.flight ++ [sentAs s (accessOf s.cur false r t .nowhere)] := by
  have way := s.cached_route s.cur r info
  rw [found] at way
  have sends : s.blockingLoad d r info = .ok (.block ((s1.startBlocking d info).send (accessOf s.cur false r t .nowhere))) := by
    unfold State.blockingLoad
    simp only [found, clear, ok_bind]
  obtain ⟨u, run, blocks, mem, flight, -⟩ := ctl_blocksOn (t := (s1.startBlocking d info).send (accessOf s.cur false r t .nowhere))
    way way.cur rfl
  refine ⟨u, (congrArg (ctl s) sends).trans run, blocks, mem.trans way.mem, flight.trans ?_⟩
  have id : (s1.startBlocking d info).nextId = s.nextId := way.nextId
  have before : (s1.startBlocking d info).flight = s.flight := way.flight
  simp only [State.send, sentAs, id, before, State.startBlocking_vec, way.vec]

end

/-! ## Group loads -/

/-- A group load whose checks pass goes in flight under the next number (R230, R238). -/
theorem ctl_sendGroup (s : State) (d : Fin 32) (info : Word) (l : GLoad) :
    ∃ u, ctl s (.ok (.block ((s.startBlocking d info).sendGroup l))) = .next u ∧ s.blocksOn d info u ∧
      u.gloads = s.gloads ++ [sentGroup s l] := by
  obtain ⟨u, run, blocks, -, -, gloads⟩ := ctl_blocksOn (t := (s.startBlocking d info).sendGroup l) (.refl s) rfl rfl
  refine ⟨u, run, blocks, gloads.trans ?_⟩
  have id : (s.startBlocking d info).nextId = s.nextId := rfl
  have before : (s.startBlocking d info).gloads = s.gloads := rfl
  simp only [State.sendGroup, sentGroup, id, before, State.startBlocking_vec]

end

/-! ## The forms of `ld` -/

/-- The alignment of an offset of 24 bits is that of the offset extended by its sign (R82). -/
theorem signExtend_mod {off : BitVec 24} {n : Nat} (h : n ∣ 2 ^ 24) : (off.signExtend 64).toNat % n = off.toNat % n := by
  have whole : off.toNat % 2 ^ 64 = off.toNat := Nat.mod_eq_of_lt (off.isLt.trans (by decide))
  have high : n ∣ 2 ^ 64 - 2 ^ 24 := h.trans (by decide)
  rw [BitVec.toNat_signExtend, BitVec.toNat_setWidth, whole]
  split
  · obtain ⟨m, hm⟩ := high
    rw [hm, Nat.add_mul_mod_self_left]
  · rfl
theorem size_dvd (sz : LdSz) : (ldTy sz).size ∣ 2 ^ 24 := by cases sz <;> decide
theorem checkAlign_ok {a : Word} {n : Nat} (h : a.toNat % n = 0) : checkAlign a n = .ok () := by
  simp only [checkAlign, h, decide_true, require_true]
theorem checkAlign_trap {a : Word} {n : Nat} (h : a.toNat % n ≠ 0) : checkAlign a n = .error (.trap { cause := .misalign, info := a }) := by
  simp only [checkAlign, h, decide_false, require_false]

section
variable {s : State} {d b : Fin 32} {h : Fin 16} {off : BitVec 24} {sz : LdSz} {ord : Ord} {base : Word}
  (ready : s.me.accessReady = true)
include ready

section
variable (read : s.me.regChecked b = .ok base)
include read

theorem exec_ld_plain (aligned : (base + off.signExtend 64).toNat % (ldTy sz).size = 0) :
    exec (.ld d (.plain b off) sz ord) s =
      ctl s (s.blockingLoad d (s.me.req? .load (.virt (base + off.signExtend 64)) (ldTy sz) ord false) 0) := by
  show execLd d (.plain b off) sz ord s = _
  simp only [execLd, read, ready, checkAlign_ok aligned, awaits_true, ok_bind]
theorem exec_ld_plain_misaligned (misaligned : (base + off.signExtend 64).toNat % (ldTy sz).size ≠ 0) :
    exec (.ld d (.plain b off) sz ord) s = .next (ctlTrap .misalign (base + off.signExtend 64) s) := by
  show execLd d (.plain b off) sz ord s = _
  simp only [execLd, read, ready, checkAlign_trap misaligned, awaits_true, ok_bind, error_bind]
  rfl
theorem exec_ld_group (aligned : (base + off.signExtend 64).toNat % (ldTy sz).size = 0) {g : Group} {x : Nat}
    (group : s.checkGroup s.cur (base + off.signExtend 64) false (ldTy sz) = .ok (g, x))
    (clear : s.checkLeaves (plainGroup s.cur false s.me.ctl.kernel g x (ldTy sz) .blocking) (base + off.signExtend 64) = .ok ()) :
    exec (.ld d (.group b off) sz ord) s =
      ctl s (.ok (.block ((s.startBlocking d 0).sendGroup (plainGroup s.cur false s.me.ctl.kernel g x (ldTy sz) .blocking)))) := by
  have request : s.checkRequest (s.me.req? .load (.group (base + off.signExtend 64)) (ldTy sz) ord false) = .ok () := by
    simp only [State.checkRequest, Core.req?, group, clear]
  show execLd d (.group b off) sz ord s = _
  simp only [execLd, read, ready, checkAlign_ok aligned, group, request, orTrap, awaits_true, ok_bind]

end

variable (aligned : off.toNat % (ldTy sz).size = 0)
include aligned

theorem exec_ld_handle (single : ∀ g, s.me.ctl.h[h] ≠ .gsee g) :
    exec (.ld d (.handle h off) sz ord) s =
      ctl s (s.blockingLoad d (s.me.req? .load (.tile s.me.ctl.h[h] off.toInt) (ldTy sz) ord false) (handleInfo h)) := by
  have offset := checkAlign_ok ((signExtend_mod (size_dvd sz)).trans aligned)
  show execLd d (.handle h off) sz ord s = _
  cases held : s.me.ctl.h[h] with
  | gsee g => exact absurd held (single g)
  | null => simp only [execLd, ready, offset, held, awaits_true, ok_bind]
  | fill t => simp only [execLd, ready, offset, held, awaits_true, ok_bind]
  | see t => simp only [execLd, ready, offset, held, awaits_true, ok_bind]
theorem exec_ld_gsee {g : GSee} {l : GLoad} (held : s.me.ctl.h[h] = .gsee g)
    (see : s.seeGroup s.cur s.me.ctl.kernel g off.toInt (ldTy sz) .blocking (handleInfo h) = .ok l)
    (clear : s.checkLeaves l (off.signExtend 64) = .ok ()) :
    exec (.ld d (.handle h off) sz ord) s = ctl s (.ok (.block ((s.startBlocking d (handleInfo h)).sendGroup l))) := by
  have offset := checkAlign_ok ((signExtend_mod (size_dvd sz)).trans aligned)
  show execLd d (.handle h off) sz ord s = _
  simp only [execLd, ready, offset, held, see, clear, orTrap, awaits_true, ok_bind]

end

/-! ## The answer -/

section
variable {s s1 : State} {c k : Nat} {x : BlkLoad} {a : Access} {r : Result}

/-- Once its access can be performed, a blocking load ends with what came back (R83). -/
theorem exec_blockingLoadReturn (blk : (s.core c).ctl.blk = some x) (due : x.left = 0) (place : s.findAccess x.id = some k)
    (flight : s.flight[k]? = some a) (awake : a.parked = false) (may : s.mayPerform k a = true) (home : s.performHome a = (s1, .done r)) :
    exec (.blockingLoadReturn c) s = .next (State.endBlocking { s1 with flight := dropNth s1.flight k } c x r.datum) := by
  show execBlockingLoadReturn c s = _
  simp only [execBlockingLoadReturn, blk, due, place, flight, awake, may, home]
  rfl

/-- The core after a blocking load whose datum has come: the next word follows (R83). -/
def Core.loaded (y : Core) (f : Core → Core) : Core := (f (y.withCtl fun t => { t with blk := none })).issuedCtl (y.ctl.pc + 8)
theorem State.endBlocking_value (s : State) (c : Nat) (x : BlkLoad) (v : Word) : s.endBlocking c x (.value v) =
    s.modCore c fun y => y.loaded fun z => z.putReg (Fin.ofNat 32 x.d) v 1 := rfl
/-- Poison goes into the register (R201). -/
theorem State.endBlocking_poison (s : State) (c : Nat) (x : BlkLoad) (va : Word) : s.endBlocking c x (.poison va) =
    s.modCore c fun y => y.loaded fun z => (z.putReg (Fin.ofNat 32 x.d) 0 1).withCtl fun t => t.poisonReg (Fin.ofNat 32 x.d) va := rfl
/-- A fault is taken at the load; those that name a handle name it by its register (R58, R362). -/
theorem State.endBlocking_fault (s : State) (c : Nat) (x : BlkLoad) {f : Trap} (tile : f.cause ≠ .poisonedTile) (park : f.cause ≠ .selfPark)
    (write : f.cause ≠ .writeViaSee) (handle : f.cause ≠ .badHandle) : s.endBlocking c x (.fault f) = s.take c (.sync f false) := by
  unfold State.endBlocking
  dsimp only
  split
  case h_1 is => exact absurd is tile
  case h_2 is => exact absurd is park
  case h_3 is => exact absurd is write
  case h_4 is => exact absurd is handle
  case h_5 => rfl

section
variable (y : Core) (reg : Fin 32) (v va : Word)

theorem Core.loaded_value : (y.loaded (·.putReg reg v 1)).ctl.pc = y.ctl.pc + 8 ∧ (y.loaded (·.putReg reg v 1)).ctl.blk = none ∧
    (y.loaded (·.putReg reg v 1)).ctl.s = (y.ctl.setReg reg v).s := by
  refine ⟨rfl, ?_, ?_⟩
  · simp only [Core.loaded, Core.issuedCtl, Core.putReg, Core.withCtl, Ctl.setReg]
    split <;> rfl
  · simp only [Core.loaded, Core.issuedCtl, Core.putReg, Core.withCtl, Ctl.setReg]
    split <;> rfl
theorem Core.loaded_poison (h : reg ≠ 0) :
    (y.loaded fun z => (z.putReg reg 0 1).withCtl fun t => t.poisonReg reg va).ctl.poison[reg] = some va := by
  simp [Core.loaded, Core.issuedCtl, Core.withCtl, Ctl.poisonReg, h]

end

end

/-- Settles O14: each form that passes its checks ends in a load under way, as the lemmas above state it, and the answer ends it. -/
theorem blockingLoads : Obligations.BlockingLoads := by
  unfold Obligations.BlockingLoads
  intro s d b h off sz ord base ready va n sent
  have size : n = (ldTy sz).size := by cases sz <;> rfl
  have sends {addr : MemAddr} {a : ReqAddr} {info : Word}
      (run : exec (.ld d addr sz ord) s = ctl s (s.blockingLoad d (s.me.req? .load a (ldTy sz) ord false) info)) : sent addr a info := by
    refine ⟨fun s1 f found => run.trans (State.blockingLoad_faults found), fun s1 t found clear => ?_⟩
    obtain ⟨u, issued, blocks, mem, flight⟩ := State.blockingLoad_sends (d := d) found clear
    exact ⟨u, run.trans issued, blocks.pc, mem, blocks.regs, blocks.blk, flight⟩
  rw [size]
  refine ⟨fun read aligned => sends (exec_ld_plain ready read aligned), fun read => exec_ld_plain_misaligned ready read,
    fun aligned single => sends (exec_ld_handle ready aligned single), fun read aligned g x group clear => ?group,
    fun aligned g l held see clear => ?gsee, fun c k x a s1 r blk due place flight awake may home => ?answer⟩
  case group =>
    obtain ⟨u, run, blocks, gloads⟩ := ctl_sendGroup s d 0 (plainGroup s.cur false s.me.ctl.kernel g x (ldTy sz) .blocking)
    exact ⟨u, (exec_ld_group ready read aligned group clear).trans run, blocks.pc, blocks.blk, gloads⟩
  case gsee =>
    obtain ⟨u, run, blocks, gloads⟩ := ctl_sendGroup s d (handleInfo h) l
    exact ⟨u, (exec_ld_gsee ready aligned held see clear).trans run, blocks.pc, blocks.blk, gloads⟩
  case answer =>
    rw [exec_blockingLoadReturn blk due place flight awake may home]
    refine ⟨fun v datum => ?value, fun va datum => ?poison, fun f datum tile park write handle => ?fault⟩
    case value =>
      rw [datum, State.endBlocking_value]
      refine ⟨_, rfl, ?_⟩
      rw [State.core_modCore]
      obtain ⟨pc, ended, regs⟩ := Core.loaded_value (s1.core c) (Fin.ofNat 32 x.d) v
      exact ⟨pc, ended, rfl, regs⟩
    case poison =>
      rw [datum, State.endBlocking_poison]
      refine ⟨_, rfl, ?_⟩
      rw [State.core_modCore]
      exact ⟨rfl, Core.loaded_poison (s1.core c) _ va⟩
    case fault => rw [datum, State.endBlocking_fault _ c x tile park write handle]

end Sys2Proof.Machine
end

section
/-! SUPPORT. QUEUE_STALL, freezes and uncorrectable errors: what each event does to its core and to memory (R47, R48, R103, R199, R201). -/
namespace Sys2Proof.Machine
open Sys2Proof.Safety

/-! ## Queue stalls -/

section
variable (s : State) (c : Nat)

/-- A stream's QUEUE_STALL is taken, and the cycle of its core comes to its end. -/
def State.stallTaken (code : Nat) (v : Bool) : State :=
  (s.take c (.sync { cause := .queueStall, info := BitVec.ofNat 64 code } v)).modCore c fun y => { y with phase := .tick }
/-- The code of the queue on which a stream has stalled, of several that of the first operand (R48, entry 119). -/
def stallCode (w : Option Wait) (n : Tab Nat) : Option Nat := (waitOps w).find? fun k => decide (2 ^ 20 < (n.find k).getD 0)
theorem stallTrap_eq (w : Option Wait) (n : Tab Nat) : stallTrap w n =
    (stallCode w n).map fun code => { cause := .queueStall, info := BitVec.ofNat 64 code } := rfl

variable {s c}

/-- A word past its commit point, or a NANTRAP to take, comes before every stall (R260, R363). -/
theorem exec_queueStall_past (h : (s.core c).ctl.past = true ∨ (s.core c).ctl.nan ≠ none) : exec (.queueStall c) s = .next s := by
  have first : ((s.core c).ctl.past || (s.core c).ctl.nan.isSome) = true := by
    simpa [Option.isSome_iff_ne_none] using h
  show execQueueStall c s = _
  unfold execQueueStall
  simp only [first, if_true, ite_self]

section
variable (phase : (s.core c).phase = .offer) (running : (s.core c).running = true) (past : (s.core c).ctl.past = false)
  (nan : (s.core c).ctl.nan = none)
include phase running past nan

/-- Where nothing comes before it, a stall of the control stream is taken before one of the vector stream, and that is left to the
offers of the cycle while the control stream has a word of its own (R48, R103, R363). -/
theorem exec_queueStall :
    exec (.queueStall c) s = .next (match stallCode (s.core c).ctl.wait (s.core c).ctl.qcnt,
        stallCode (s.core c).vec.wait (s.core c).vec.qcnt with
      | some code, _ => s.stallTaken c code false
      | none, some code =>
        if (s.core c).ctl.running = true ∧ (s.core c).ctl.blk = none then s else s.stallTaken c code true
      | none, none => s) := by
  show execQueueStall c s = _
  unfold execQueueStall
  simp only [phase, running, past, nan, stallTrap_eq]
  cases stallCode (s.core c).ctl.wait (s.core c).ctl.qcnt <;> cases stallCode (s.core c).vec.wait (s.core c).vec.qcnt <;>
    simp [State.stallTaken]
end

end

/-! ## Freezes -/

section
variable (x : Core)

/-- A correction freezes its core for 16 cycles more, unless one has done so in this cycle (R199). -/
theorem Core.correct_freeze : x.correct.freeze = if x.corrected = true then x.freeze else x.freeze + 16 := by
  unfold Core.correct; split <;> rfl
theorem Core.correct_corrected : x.correct.corrected = true := by
  unfold Core.correct
  split
  case isTrue once => exact once
  case isFalse => rfl
@[simp] theorem Core.correct_ctl : x.correct.ctl = x.ctl := by unfold Core.correct; split <;> rfl

end

section
variable (s : State) (c : Nat)

@[simp] theorem State.modHamlet_mem (p h : Nat) (g : Hamlet → Hamlet) : (s.modHamlet p h g).mem = s.mem := s.modPkg_mem p _
@[simp] theorem State.modHamlet_poison (p h : Nat) (g : Hamlet → Hamlet) : (s.modHamlet p h g).poison = s.poison :=
  (sameBytes_modPkg s p _).2.1
@[simp] theorem State.modHamlet_core (p h : Nat) (g : Hamlet → Hamlet) (d : Nat) : (s.modHamlet p h g).core d = s.core d := by
  simp [State.core, State.modHamlet]

/-- The corrections of one cycle correct their core once, and change no byte (R199). -/
theorem exec_correctableErrorFreeze : ∃ t, exec (.correctableErrorFreeze c) s = .next t ∧ t.core c = (s.core c).correct ∧ t.mem = s.mem := by
  refine ⟨_, rfl, ?_, by simp⟩
  rw [State.modHamlet_core, State.core_modCore]
  rfl

variable {s c}
theorem exec_freezeEnd_last (h : (s.core c).freeze = 1) : exec (.freezeEnd c) s = .next (s.modCore c fun x => x.frozenCycle c) :=
  congrArg Host.Outcome.next (if_pos h)
theorem exec_freezeEnd_early (h : (s.core c).freeze ≠ 1) : exec (.freezeEnd c) s = .next s :=
  congrArg Host.Outcome.next (if_neg h)

end

/-! ## Uncorrectable errors -/

/-- The start of a granule lies below a multiple of its size where what it holds does. -/
theorem div_mul_lt_iff {o d b : Nat} (h : d ∣ b) : o / d * d < b ↔ o < b := by
  obtain ⟨m, rfl⟩ := h
  refine ⟨fun lt => ?_, (Nat.div_mul_le_self o d).trans_lt⟩
  rw [Nat.mul_comm] at lt
  have pos : 0 < d := Nat.pos_of_ne_zero fun zero => by simp [zero] at lt
  rw [Nat.mul_comm d m, ← Nat.div_lt_iff_lt_mul pos]
  exact Nat.lt_of_mul_lt_mul_left lt

section
variable (s : State) (k : Nat)

/-- A region holds whole granules: those of the scratchpads have 8 bytes, all others 64 (R186, R199). -/
theorem regionOf_granule {d : Nat} (h : d = 8 ∨ d = 64) (o : Nat) : regionOf (o / d * d) = regionOf o := by
  rcases h with rfl | rfl
  · simp (disch := decide) only [regionOf, div_mul_lt_iff]
  · simp (disch := decide) only [regionOf, div_mul_lt_iff]
theorem granuleSize_eq : granuleSize k = 8 ∨ granuleSize k = 64 := by
  unfold granuleSize
  split
  · exact .inl rfl
  · exact .inr rfl
/-- The granule of a byte starts in the byte's region, and has its size. -/
theorem granuleSize_granuleOf : granuleSize (granuleOf k) = granuleSize k := by
  have start : granuleOf k % nodeSize = k % nodeSize / granuleSize k * granuleSize k := by
    unfold granuleOf nodeSize
    rcases granuleSize_eq k with h | h
    · rw [h]; omega
    · rw [h]; omega
  have region : regionOf (granuleOf k % nodeSize) = regionOf (k % nodeSize) := by
    rw [start]; exact regionOf_granule (granuleSize_eq k) _
  unfold granuleSize
  rw [region]

/-- A byte whose granule is listed is poisoned. -/
theorem State.poisoned_of_mem (h : granuleOf k ∈ s.poison) : s.poisoned k 1 = true := by
  unfold State.poisoned State.poisonAt
  rw [List.find?_isSome]
  refine ⟨_, h, ?_⟩
  rw [decide_eq_true_eq, granuleSize_granuleOf]
  unfold granuleOf
  rcases granuleSize_eq k with h | h
  · rw [h]; omega
  · rw [h]; omega
theorem State.mem_poisonGranule : granuleOf k ∈ (s.poisonGranule k).poison := by
  unfold State.poisonGranule
  split
  case isTrue there => simpa using there
  case isFalse => exact List.mem_cons_self
@[simp] theorem State.poisonGranule_mem : (s.poisonGranule k).mem = s.mem := by unfold State.poisonGranule; split <;> rfl
/-- A granule that breaks is poisoned, and keeps its bytes (R201). -/
@[simp] theorem State.breakGranule_mem : (s.breakGranule k).mem = s.mem := by
  unfold State.breakGranule
  dsimp only
  split
  · rw [State.modHamlet_mem, State.poisonGranule_mem]
  · exact s.poisonGranule_mem k
theorem State.breakGranule_poisoned : (s.breakGranule k).poisoned k 1 = true := by
  apply State.poisoned_of_mem
  unfold State.breakGranule
  dsimp only
  split
  · rw [State.modHamlet_poison]; exact s.mem_poisonGranule k
  · exact s.mem_poisonGranule k
/-- An uncorrectable error breaks the granule of its byte, once the corrections of its window have had their effect on the rail. -/
theorem exec_uncorrectableError (p : Nat) (pa : BitVec 44) :
    ∃ t : State, exec (.uncorrectableError p pa) s = .next (t.breakGranule (key p pa.toNat)) ∧ t.mem = s.mem := by
  refine ⟨_, rfl, ?_⟩
  split
  · simp
  · rfl

end

/-- Settles O41: each clause is the effect of one event. -/
theorem coreEvents : Obligations.CoreEvents := by
  unfold Obligations.CoreEvents
  intro s c x ops stalled trap
  have code (w : Option Wait) (n : Tab Nat) : stalled w n = stallCode w n := rfl
  refine ⟨fun phase running past nan => ?stalls, exec_queueStall_past, ?freeze, ?last, ?goesOn, ?error⟩
  case stalls =>
    intro k
    rw [code, code, exec_queueStall phase running past nan]
    refine ⟨fun ctl => ?_, fun ctl vec => ?_, fun ctl vec => ?_⟩
    · rw [ctl]; rfl
    · rw [ctl, vec]; exact apply_ite ..
    · rw [ctl, vec]
  case freeze =>
    obtain ⟨t, run, core, mem⟩ := exec_correctableErrorFreeze s c
    refine ⟨t, run, ?_, ?_, mem, ?_⟩
    · rw [core]; exact Core.correct_freeze _
    · rw [core]; exact Core.correct_corrected _
    · rw [core]; exact Core.correct_ctl _
  case last =>
    intro last
    have core := s.core_modCore c fun x => x.frozenCycle c
    refine ⟨_, exec_freezeEnd_last last, ?_, rfl, ?_, ?_, ?_⟩
    · rw [core]; exact Nat.sub_eq_zero_of_le last.le
    · rw [core]; rfl
    · rw [core]; rfl
    · rw [core]; rfl
  case goesOn => exact exec_freezeEnd_early
  case error =>
    intro p pa
    obtain ⟨t, run, mem⟩ := exec_uncorrectableError s p pa
    exact ⟨_, run, (t.breakGranule_mem _).trans mem, t.breakGranule_poisoned _⟩

end Sys2Proof.Machine
end

section
/-! SUPPORT. What the machine holds after reset (R53, R182, R311, R408). -/
namespace Sys2Proof.Machine
open Sys2Proof.Safety

/-- Every package reads as a reset one: the one that is there, and those that are not. -/
theorem State.reset_pkg (p : Nat) : State.reset.pkg p = .reset := by
  by_cases h : 0 = p
  · subst h; rfl
  · simp [State.pkg, State.pkg?, State.reset, Tab.find, h]
/-- The power settings after reset keep to R408. -/
theorem Pkg.reset_powerWf : powerWf .reset := by unfold powerWf; decide

/-- The numbers of the CSRs that R53 gives the reset 0, but for MEMFLAGS, which is the partition's. -/
def resetZero : List Nat :=
  [0x040, 0x400, 0x402, 0x403, 0x810] ++ List.range' 0x001 6 ++ List.range' 0x010 16 ++ List.range' 0x020 6 ++ List.range' 0x030 8 ++
    List.range' 0x410 6 ++ List.range' 0x418 6 ++ List.range' 0x420 3 ++ List.range' 0x430 3 ++ List.range' 0x800 9
/-- A CSR of the core's own is one of a numbered family or a plain one (R53). -/
theorem State.csrGet_own (s : State) (c : Nat) {n : Nat} (core : n ≠ 0x401) (memflags : n ≠ 0x809) :
    s.csrGet c n = ((s.core c).csr.family n).or ((s.core c).csr.get n) := by
  unfold State.csrGet
  rw [if_neg core, if_neg memflags]
  cases (s.core c).csr.family n <;> rfl
theorem Csrs.reset_reads_zero :
    ∀ n ∈ resetZero, n ≠ 0x401 ∧ n ≠ 0x809 ∧ (Csrs.reset.family n).or (Csrs.reset.get n) = some 0 := by decide
theorem State.reset_csrGet (c : Nat) {n : Nat} (h : n ∈ resetZero) : State.reset.csrGet c n = some 0 := by
  obtain ⟨core, memflags, zero⟩ := Csrs.reset_reads_zero n h
  exact (State.reset.csrGet_own c core memflags).trans zero

/-- Settles O56: each part is read off the reset state. -/
theorem resetState : Obligations.ResetState := by
  unfold Obligations.ResetState
  refine ⟨State.reset_mem_wf, rfl, fun p => ?power, fun c n h => State.reset_csrGet c ?listed, fun p => ?settings⟩
  case power => rw [State.reset_pkg]; exact Pkg.reset_powerWf
  case listed =>
    simp only [List.mem_cons, List.not_mem_nil, or_false] at h
    simp only [resetZero, List.mem_append, List.mem_cons, List.not_mem_nil, or_false, List.mem_range'_1]
    omega
  case settings =>
    rw [State.reset_pkg]
    exact ⟨rfl, by decide⟩

end Sys2Proof.Machine
end

section
/-! SUPPORT. A CSR word in the cycle in which hardware merges a bit into FSR (R52, R77, R117): what `csrs` returns there. -/
namespace Sys2Proof.Machine

/-- A core in whose cycle a result has just merged NX into FSR, which was clear before (R117). -/
def mergedNx : Core := { Core.reset with csr := { Csrs.reset with fsr := 1 }, landed := 1, fresh := 1 }
/-- The machine whose core 0 is that one. -/
def mergedNxState : State := { State.reset with cores := [(0, mergedNx)] }

/-- `csrs` of FSR acts before the merges of its cycle: it returns 0, where FSR reads 1. -/
theorem exec_csrs_mergedNx : mergedNxState.csrGet 0 0x001 = some 1 ∧
    ∃ t, exec (.csrs 1 0x001 (.reg 0)) mergedNxState = .next t ∧ t.me.ctl.s[(1 : Fin 32)] = 0 := ⟨rfl, _, rfl, rfl⟩

/-- Refutes O11: of a CSR that reads `old` the first clause has `csrs` return `old`, but in a cycle in which a result has merged NX into
FSR, `csrs` returns FSR as it was before that merge. -/
theorem not_csrAccess : ¬ Obligations.CsrAccess := by
  unfold Obligations.CsrAccess
  intro h
  obtain ⟨words, -, -⟩ := h
  obtain ⟨reads, t, run, before⟩ := exec_csrs_mergedNx
  obtain ⟨-, writes⟩ := words mergedNxState 0x001 1 (.inl (by decide)) reads
  obtain ⟨-, sets⟩ := writes (.inl (by decide)) (.reg 0) 0 mergedNx rfl
  obtain ⟨returnsOld, -⟩ := sets 1
  rw [run] at returnsOld
  cases returnsOld
  exact absurd before (by decide)

end Sys2Proof.Machine
end

section
/-! SUPPORT. A local load in a core that holds a result which waits under the load's own number (R46, R50): which register its datum goes to. -/
namespace Sys2Proof.Machine

/-- A core that has made no local access yet, and whose s2 waits for the datum of local access 0. -/
def waitsForNext : Core := { Core.reset with ctl := { Ctl.reset with busy := [{ reg := 2, left := 4, waits := some 0 }] } }
/-- The machine whose core 0 is that one, with 1 in the first byte of its scratchpad. -/
def waitsForNextState : State := { State.reset with cores := [(0, waitsForNext)], mem := [(spadKey 0 0, 1)] }

/-- A load of that byte into s1, which issues as access 0, gives its datum to s2, the first register that waits for it, and not to s1. -/
theorem exec_ld_waitsForNext : ∃ t, exec (.ld 1 (.loc 0 0) .bu .plain) waitsForNextState = .next t ∧
    t.me.ctl.s[(1 : Fin 32)] = 0 ∧ t.me.ctl.s[(2 : Fin 32)] = 1 := ⟨_, rfl, rfl, rfl⟩

/-- Refutes O13: its hypotheses do not say that no register waits for the number that the load is about to take. In a state where one
does, the load writes that register, which the first clause has unchanged. -/
theorem not_localAccesses : ¬ Obligations.LocalAccesses := by
  unfold Obligations.LocalAccesses
  intro h
  obtain ⟨loads, -, -⟩ := h
  obtain ⟨⟨-, -, issues⟩, -, -⟩ := loads waitsForNextState 1 0 0 .bu .plain 0 rfl rfl rfl
  obtain ⟨t, run, -, -, -, -, -, others, -⟩ := issues rfl (by decide) (.inr rfl) rfl (fun h => absurd rfl h)
  obtain ⟨u, ran, -, moved⟩ := exec_ld_waitsForNext
  rw [run] at ran
  cases ran
  have kept := others 2 (by decide) (.inr rfl)
  rw [moved] at kept
  exact absurd kept (by decide)

end Sys2Proof.Machine
end

section
/-! SUPPORT. Lane-by-lane words, comparisons and selections of the vector stream: what each leaves in flight once its checks pass (R130,
R135 to R140). -/
namespace Sys2Proof.Machine
open Sys2Proof.Safety

/-! ## Poison -/

section
variable {x : Core}

/-- No UE: no lane of a source on which the result depends is poisoned (R130). -/
theorem Core.checkNeeds_eq_ok_iff {l : List (Fin 32 × Mask)} :
    x.checkNeeds l = .ok () ↔ ∀ i, i < 64 → ∀ n ∈ l, active (x.vec.poison[n.1] &&& n.2) i = false := by
  have sound : ((upto 64).findSome? fun i => (x.vec.poisonedAt l i).map fun r => (r, i)) = none ↔
      ∀ i, i < 64 → ∀ n ∈ l, active (x.vec.poison[n.1] &&& n.2) i = false := by
    simp [upto, Vec.poisonedAt]
  rw [← sound, Core.checkNeeds]
  split
  · next found => simp [found, trapOf]
  · next clear => simp [clear]

/-- The needs of two registers, checked one by one. -/
theorem Core.checkNeeds_pair {a b : Fin 32} {m n : Mask} (ha : x.checkUe a m = .ok ()) (hb : x.checkUe b n = .ok ()) :
    x.checkNeeds [(a, m), (b, n)] = .ok () := by
  simp only [Core.checkUe, Core.checkNeeds_eq_ok_iff, List.forall_mem_singleton] at ha hb
  simp only [Core.checkNeeds_eq_ok_iff, List.forall_mem_cons]
  exact fun i hi => ⟨ha i hi, hb i hi, by simp⟩

/-- Registers without poison may be named, whatever lanes of them the result depends on. -/
theorem Core.checkNeeds_sound {l : List (Fin 32 × Mask)} (sound : ∀ n ∈ l, x.vec.poison[n.1] = 0) : x.checkNeeds l = .ok () :=
  Core.checkNeeds_eq_ok_iff.mpr fun i _ n hn => by simp [sound n hn, active]

end

/-! ## Lane-by-lane words -/

section
variable {s : State}

/-- A word whose lane results are put in flight (R89). -/
theorem vec_putV (d : Fin 32) (k : Fin 8) (ty : Ty) (lat : Nat) (f : Nat → Lane) :
    vec s (.ok (.go (s.setCore s.cur (s.me.putV d lat ty (s.me.vec.mask k) f)))) = .next (lanesTo s d k ty lat f) :=
  vec_go s _ rfl

/-- A lane-by-lane word that may read its registers (R102, R130). -/
theorem vec_lanewise {d : Fin 32} {srcs : List (Fin 32)} {k : Fin 8} (h : readable s d srcs k) (ty : Ty) (lat : Nat) (f : Nat → Lane) :
    vec s (s.lanewise d srcs k ty lat f) = .next (lanesTo s d k ty lat f) := by
  obtain ⟨lent, ues⟩ := h
  simp only [State.lanewise, lent, ues, ok_bind, vec_putV]

/-- A selection depends on a where the selecting mask is set, on b elsewhere (R139). -/
theorem exec_vsel {d a b : Fin 32} {c k : Fin 8} (lent : s.me.checkLent [d, a, b] = .ok ())
    (ha : s.me.checkUe a (s.me.vec.mask k &&& s.me.vec.mask c) = .ok ())
    (hb : s.me.checkUe b (s.me.vec.mask k &&& ~~~s.me.vec.mask c) = .ok ()) :
    exec (.vsel d a b c k) s = .next (lanesTo s d k .u64 2 fun i =>
      plainLane (if active (s.me.vec.mask c) i then s.me.vec.lane a i else s.me.vec.lane b i)) := by
  have needs : s.me.checkNeeds [(a, selected (s.me.vec.mask k) (s.me.vec.mask c) true),
      (b, selected (s.me.vec.mask k) (s.me.vec.mask c) false)] = .ok () := Core.checkNeeds_pair ha hb
  change execVsel d a b c k s = _
  simp only [execVsel, lent, needs, ok_bind, vec_putV]

/-- A piecewise-linear word whose tables and argument hold no poison (R140). -/
theorem exec_vpwl {o : Vvvv} (lent : s.me.checkLent [o.d, o.a, o.b, o.c, o.c + 1] = .ok ())
    (sound : ∀ r ∈ [o.a, o.b, o.c, o.c + 1], s.me.vec.poison[r] = 0) :
    exec (.vpwl o) s = .next (lanesTo s o.d o.k o.ty 6 fun i =>
      pwlLane o.ty s.me.rm (s.me.vec.lane o.b) (s.me.vec.lane o.c) (s.me.vec.lane (o.c + 1)) (s.me.vec.lane o.a i)) := by
  have needs (m t c0 c1 : Mask) : s.me.checkNeeds [(o.a, m), (o.b, t), (o.c, c0), (o.c + 1, c1)] = .ok () :=
    Core.checkNeeds_sound (by simpa using sound)
  change execVpwl o s = _
  simp only [execVpwl, lent, needs, ok_bind, vec_putV]

end

/-! ## Comparisons -/

/-- The mask that a list of outcomes makes up, the first outcome lowest. -/
def outcomeBits (l : List (Bool × Fl)) : Mask := l.foldr (fun (b : Bool × Fl) acc => (acc <<< 1) ||| (if b.1 then 1 else 0)) 0
/-- The flags that a list of outcomes sets (R117). -/
def outcomeFlags (l : List (Bool × Fl)) : Fl := l.foldl (fun a b => a ||| b.2) 0

theorem outcomeBits_cons (b : Bool × Fl) (l : List (Bool × Fl)) :
    outcomeBits (b :: l) = (outcomeBits l <<< 1) ||| (if b.1 then 1 else 0) := rfl

theorem getLsbD_outcomeBits (l : List (Bool × Fl)) {n : Nat} (hn : n < 64) :
    (outcomeBits l).getLsbD n = (l[n]?.map (·.1)).getD false := by
  induction l generalizing n with
  | nil => simp [outcomeBits]
  | cons b r ih =>
    rw [outcomeBits_cons]
    cases n with
    | zero => cases h : b.1 <;> simp [h]
    | succ n =>
      have above : (if b.1 = true then 1 else 0 : Mask).getLsbD (n + 1) = false := by split <;> simp
      rw [BitVec.getLsbD_or, above, BitVec.getLsbD_shiftLeft, Nat.add_sub_cancel, ih (Nat.lt_of_succ_lt hn)]
      simp [hn]

theorem getLsbD_outcomeFlags (l : List (Bool × Fl)) (j : Nat) :
    (outcomeFlags l).getLsbD j = true ↔ ∃ b ∈ l, b.2.getLsbD j = true := by
  have from_ (f : Fl) : (l.foldl (fun a b => a ||| b.2) f).getLsbD j = true ↔ f.getLsbD j = true ∨ ∃ b ∈ l, b.2.getLsbD j = true := by
    induction l generalizing f with
    | nil => simp
    | cons b r ih => simp [ih, or_assoc]
  exact (from_ 0).trans (by simp)

section
variable {s : State} {o : Vcmp}

/-- The outcome of a comparison in a lane: its bit and its flags; a masked-off lane has neither (R99, R136). -/
def State.outcome (s : State) (o : Vcmp) (c : Cond) (i : Nat) : Bool × Fl :=
  if active (s.me.vec.mask o.k) i then laneCmp c o.ty (s.me.vec.lane o.a i) (s.me.vec.lane o.b i) else (false, 0)

/-- The outcomes of a comparison, lane by lane. -/
def State.outcomes (s : State) (o : Vcmp) (c : Cond) : List (Bool × Fl) := (upto 64).map (s.outcome o c)

theorem State.outcome_fst (c : Cond) (n : Nat) : (s.outcome o c n).1 =
    (active (s.me.vec.mask o.k) n && (laneCmp c o.ty (s.me.vec.lane o.a n) (s.me.vec.lane o.b n)).1) := by
  cases on : active (s.me.vec.mask o.k) n <;> simp [State.outcome, on]
theorem State.outcome_snd (c : Cond) (n j : Nat) : (s.outcome o c n).2.getLsbD j = true ↔ active (s.me.vec.mask o.k) n = true ∧
    (laneCmp c o.ty (s.me.vec.lane o.a n) (s.me.vec.lane o.b n)).2.getLsbD j = true := by
  cases on : active (s.me.vec.mask o.k) n <;> simp [State.outcome, on]

theorem State.getElem?_outcomes (c : Cond) {n : Nat} (hn : n < 64) : (s.outcomes o c)[n]? = some (s.outcome o c n) := by
  simp [State.outcomes, upto, hn]
theorem State.mem_outcomes {c : Cond} {b : Bool × Fl} : b ∈ s.outcomes o c ↔ ∃ n, n < 64 ∧ s.outcome o c n = b := by
  simp [State.outcomes, upto]

/-- A comparison that may read its registers puts the outcomes of its active lanes in flight to its mask (R102, R130, R136). -/
theorem State.vCompare_issues (lent : s.me.checkLent [o.a, o.b] = .ok ())
    (ues : s.me.checkUes (s.me.vec.mask o.k) [o.a, o.b] = .ok ()) (c : Cond) :
    ∃ (bits : Mask) (fl : Fl), s.vCompare o c = .next (vecNext (withMe s (s.me.putK o.d 2 (s.me.vec.mask o.k) bits fl))) ∧
      (∀ n, n < 64 → bits.getLsbD n =
        (active (s.me.vec.mask o.k) n && (laneCmp c o.ty (s.me.vec.lane o.a n) (s.me.vec.lane o.b n)).1)) ∧
      ∀ j, fl.getLsbD j = true ↔ ∃ n, n < 64 ∧ active (s.me.vec.mask o.k) n = true ∧
        (laneCmp c o.ty (s.me.vec.lane o.a n) (s.me.vec.lane o.b n)).2.getLsbD j = true := by
  refine ⟨outcomeBits (s.outcomes o c), outcomeFlags (s.outcomes o c), ?issues, fun n hn => ?bits, fun j => ?flags⟩
  case issues =>
    simp only [State.vCompare, lent, ues, ok_bind]
    exact vec_go s _ rfl
  case bits =>
    rw [getLsbD_outcomeBits _ hn, State.getElem?_outcomes c hn]
    exact State.outcome_fst c n
  case flags => simp [getLsbD_outcomeFlags, State.mem_outcomes, State.outcome_snd]

end

/-! ## The statement -/

/-- Settles O32: each clause is the lemma of its kind of word, lane by lane, comparison, selection or piecewise-linear. -/
theorem vectorLogicAndSelection : Obligations.VectorLogicAndSelection := by
  unfold Obligations.VectorLogicAndSelection
  intro s
  refine ⟨?logic, ?shifts, ?comparisons, ?conversions, ?clamp, ?piecewise, ?selection⟩
  case logic =>
    intro o h
    have word (op : Logic) := vec_lanewise h o.ty 2 fun i =>
      laneLogic op o.ty (s.me.vec.lane o.a i) (s.me.vec.lane o.b i) ((s.me.vec.lane o.b i).toNat % 256)
    exact ⟨word .and, word .or, word .xor, word .andn, word .shl, word .shr, word .sra, word .rol⟩
  case shifts =>
    intro o h
    have word (op : Logic) := vec_lanewise h o.ty 2 fun i => laneLogic op o.ty (s.me.vec.lane o.a i) 0 o.n.toNat
    exact ⟨word .shl, word .shr, word .sra, word .rol⟩
  case comparisons =>
    intro o lent ues
    have word := State.vCompare_issues lent ues
    exact ⟨word .eq, word .ne, word .lt, word .le, word .gt, word .ge, word .un, word .ord⟩
  case conversions => exact fun o h => ⟨vec_lanewise h _ _ _, fun _ _ => vec_lanewise h _ _ _⟩
  case clamp => exact fun o h => vec_lanewise h _ _ _
  case piecewise => exact fun o lent sound => exec_vpwl lent sound
  case selection => exact fun d a b c k lent ha hb => exec_vsel lent ha hb

end Sys2Proof.Machine
end

section
/-! SUPPORT. What a running core takes before its words: what an entry to a handler leaves of its core, which event is the first, and
what each one leaves (R178, R363 to R368, R375). -/
namespace Sys2Proof.Machine

/-! ## Tables and bits -/

@[simp] theorem Tab.find_mapVal {α : Type} (t : Tab α) (f : α → α) (k : Nat) : (t.mapVal f).find k = (t.find k).map f := by
  induction t with
  | nil => rfl
  | cons x r ih =>
    obtain ⟨j, a⟩ := x
    simp only [Tab.mapVal, List.map_cons, Tab.find] at ih ⊢
    split
    · rfl
    · exact ih

theorem getLsbD_two_pow {n m : Nat} (h : m < 64) : (BitVec.ofNat 64 (2 ^ n)).getLsbD m = decide (n = m) := by
  rw [BitVec.getLsbD_ofNat, Nat.testBit_two_pow]
  simp [h]
theorem bitOf_setBit (w : Word) {n m : Nat} (h : m < 64) : bitOf (setBit w n) m = (bitOf w m || decide (n = m)) := by
  simp only [bitOf, setBit, BitVec.getLsbD_or, getLsbD_two_pow h]
theorem bitOf_clearBit (w : Word) {n m : Nat} (h : m < 64) : bitOf (clearBit w n) m = (bitOf w m && !decide (n = m)) := by
  simp only [bitOf, clearBit, BitVec.getLsbD_and, BitVec.getLsbD_not, getLsbD_two_pow h, h, decide_true, Bool.true_and]

/-! ## What an entry to a handler leaves of its core -/

/-- What the entry to a handler finds of a core as it was, whatever the local accesses that it performs first come to: the level, the
mode, the pending events, and the CSRs that no injection and no NaN changes (R205, R367). -/
structure Settled where
  kernel : Bool
  mode : Mode
  events : Events
  kvec : Word
  kframe : Word
  uvec : Word
  uie : Word
  preempt : Word
def Core.settled (x : Core) : Settled :=
  { kernel := x.ctl.kernel, mode := x.mode, events := x.events, kvec := x.csr.kvec, kframe := x.csr.kframe, uvec := x.csr.uvec
    uie := x.csr.uie, preempt := x.csr.preempt }

section
variable (s : State) (c k : Nat)

@[simp] theorem State.poisonGranule_core (d : Nat) : (s.poisonGranule k).core d = s.core d := by
  unfold State.poisonGranule; split <;> rfl
@[simp] theorem State.breakGranule_core (d : Nat) : (s.breakGranule k).core d = s.core d := by
  unfold State.breakGranule
  dsimp only
  split
  · rw [State.modHamlet_core, State.poisonGranule_core]
  · exact s.poisonGranule_core k d
@[simp] theorem State.countCorrection_core (d : Nat) : (s.countCorrection k).core d = s.core d := by
  unfold State.countCorrection
  split
  · exact s.modHamlet_core _ _ _ d
  · rfl
theorem Core.correct_settled (x : Core) : x.correct.settled = x.settled := by unfold Core.correct; split <;> rfl
/-- An injection that fires disarms ERRINJ, and may freeze its core (R199, R205). -/
theorem State.fire_settled (target : Nat) (freezes : Bool) : ((s.fire c target k freezes).core c).settled = (s.core c).settled := by
  unfold State.fire
  dsimp only
  split
  case isTrue =>
    split
    · rw [State.breakGranule_core, State.core_setCore]; rfl
    · split
      · rw [State.countCorrection_core, State.core_modCore, Core.correct_settled, State.core_setCore]; rfl
      · rw [State.countCorrection_core, State.core_setCore]; rfl
  case isFalse => rfl
theorem Ctl.landLoad_kernel (t : Ctl) (l : LLoad) (v : Word) (bad : Bool) : (t.landLoad l v bad).kernel = t.kernel := by
  unfold Ctl.landLoad Ctl.poisonReg Ctl.setReg
  dsimp only
  split
  · split <;> split <;> rfl
  · rfl
theorem State.landLoad_settled (l : LLoad) : ((s.landLoad c l).core c).settled = (s.core c).settled := by
  unfold State.landLoad
  dsimp only
  rw [State.core_modCore, ← s.fire_settled c (spadKey c l.off) 0 true]
  simp only [Core.settled, Core.withCtl, Ctl.landLoad_kernel]
  rfl
theorem State.performLocal_settled : ((s.performLocal c).core c).settled = (s.core c).settled := by
  unfold State.performLocal
  rw [State.core_modCore]
  refine foldl_keeps (g := fun t : State => (t.core c).settled) (fun t n => ?_) _ _
  split
  · exact t.landLoad_settled c _
  · split <;> rfl
/-- A core that withdraws keeps what does not wait (R84, R215). -/
theorem State.withdraw_settled : ((s.withdraw c).core c).settled = (s.core c).settled := by
  unfold State.withdraw
  dsimp only
  rw [State.core_modCore]
  simp only [State.core, Tab.find_mapVal]
  cases s.cores.find c with
  | none => rfl
  | some x => rfl
theorem State.capture_settled (e : Event) (off : Nat) : ((s.capture c e off).core c).settled = (s.core c).settled := by
  unfold State.capture
  dsimp only
  rw [State.core_setCore, ← s.performLocal_settled c, ← (s.performLocal c).withdraw_settled c]
  simp only [Core.settled, Core.captured, Core.withVec]
  split <;> rfl

variable {s c}

/-- KFRAME one frame further: BASE + 320 (R368). -/
def nextFrame (w : Word) : Word := w + 320 * 64
/-- How a core `y` stands that has entered the kernel for an event, from a core `x`: at KVEC, the cause recorded, one frame further, and
otherwise with the mode, the pending events and the pre-emption state that it had (R368). -/
structure Core.kernelEntered (x y : Core) (e : Event) : Prop where
  kernel : y.ctl.kernel = true
  pc : y.ctl.pc = x.csr.kvec &&& ~~~7
  kcause : y.csr.kcause = e.causeWord
  kinfo : y.csr.kinfo = e.trap.info
  kframe : y.csr.kframe = nextFrame x.csr.kframe
  mode : y.mode = x.mode
  events : y.events = x.events
  preempt : y.csr.preempt = x.csr.preempt
/-- How a core stands that has entered a user-level handler: at UVEC at the level it had, the cause recorded, ACTIVE set (R368). -/
structure Core.userEntered (x y : Core) (e : Event) : Prop where
  kernel : y.ctl.kernel = x.ctl.kernel
  pc : y.ctl.pc = x.csr.uvec &&& ~~~7
  ucause : y.csr.ucause = e.causeWord
  uinfo : y.csr.uinfo = e.trap.info
  uie : y.csr.uie = setBit x.csr.uie 1

/-- A captured core as the kernel's handler finds it, its frame at a local offset. -/
def Core.atKernel (x : Core) (e : Event) (off : Nat) : Core :=
  { x with
    ctl := { x.ctl with running := true, kernel := true, pc := vecAddr x.csr.kvec }
    csr := { x.csr with kcause := e.causeWord, kinfo := e.trap.info, kframe := nextFrame x.csr.kframe }
    live := off :: x.live }
/-- A captured core as its user-level handler finds it. -/
def Core.atUser (x : Core) (e : Event) : Core :=
  { x with
    ctl := { x.ctl.swapShadow with running := true, pc := vecAddr x.csr.uvec }
    csr := { x.csr with ucause := e.causeWord, uinfo := e.trap.info, uie := setBit x.csr.uie 1 } }

theorem State.enterKernel_entered (fits : frameFits (frameOff (s.core c).csr.kframe) = true) (e : Event) :
    (s.core c).kernelEntered ((s.enterKernel c e).core c) e := by
  have core : (s.enterKernel c e).core c =
      ((s.capture c e (frameOff (s.core c).csr.kframe)).core c).atKernel e (frameOff (s.core c).csr.kframe) := by
    simp only [State.enterKernel, fits, if_true, State.core_modCore]
    rfl
  have kept := s.capture_settled c e (frameOff (s.core c).csr.kframe)
  simp only [Core.settled, Settled.mk.injEq] at kept
  obtain ⟨-, mode, events, kvec, kframe, -, -, preempt⟩ := kept
  constructor <;> rw [core] <;> simp only [Core.atKernel, vecAddr, mode, events, kvec, kframe, preempt]
theorem State.enterUli_entered (fits : frameFits (frameOff (s.core c).csr.uframe) = true) (e : Event) :
    (s.core c).userEntered ((s.enterUli c e).core c) e := by
  have core : (s.enterUli c e).core c = ((s.capture c e (frameOff (s.core c).csr.uframe)).core c).atUser e := by
    simp only [State.enterUli, fits, if_true, State.core_modCore]
    rfl
  have kept := s.capture_settled c e (frameOff (s.core c).csr.uframe)
  simp only [Core.settled, Settled.mk.injEq] at kept
  obtain ⟨kernel, -, -, -, -, uvec, uie, -⟩ := kept
  constructor <;> rw [core] <;> simp only [Core.atUser, Ctl.swapShadow, vecAddr, kernel, uvec, uie]

end

/-! ## The first event -/

section
variable {s : State} {c : Nat}

/-- The first event of a core, if it is of the kind asked for, is taken before the words of the cycle (R363). -/
theorem State.takeEvent_taken {x : Core} (is : s.core c = x) (phase : x.phase = .offer) (running : x.running = true) {e : Pending}
    (first : x.pending = some e) {p : Core → Pending → Bool} (kind : p x e = true) : s.takeEvent c p = s.deliverEvent c e := by
  subst is
  simp [State.takeEvent, first, phase, running, kind]

variable {x : Core} (past : x.ctl.past = false)
include past

theorem Core.pending_debug (debug : x.events.debug = true) : x.pending = some .debug := by simp [Core.pending, past, debug]
theorem Core.pending_save (debug : x.events.debug = false) (thermal : x.events.thermal = true) : x.pending = some .save := by
  simp [Core.pending, past, debug, thermal]

variable (debug : x.events.debug = false) (thermal : x.events.thermal = false) (user : x.ctl.kernel = false)
include debug thermal user

theorem Core.pending_watchdog (watchdog : x.events.watchdog = true) : x.pending = some .watchdog := by
  simp [Core.pending, past, debug, thermal, user, watchdog]

variable (watchdog : x.events.watchdog = false)
include watchdog

theorem Core.pending_trim {h : Word} (trim : x.events.trimUe = some h) : x.pending = some (.trim h) := by
  simp [Core.pending, past, debug, thermal, user, watchdog, trim]

variable (trim : x.events.trimUe = none)
include trim

theorem Core.pending_engine {f : EFault} (engine : x.engineFault = some f) : x.pending = some (.engine f) := by
  simp [Core.pending, past, debug, thermal, user, watchdog, trim, engine]
theorem Core.pending_event (engine : x.engineFault = none) {i : Fin 4} {cause : Cause} (event : x.vEvent = some (i, cause)) :
    x.pending = some (.event i cause) := by
  simp [Core.pending, past, debug, thermal, user, watchdog, trim, engine, event]

end

/-! ## What each event leaves -/

section
variable {s : State} {c : Nat}

/-- A core parked in a mode, where its frame has fitted. -/
theorem State.parkCore_core (h : (s.core c).mode ≠ .stopped) (m : Mode) : (s.parkCore c m).core c = { s.core c with mode := m } := by
  have goes : ((s.core c).mode == .stopped) = false := by simpa using h
  simp only [State.parkCore, State.core_modCore, goes, Bool.false_eq_true, if_false]
/-- An event that is not delegated, or comes while a handler runs, is a kernel trap (R364). -/
theorem State.take_kernel {e : Event} (h : e.trap.cause.delegable = false ∨ bitOf (s.core c).csr.udeleg e.trap.cause.code = false ∨
    bitOf (s.core c).csr.uie 1 = true) : s.take c e = s.enterKernel c e := by
  simp only [State.take, Core.uliActive]
  rcases h with h | h | h <;> simp [h]

section
variable {f : Core → Core} (kvec : (f (s.core c)).csr.kvec = (s.core c).csr.kvec)
  (kframe : (f (s.core c)).csr.kframe = (s.core c).csr.kframe) (fits : frameFits (frameOff (s.core c).csr.kframe) = true) (e : Event)
include kvec kframe fits

/-- An event taken as a kernel trap, its pending mark cleared first by `f`: the core has entered the kernel from where it stood. -/
theorem State.event_entered : ∃ y, ((s.modCore c f).enterKernel c e).core c = y ∧ (f (s.core c)).kernelEntered y e ∧
    y.ctl.pc = (s.core c).csr.kvec &&& ~~~7 ∧ y.csr.kframe = nextFrame (s.core c).csr.kframe := by
  have entered := State.enterKernel_entered (s := s.modCore c f) (c := c) (by rw [State.core_modCore, kframe]; exact fits) e
  rw [State.core_modCore] at entered
  refine ⟨_, rfl, entered, entered.pc.trans ?_, entered.kframe.trans ?_⟩
  · rw [kvec]
  · rw [kframe]

end

/-- An event taken as a user-level interrupt, its bit of UIE cleared first (R366, R368). -/
theorem State.event_user (fits : frameFits (frameOff (s.core c).csr.uframe) = true) (n : Nat) (e : Event) :
    ∃ y, ((s.modCore c fun x => x.withCsr fun r => { r with uie := clearBit r.uie n }).enterUli c e).core c = y ∧
      y.ctl.kernel = (s.core c).ctl.kernel ∧ y.ctl.pc = (s.core c).csr.uvec &&& ~~~7 ∧ y.csr.ucause = e.causeWord ∧
      y.csr.uinfo = e.trap.info ∧ y.csr.uie = setBit (clearBit (s.core c).csr.uie n) 1 := by
  have entered := State.enterUli_entered (c := c) (s := s.modCore c fun x => x.withCsr fun r => { r with uie := clearBit r.uie n })
    (by rw [State.core_modCore]; exact fits) e
  rw [State.core_modCore] at entered
  obtain ⟨kernel, pc, ucause, uinfo, uie⟩ := entered
  exact ⟨_, rfl, kernel, pc, ucause, uinfo, uie⟩

end

/-- A core that is not being saved takes THERMAL_SAVE, if that is its first event (R377). -/
theorem exec_contextSave_notSaving {s : State} {c : Nat} (h : ∀ cause, (s.core c).mode ≠ .saving cause) :
    exec (.contextSave c) s = .next (s.takeEvent c fun _ p => match p with | .save => true | _ => false) := by
  show execContextSave c s = _
  unfold execContextSave
  dsimp only
  split
  case h_1 cause _ _ saving _ => exact absurd saving (h cause)
  case h_2 => rfl

/-- Settles O42: the first event is the one that the clause names, and it is taken as the clause says. -/
theorem asynchronousEvents : Obligations.AsynchronousEvents := by
  unfold Obligations.AsynchronousEvents
  intro s c x e kernel fits phase freeze mode past
  have running : (s.core c).running = true := by
    rcases mode with h | h
    · simp only [Core.running, show (s.core c).freeze = 0 from freeze, show (s.core c).mode = .normal from h]; rfl
    · simp only [Core.running, show (s.core c).freeze = 0 from freeze, show (s.core c).mode = .haltPending from h]; rfl
  have notStopped : (s.core c).mode ≠ .stopped := by rcases mode with h | h <;> (rw [h]; nofun)
  have room : fits → frameFits (frameOff (s.core c).csr.kframe) = true := fun h => by rw [frameFits_iff, frameOff_eq]; exact h
  have taken {p : Core → Pending → Bool} {v : Pending} (first : x.pending = some v) (kind : p x v = true) :
      s.takeEvent c p = s.deliverEvent c v := State.takeEvent_taken rfl phase running first kind
  refine ⟨fun debug ok => ?debug, fun debug thermal ok => ?save, fun debug thermal user => ⟨fun watchdog ok i hi => ?watchdog,
    fun watchdog h trim ok => ?trim, fun watchdog trim f engine ok kept => ?engine,
    fun watchdog trim engine i cause event ok => ?event⟩⟩
  case debug =>
    obtain ⟨y, core, ⟨k, -, kcause, kinfo, -, m, ev, -⟩, pc, kframe⟩ := State.event_entered (s := s) (c := c)
      (f := fun x => { x with events := { x.events with debug := false } }) rfl rfl (room ok) (.ofAsync { cause := .debug, info := 0 })
    have left : (s.deliverEvent c .debug).core c = { y with mode := .halted, phase := .tick } := by
      simp only [State.deliverEvent, State.core_modCore]
      rw [State.parkCore_core (by rw [core, m]; exact notStopped), core]
    refine ⟨_, congrArg Host.Outcome.next (taken (Core.pending_debug past debug) rfl), ?_⟩
    dsimp only [kernel]
    rw [left]
    exact ⟨⟨k, pc, kcause, kinfo, kframe, rfl⟩, rfl, congrArg Events.debug ev⟩
  case save =>
    obtain ⟨y, core, ⟨k, -, kcause, kinfo, -, m, -, -⟩, pc, kframe⟩ := State.event_entered (s := s) (c := c)
      (f := fun x => { x with events := { x.events with thermal := false } }) rfl rfl (room ok)
      (.ofAsync { cause := .thermalSave, info := 0 })
    have left : (s.deliverEvent c .save).core c = { y with mode := .saving .thermalSave, phase := .tick } := by
      simp only [State.deliverEvent, State.core_modCore]
      rw [State.parkCore_core (by rw [core, m]; exact notStopped), core]
    refine ⟨_, (exec_contextSave_notSaving fun cause => ?notSaving).trans
      (congrArg Host.Outcome.next (taken (Core.pending_save past debug thermal) rfl)), ?_⟩
    case notSaving => rcases mode with h | h <;> exact fun saving => nomatch h.symm.trans saving
    dsimp only [kernel]
    rw [left]
    exact ⟨⟨k, pc, kcause, kinfo, kframe, rfl⟩, rfl⟩
  case watchdog =>
    obtain ⟨y, core, ⟨k, -, kcause, kinfo, -, -, ev, preempt⟩, pc, kframe⟩ := State.event_entered (s := s) (c := c)
      (f := fun x => { x with events := { x.events with watchdog := false }, csr := { x.csr with preempt := setBit x.csr.preempt 2 } })
      rfl rfl (room ok) (.ofAsync { cause := .preemptWatchdog, info := BitVec.ofNat 64 (elapsedOf (s.core c).csr.preempt) })
    have left : (s.deliverEvent c .watchdog).core c = { y with phase := .tick } := by
      simp only [State.deliverEvent, State.core_modCore]
      rw [core]
    have first := Core.pending_watchdog past debug thermal user watchdog
    have run : exec i s = .next (s.deliverEvent c .watchdog) := by
      rcases hi with rfl | rfl
      · exact congrArg Host.Outcome.next (taken first rfl)
      · exact congrArg Host.Outcome.next (taken first rfl)
    refine ⟨_, run, ?_⟩
    dsimp only [kernel]
    rw [left]
    refine ⟨⟨k, pc, kcause, kinfo, kframe, rfl⟩, ?_, congrArg Events.watchdog ev⟩
    rw [preempt, bitOf_setBit _ (by decide)]
    simp
  case trim =>
    obtain ⟨y, core, ⟨k, -, kcause, kinfo, -, -, ev, -⟩, pc, kframe⟩ := State.event_entered (s := s) (c := c)
      (f := fun x => { x with events := { x.events with trimUe := none } }) rfl rfl (room ok) (.ofAsync { cause := .trimUe, info := h })
    have left : (s.deliverEvent c (.trim h)).core c = { y with phase := .tick } := by
      simp only [State.deliverEvent, State.core_modCore]
      rw [core]
    refine ⟨_, congrArg Host.Outcome.next (taken (Core.pending_trim past debug thermal user watchdog trim) rfl), ?_⟩
    dsimp only [kernel]
    rw [left]
    exact ⟨⟨k, pc, kcause, kinfo, kframe, rfl⟩, congrArg Events.trimUe ev⟩
  case engine =>
    obtain ⟨y, core, ⟨k, -, kcause, kinfo, -, -, ev, -⟩, pc, kframe⟩ := State.event_entered (s := s) (c := c)
      (f := fun x => { x with events := { x.events with engine := x.events.engine.erase f } }) rfl rfl (room ok) f.event
    have left : (s.deliverEvent c (.engine f)).core c = { y with phase := .tick } := by
      simp only [State.deliverEvent, State.core_modCore]
      rw [State.take_kernel (by rw [State.core_modCore]; exact kept), core]
    have kind : x.toKernel (.engine f) = true := by
      simp only [Core.toKernel, Core.uliActive]
      rcases kept with h | h | h <;> simp [h]
    refine ⟨_, congrArg Host.Outcome.next (taken (Core.pending_engine past debug thermal user watchdog trim engine) kind), ?_⟩
    dsimp only [kernel]
    rw [left]
    exact ⟨⟨k, pc, kcause, kinfo, kframe, rfl⟩, congrArg Events.engine ev⟩
  case event =>
    obtain ⟨y, core, k, pc, ucause, uinfo, uie⟩ := State.event_user (s := s) (c := c) (by rw [frameFits_iff, frameOff_eq]; exact ok)
      (32 + i.val) (.ofAsync { cause := cause, info := (s.core c).events.vals[i] })
    have left : (s.deliverEvent c (.event i cause)).core c = { y with phase := .tick } := by
      simp only [State.deliverEvent, State.core_modCore]
      rw [core]
    refine ⟨_, congrArg Host.Outcome.next (taken (Core.pending_event past debug thermal user watchdog trim engine event) rfl), ?_⟩
    rw [left]
    refine ⟨pc, k.trans user, uinfo, ?active, ?pending, ucause⟩
    case active => rw [uie, bitOf_setBit _ (by decide)]; simp
    case pending =>
      rw [uie, bitOf_setBit _ (by omega), bitOf_clearBit _ (by omega)]
      have other : ¬ 1 = 32 + i.val := by omega
      simp [other]

end Sys2Proof.Machine
end

section
/-! SUPPORT. O44 fails: a package table whose keys do not rise (R164, R386). -/
namespace Sys2Proof.Machine

/-! ## A state in which the reading of a record changes what node 1 is -/

/-- The page table of the partition: at node 1, in frame 0 of the automatic range. -/
def disorderedTable : Word := BitVec.ofNat 64 (2 ^ 44 + 0x400_0000_0000)
/-- The valid entry of the partition in a package. -/
def disorderedEntry : PEntryTab := { PEntryTab.reset with valid := true, ptbase := disorderedTable }
/-- The function of the partition, in which submissions wait. -/
def disorderedFunc (subs : List Word) : Func := { Func.reset with subs := subs, part := disorderedEntry }
/-- Node 0: a record waits in its function; one link leads to node 1. -/
def disorderedSubmitter : Pkg := { Pkg.reset with routes := [(1, 0)], funcs := [(0, disorderedFunc [0x20000])] }
/-- Another package that is listed as node 1, without an entry and with no frame backed. -/
def disorderedStranger : Pkg := { Pkg.reset with nodeid := 1 }
/-- Node 1, with an entry of the partition and frame 0 backed. -/
def disorderedMember : Pkg :=
  { disorderedStranger with
    funcs := [(0, disorderedFunc [])]
    dies := Pkg.reset.dies.set! 0 { Die.reset with place := [(0, 0x100_0000_0000)] } }
/-- A record that passes its checks in a partition without cores: one level, the other words 0. -/
def disorderedRecord : List Byte := zeros 20 ++ leBytes 1 1 ++ zeros 107
/-- A package table with its keys out of order, over a memory of the member with a page table of two entries and the record. -/
def disordered : State :=
  State.write
    (State.writeRuns { State.reset with pkgs := [(0, disorderedSubmitter), (9, disorderedStranger), (5, disorderedMember)] }
      [(key 5 0x400_0000_0000, leBytes 8 (2 ^ 44 + 0x1_0001)), (key 5 0x1_0000, leBytes 8 (2 ^ 44 + 771))])
    (key 5 0x2_0000) disorderedRecord
/-- The state in which the record is read: it has left the queue of the function. -/
def disorderedTaken : State := disordered.modFunc 0 0 fun y => { y with subs := [] }
/-- The state after the reads of both packages are counted. -/
def disorderedCounted : State := (disorderedTaken.devCount 0 disorderedTable 0x20000 128).devCount 5 disorderedTable 0x20000 128

theorem disordered_unreadable : disorderedTaken.devBytes 0 disorderedTable 0x20000 128 = .error { cause := .pageFault, info := 0x20000 } :=
  rfl
/-- What the device's reads count is not memory (R197). -/
theorem State.devCount_mem (s : State) (p : Nat) (ptbase va : Word) (n : Nat) : (s.devCount p ptbase va n).mem = s.mem := by
  refine foldl_keeps (g := State.mem) (fun t x => ?_) _ _
  have walked : (t.countWalk p ptbase x.1.info.toNat).mem = t.mem := (sameBytes_countWalkFrom ..).1
  dsimp only
  split
  · exact (sameBytes_countFrame ..).1.trans walked
  · exact walked
set_option maxRecDepth 4000 in
/-- The reads that are counted list no core. -/
theorem disordered_cores : disorderedCounted.cores = [] := rfl
theorem disordered_record : disorderedCounted.readBytes (key 5 0x2_0000) 128 = disorderedRecord := by
  have mem : disorderedCounted.mem = disordered.mem :=
    (State.devCount_mem ..).trans (State.devCount_mem ..)
  have stays : disorderedCounted.readBytes (key 5 0x2_0000) 128 = disordered.readBytes (key 5 0x2_0000) 128 :=
    List.map_congr_left fun i _ => State.readByte_congr mem disordered_cores _
  exact stays.trans (State.readBytes_write _ _ disorderedRecord)
set_option maxRecDepth 4000 in
theorem disordered_translation :
    disorderedCounted.translateDev 0 disorderedTable 0x20000 128 .load = .ok (key 5 0x2_0000) (BitVec.ofNat 64 (2 ^ 44 + 771)) := by
  decide
set_option maxRecDepth 4000 in
theorem disordered_translation_member :
    disorderedCounted.translateDev 5 disorderedTable 0x20000 128 .load = .ok (key 5 0x2_0000) (BitVec.ofNat 64 (2 ^ 44 + 771)) := by
  decide
set_option maxRecDepth 4000 in
theorem disordered_sound : disorderedCounted.poisoned (key 5 0x2_0000) 128 = false := by decide
theorem disordered_ok : (Record.of disorderedRecord).reason 0 false = 0 := by decide
theorem disordered_prep : (Record.of disorderedRecord).prep = 0 := by decide
theorem disordered_others : (disordered.partPkgs 0 0).filter (· != 0) = [5] := by decide
theorem disordered_total : disordered.totalCores 0 0 = 0 := by decide
/-- Both packages read the record, each through its own entry's context. -/
theorem disordered_readable {q : Nat}
    (place : disorderedCounted.translateDev q disorderedTable 0x20000 128 .load = .ok (key 5 0x2_0000) (BitVec.ofNat 64 (2 ^ 44 + 771))) :
    disorderedCounted.devBytes q disorderedTable 0x20000 128 = .ok disorderedRecord := by
  have pieces : (EAddr.virt 0x20000).pieces 128 = [(EAddr.virt 0x20000, 128)] := by decide
  simp only [State.devBytes, pieces, State.devRead, EAddr.info, place, disordered_sound, disordered_record, Bool.false_eq_true,
    if_false, List.append_nil]
set_option maxRecDepth 4000 in
theorem disordered_entries : (disordered.entry 0 0).ptbase = disorderedTable ∧ (disordered.entry 5 0).ptbase = disorderedTable ∧
    disorderedCounted.entry 0 0 = disorderedEntry ∧ disorderedCounted.entry 5 0 = disorderedEntry := ⟨rfl, rfl, rfl, rfl⟩

/-- A submission whose record passes every check, in a state where the counted reads of the packages have led to `t`, becomes the launch
of the partition (R164). -/
theorem exec_launchSubmit_accepts {s t : State} {p n k : Nat} {f : Fin 64} {va : Word} {rest : List Word} {b : List Byte}
    {others : List Nat} (func : f.val = n) (part : s.partOf p n = k)
    (subs : ((s.pkg p).func n).subs = va :: rest) (takes : s.takes p n = true)
    (idle : (s.part k).launch = none) (valid : (s.entry p n).valid = true)
    (gang : (s.partPkgs (s.pkg p).domain k).filter (· != p) = others)
    (counted : (p :: others).foldl (fun t q => t.devCount q (s.entry q n).ptbase va 128)
      (s.modFunc p n fun y => { y with subs := rest }) = t)
    (read : t.devBytes p (s.entry p n).ptbase va 128 = .ok b)
    (passes : ∀ q ∈ p :: others, t.recordReason q n va (s.totalCores p n) = 0) (prep : (Record.of b).prep = 0) :
    ∃ u, exec (.launchSubmit p f) s = .next u ∧ (u.part k).launch ≠ none := by
  subst func part
  have none : ((p :: others).map fun q => t.recordReason q f.val va (s.totalCores p f.val)).find? (· != 0) = none := by
    simpa using passes
  have valid' : ((s.pkg p).func f.val).part.valid = true := valid
  have read' : t.devBytes p ((s.pkg p).func f.val).part.ptbase va 128 = .ok b := read
  show ∃ u, execLaunchSubmit p f s = .next u ∧ _
  simp only [execLaunchSubmit, subs, takes, idle, valid', gang, counted, none, read', prep, Bool.not_true, Option.isSome_none,
    Bool.or_self, Bool.false_eq_true, if_false, Option.getD_none, ne_eq, not_true_eq_false, true_or, if_true]
  exact ⟨_, rfl, by rw [State.part_modPart]; nofun⟩

/-- What a package says to a record that it has read through its entry's context (R386, R387). The definition is unfolded as a function:
against its value at arguments, the kernel would start to evaluate the read. -/
theorem State.recordReason_of_read {t : State} {q f : Nat} {va : Word} {e : PEntryTab} {b : List Byte} (cores : Nat)
    (entry : t.entry q f = e) (read : t.devBytes q e.ptbase va 128 = .ok b) :
    t.recordReason q f va cores = (Record.of b).reason cores e.klaunch := by
  subst entry
  refine (congrArg (fun reason : State → Nat → Nat → Word → Nat → Nat => reason t q f va cores)
    (by delta State.recordReason; exact rfl)).trans ?_
  rw [read]

/-- The state of the submitter as the submission finds it. -/
theorem disordered_submission : disordered.partOf 0 0 = 0 ∧ ((disordered.pkg 0).func 0).subs = [0x20000] ∧
    disordered.takes 0 0 = true ∧ (disordered.part 0).launch = none ∧ (disordered.entry 0 0).valid = true ∧
    (disordered.pkg 0).domain = 0 := ⟨rfl, rfl, rfl, rfl, rfl, rfl⟩
/-- The submission is accepted. -/
theorem disordered_launched : ∃ u, exec (.launchSubmit 0 0) disordered = .next u ∧ (u.part 0).launch ≠ none := by
  obtain ⟨part, subs, takes, idle, valid, domain⟩ := disordered_submission
  obtain ⟨submitter, member, found, found'⟩ := disordered_entries
  have counted : [0, 5].foldl (fun t q => t.devCount q (disordered.entry q 0).ptbase 0x20000 128) disorderedTaken =
      disorderedCounted := by
    simp only [List.foldl_cons, List.foldl_nil, submitter, member, disorderedCounted]
  have read := disordered_readable disordered_translation
  have read' := disordered_readable disordered_translation_member
  refine exec_launchSubmit_accepts (n := 0) rfl part subs takes idle valid (by rw [domain]; exact disordered_others) counted
    (by rw [submitter]; exact read) (fun q among => ?_) disordered_prep
  rw [disordered_total]
  rcases List.mem_pair.mp among with rfl | rfl
  case inl => exact (State.recordReason_of_read 0 found read).trans disordered_ok
  case inr => exact (State.recordReason_of_read 0 found' read').trans disordered_ok

/-- Refutes O44, in its clause on a record that cannot be read. In a state whose package table does not keep its keys rising and lists
two packages as node 1, counting the reads of the second package of the partition changes which of the two stands first; the record,
which could not be read before, is then read and accepted, so a launch stands where the clause has none. -/
theorem not_launches : ¬ Obligations.Launches := by
  unfold Obligations.Launches
  intro h
  obtain ⟨-, unreadable, -⟩ := h disordered 0 0
  obtain ⟨-, u, run, idle, -⟩ := unreadable 0x20000 [] _ rfl rfl rfl rfl disordered_unreadable
  obtain ⟨v, ran, launched⟩ := disordered_launched
  obtain rfl : u = v := by injection run.symm.trans ran
  exact launched idle

end Sys2Proof.Machine
end

section
/-! SUPPORT. The words of tasks: `spawn`, `join` and `enq`, and the push of a record into a node queue (R168 to R170, R281 to R283). -/
namespace Sys2Proof.Machine
open Sys2Proof.Safety

section
variable (s : State)

/-! ## How such a word ends -/

theorem ctlRegion_go {t : State} (h : t.cur = s.cur) : ctlRegion s (.ok (.ok (.go t))) = .next (ctlNext t) := ctl_go s t h
theorem ctlRegion_hold (w : Wait) : ctlRegion s (.error (.hold w)) = .next (ctlHeld w s) := rfl
/-- A trap that is not the loss of a store leaves the record of a lost store alone (R391). -/
theorem ctlRel_trap {c : Cause} (h : c ≠ .groupAbsent) (i : Word) :
    ctlRel s (.error (.trap { cause := c, info := i })) = .next (ctlTrap c i s) := by
  simp only [ctlRel, State.reportLost, h, if_false]
  rfl
theorem ctlRegion_trap {c : Cause} (h : c ≠ .groupAbsent) (i : Word) :
    ctlRegion s (.error (.trap { cause := c, info := i })) = .next (ctlTrap c i s) := ctlRel_trap s h i

/-! ## The core that runs, through a push -/

@[simp] theorem State.noteHost_cur (c k : Nat) : (s.noteHost c k).cur = s.cur := by
  unfold State.noteHost
  split
  · split
    · rfl
    · exact s.modPkg_cur _ _
  · rfl
@[simp] theorem State.countFrame_cur (k n : Nat) : (s.countFrame k n).cur = s.cur := (s.cached_countFrame k n).cur
@[simp] theorem State.countQueue_cur (k : QueueKeys) (r : Nat) : (s.countQueue k r).cur = s.cur := by simp [State.countQueue]
@[simp] theorem State.pushRecord_cur (c : Nat) (k : QueueKeys) (r : Nat) (b : List Byte) : (s.pushRecord c k r b).cur = s.cur := by
  simp [State.pushRecord]
theorem State.cached_frameWord (va : Word) (need : Need) : s.cached (s.frameWord va need).1 := by
  have translated := s.cached_translate s.cur va 8 need s.me.ctl.kernel (!s.me.ctl.kernel)
  unfold State.frameWord
  generalize s.translate s.cur va 8 need s.me.ctl.kernel = w at translated ⊢
  obtain ⟨t, x⟩ := w
  cases x with
  | ok k _ => exact translated.trans (t.cached_countFrame k 8)
  | absent _ => exact translated
  | trap _ => exact translated
theorem State.cached_readVirtual (c : Nat) (kernel : Bool) (l : List (EAddr × Nat)) : s.cached (s.readVirtual c kernel l).1 := by
  induction l generalizing s with
  | nil => exact .refl s
  | cons p r ih =>
    obtain ⟨a, n⟩ := p
    have translated := s.cached_translate c a.info n .load kernel (!kernel)
    unfold State.readVirtual
    generalize s.translate c a.info n .load kernel = w at translated ⊢
    obtain ⟨t, x⟩ := w
    cases x with
    | absent _ => exact translated
    | trap _ => exact translated
    | ok k _ =>
      have rest := (translated.trans (t.cached_countFrame k n)).trans (ih (t.countFrame k n))
      dsimp only
      split
      · exact translated
      · generalize (t.countFrame k n).readVirtual c kernel r = v at rest ⊢
        obtain ⟨u, y⟩ := v
        cases y with
        | ok _ => exact rest
        | error _ => exact rest

/-- A change of a core keeps of every core what it keeps of its own. -/
theorem State.core_modCore_keeps {α : Type} {g : Core → α} {f : Core → Core} (h : ∀ x, g (f x) = g x) (d c : Nat) :
    g ((s.modCore d f).core c) = g (s.core c) := by
  by_cases same : c = d
  · subst same; rw [State.core_modCore, h]
  · rw [State.core_modCore_ne _ _ _ _ same]

theorem ctlNext_queues (t : State) (c : Nat) : ((ctlNext t).core c).queues = (t.core c).queues := by
  rw [ctlNext, ctlTo_eq]
  exact t.core_modCore_keeps (g := Core.queues) (f := fun x => x.issuedCtl (t.me.ctl.pc + 8)) (fun _ => rfl) t.cur c
theorem Core.addEntry_ctl (x : Core) (q : Fin 6) (e : QEntry) : (x.addEntry q e).ctl = x.ctl := rfl

/-! ## The push of a record -/

section
variable {s} {q : NodeQueue} {k : QueueKeys} {bytes : List Byte} {next : State → Done} (keys : s.queueKeys s.cur q = .ok k)
include keys

/-- A full queue holds the word (R170). -/
theorem State.push_full (full : 2 ^ q.log ≤ s.queueLoad k) : s.push q bytes next = .error (.hold (.queue 16)) := by
  simp only [State.push, keys, full, if_true]
  rfl
theorem State.push_room (room : s.queueLoad k < 2 ^ q.log) {r : Nat} (place : k.record (s.readWord k.tail).toNat = .ok r)
    (free : s.writeHeld r = false) (free' : s.writeHeld k.tail = false) :
    s.push q bytes next = .ok (.ok (next (s.pushRecord s.cur k r bytes))) := by
  simp only [State.push, keys, Nat.not_le.mpr room, if_false, place, free, free', Bool.not_false, Bool.and_self, awaits_true]
  rfl

end

/-! ## The words -/

variable {s}

section
variable {ra : Src} {b : Fin 32} {id w0 w1 w2 w3 : Word} {y : Core}
  (srcs : s.me.srcs [ra, .reg b, .reg (b + 1), .reg (b + 2), .reg (b + 3)] = .ok ([id, w0, w1, w2, w3], y))
include srcs

theorem exec_spawn_noQueue (none : s.nodeQueue s.cur id = none) : exec (.spawn ra b) s = .next (ctlTrap .perm id s) := by
  show execSpawn ra b s = _
  simp only [execSpawn, srcs, ok_bind, List.headD_cons, none]
  exact ctlRegion_trap s (by decide) id
theorem exec_spawn {q : NodeQueue} (queue : s.nodeQueue s.cur id = some q) (released : s.awaitRelease q.scope = .ok ()) :
    exec (.spawn ra b) s = ctlRegion s ((withMe s y).push q (recordBytes [w0, w1, w2, w3]) Done.go) := by
  show execSpawn ra b s = _
  simp only [execSpawn, srcs, ok_bind, List.headD_cons, queue, released]
  rfl

end

section
variable {ra rb : Src} {q : Fin 6} {rank a : Word} {y : Core} {d : Nat} (srcs : s.me.src2 ra rb = .ok (rank, a, y))
  (target : s.rankTarget rank = .ok d)
include srcs target

theorem exec_enq_misaligned (h : a.toNat % 8 ≠ 0) : exec (.enq ra rb q) s = .next (ctlTrap .misalign a s) := by
  show execEnq ra rb q s = _
  simp only [execEnq, srcs, target, ok_bind, h, decide_false, require_false, error_bind]
  exact ctlRel_trap s (by decide) a

variable (released : s.awaitRelease .dom = .ok ()) (aligned : a.toNat % 8 = 0)
include released aligned

theorem exec_enq_full (full : queueDepth q ≤ (s.core d).queues[q].entries.length) :
    exec (.enq ra rb q) s = .next (ctlHeld (.queue (if d = s.cur then q.val else 16)) s) := by
  show execEnq ra rb q s = _
  simp only [execEnq, srcs, target, ok_bind, aligned, decide_true, require_true, released, Nat.not_lt.mpr full, decide_false,
    awaits_false, error_bind]
  rfl
theorem exec_enq_room (room : (s.core d).queues[q].entries.length < queueDepth q) :
    exec (.enq ra rb q) s = .next (ctlNext ((withMe s y).modCore d fun x => x.addEntry q
      (.chain a s.cur s.me.ctl.kernel s.nextId s.me.vec.era none none 0))) := by
  show execEnq ra rb q s = _
  simp only [execEnq, srcs, target, ok_bind, aligned, decide_true, require_true, released, room, awaits_true]
  exact ctl_go s _ rfl

end

/-! ## `join` -/

theorem orTrap_ok {α : Type} (a : α) : orTrap (.ok a : Except Trap α) = .ok a := rfl

/-- The words of a join frame are at keys `k0`, `k1` and `k2`, and nothing stands in the way of the counter (R282). -/
structure State.joining (s : State) (ra : Src) (f : Word) (y : Core) (t : State) (k0 k1 k2 : Nat) : Prop where
  src : s.me.src1 ra = .ok (f, y)
  aligned : f.toNat % 8 = 0
  frame : ∃ s1 s2, s.frameWord f .load = (s1, .ok k0) ∧ s1.frameWord (f + 8) .both = (s2, .ok k1) ∧
    s2.frameWord (f + 16) .load = (t, .ok k2)
  overlap0 : s.checkOverlap k0 8 false f = .ok ()
  overlap1 : s.checkOverlap k1 8 true (f + 8) = .ok ()
  overlap2 : s.checkOverlap k2 8 false (f + 16) = .ok ()
  sound : t.poisoned k1 8 = false
  free : t.writeHeld k1 = false
  alone : t.noneAtAll s.cur [(k0, 8), (k1, 8), (k2, 8)] = true
  released : s.awaitRelease (match t.nodeQueue s.cur (t.readWord k2) with | some q => q.scope | none => .dom) = .ok ()

/-- The counter of a join frame stands at `v`, and `d` holds it (R282). -/
def State.joined (t : State) (c : Nat) (y : Core) (k1 : Nat) (d : Fin 32) (v : Word) : State :=
  (((t.setCore c y).writeNat k1 8 v.toNat).noteHost c k1).onMe fun x => x.putReg d v 1

/-- What a join does once its counter may be read (R169, R282). -/
def State.joinEnd (s t : State) (f : Word) (y : Core) (k0 k1 k2 : Nat) (d : Fin 32) : RegionIssue := do
  require (t.readWord k1 != 0) .perm f
  if t.readWord k1 != 1 then .ok (.ok (.go (t.joined s.cur y k1 d (t.readWord k1 - 1))))
  else do
    require (!t.poisoned k2 8) .ue (f + 16 - BitVec.ofNat 64 (k2 % granuleSize k2))
    match t.nodeQueue s.cur (t.readWord k2) with
    | none => trapOf .perm (t.readWord k2)
    | some q => do
      require (!t.poisoned k0 8) .ue (f - BitVec.ofNat 64 (k0 % granuleSize k0))
      awaits (t.noneAtAll s.cur (t.keysOf s.cur s.me.ctl.kernel .load (.virt (t.readWord k0)) 32)) .other
      t.checkReads s.me.ctl.kernel (t.readWord k0) 32
      let b := t.readVirtual s.cur s.me.ctl.kernel ((EAddr.virt (t.readWord k0)).pieces 32)
      let bytes ← orTrap b.2
      b.1.push q bytes fun u => .go (u.joined s.cur y k1 d (t.readWord k1 - 1))

section
variable {d : Fin 32} {ra : Src} {f : Word} {y : Core} {t : State} {k0 k1 k2 : Nat} (joining : s.joining ra f y t k0 k1 k2)
include joining

theorem State.joining.cur : t.cur = s.cur := by
  obtain ⟨s1, s2, h0, h1, h2⟩ := joining.frame
  have c0 := (s.cached_frameWord f .load).cur
  have c1 := (s1.cached_frameWord (f + 8) .both).cur
  have c2 := (s2.cached_frameWord (f + 16) .load).cur
  rw [h0] at c0; rw [h1] at c1; rw [h2] at c2
  exact c2.trans (c1.trans c0)
theorem exec_join : exec (.join d ra) s = ctlRegion s (s.joinEnd t f y k0 k1 k2 d) := by
  obtain ⟨src, aligned, ⟨s1, s2, h0, h1, h2⟩, o0, o1, o2, sound, free, alone, released⟩ := joining
  have align : checkAlign f 8 = .ok () := checkAlign_ok aligned
  show execJoin d ra s = _
  cases queue : t.nodeQueue s.cur (t.readWord k2) with
  | none =>
    simp only [queue] at released
    simp only [execJoin, src, align, h0, h1, h2, orTrap_ok, o0, o1, o2, sound, free, alone, queue, released, ok_bind, Bool.not_false,
      require_true, awaits_true, State.joinEnd, State.joined]
  | some q =>
    simp only [queue] at released
    simp only [execJoin, src, align, h0, h1, h2, orTrap_ok, o0, o1, o2, sound, free, alone, queue, released, ok_bind, Bool.not_false,
      require_true, awaits_true, State.joinEnd, State.joined]
/-- A counter of 0 (R282). -/
theorem exec_join_zero (zero : t.readWord k1 = 0) : exec (.join d ra) s = .next (ctlTrap .perm f s) := by
  simp only [exec_join joining, State.joinEnd, zero, bne_self_eq_false, require_false, error_bind]
  exact ctlRegion_trap s (by decide) f
/-- A join that is not the last of its frame. -/
theorem exec_join_more (zero : t.readWord k1 ≠ 0) (one : t.readWord k1 ≠ 1) :
    exec (.join d ra) s = .next (ctlNext (t.joined s.cur y k1 d (t.readWord k1 - 1))) := by
  have some_ : (t.readWord k1 != 0) = true := by simpa using zero
  have more : (t.readWord k1 != 1) = true := by simpa using one
  simp only [exec_join joining, State.joinEnd, some_, more, require_true, ok_bind, if_true]
  exact ctlRegion_go s (by simp [State.joined, State.onMe, State.modCore, joining.cur])
/-- The last join of a frame pushes the frame's record. -/
theorem exec_join_last (one : t.readWord k1 = 1) (sound0 : t.poisoned k0 8 = false) (sound2 : t.poisoned k2 8 = false)
    (alone : t.noneAtAll s.cur (t.keysOf s.cur s.me.ctl.kernel .load (.virt (t.readWord k0)) 32) = true)
    (reads : t.checkReads s.me.ctl.kernel (t.readWord k0) 32 = .ok ()) {q : NodeQueue} (queue : t.nodeQueue s.cur (t.readWord k2) = some q)
    {u : State} {bytes : List Byte}
    (record : t.readVirtual s.cur s.me.ctl.kernel ((EAddr.virt (t.readWord k0)).pieces 32) = (u, .ok bytes)) {k : QueueKeys}
    (keys : u.queueKeys s.cur q = .ok k) (room : u.queueLoad k < 2 ^ q.log) {r : Nat}
    (place : k.record (u.readWord k.tail).toNat = .ok r) (free : u.writeHeld r = false) (free' : u.writeHeld k.tail = false) :
    exec (.join d ra) s = .next (ctlNext ((u.pushRecord s.cur k r bytes).joined s.cur y k1 d (t.readWord k1 - 1))) := by
  have cur : u.cur = s.cur := by
    have read := (t.cached_readVirtual s.cur s.me.ctl.kernel ((EAddr.virt (t.readWord k0)).pieces 32)).cur
    rw [record] at read
    exact read.trans joining.cur
  have pushed (next : State → Done) : u.push q bytes next = .ok (.ok (next (u.pushRecord s.cur k r bytes))) := by
    rw [← cur]
    exact State.push_room (cur.symm ▸ keys) room place free free'
  have some_ : (t.readWord k1 != 0) = true := by rw [one]; decide
  have last : (t.readWord k1 != 1) = false := by rw [one]; decide
  simp only [exec_join joining, State.joinEnd, some_, last, require_true, ok_bind, Bool.false_eq_true, if_false, sound0, sound2, alone,
    reads, queue, record, orTrap_ok, pushed, Bool.not_false, awaits_true]
  exact ctlRegion_go s (by simp [State.joined, State.onMe, State.modCore, cur])

end

end

/-- Settles O25: `spawn` and the last `join` are a push into a node queue; every other `join` writes its counter only. -/
theorem tasks : Obligations.Tasks := by
  unfold Obligations.Tasks
  intro s
  refine ⟨fun ra b id w0 w1 w2 w3 y srcs => ⟨exec_spawn_noQueue srcs, fun q k queue released keys => ⟨fun full => ?full, ?room⟩⟩,
    ?join, fun ra rb q rank a y d srcs target released => ⟨exec_enq_misaligned srcs target, exec_enq_full srcs target released,
      fun aligned room => ⟨_, exec_enq_room srcs target released aligned room, ?pc, ?mem, ?entries⟩⟩⟩
  case full =>
    rw [exec_spawn srcs queue released, State.push_full keys full]
    exact ctlRegion_hold s _
  case room =>
    intro r room place free free'
    rw [exec_spawn srcs queue released, State.push_room keys room place free free', ctlRegion_go s (by rw [State.pushRecord_cur]; rfl)]
    simp [State.pushRecord, recordBytes]
  case pc =>
    have kept : (((withMe s y).modCore d fun x => x.addEntry q
        (.chain a s.cur s.me.ctl.kernel s.nextId s.me.vec.era none none 0)).me).ctl = y.ctl := by
      rw [← congrArg Core.ctl (withMe_me s y)]
      exact (withMe s y).core_modCore_keeps (g := Core.ctl) (fun x => x.addEntry_ctl q _) d s.cur
    rw [ctlNext_me, Core.issuedCtl_pc, kept, Core.src2_core srcs, Core.commitPops_pc]
  case mem => rfl
  case entries =>
    have queues : y.queues = s.me.queues := Core.src2_core srcs ▸ (s.me.keepsBut_commitPops (.reg 0) _).queues
    have queue : ((withMe s y).core d).queues = (s.core d).queues := by
      by_cases same : d = s.cur
      · subst same; exact (congrArg Core.queues (withMe_me s y)).trans queues
      · rw [withMe, State.core_setCore_ne _ _ _ _ same]
    rw [ctlNext_queues, State.core_modCore]
    simp [Core.addEntry, queue]
  case join =>
    intro d ra f y s1 s2 t k0 k1 k2 src aligned h0 h1 h2 o0 o1 o2 sound free alone c queue released count
    have joining : s.joining ra f y t k0 k1 k2 := ⟨src, aligned, ⟨s1, s2, h0, h1, h2⟩, o0, o1, o2, sound, free, alone, released⟩
    have counted (u : State) : count u = u.joined s.cur y k1 d (t.readWord k1 - 1) := rfl
    clear_value count
    refine ⟨exec_join_zero joining, fun zero one => ?_,
      fun one sound0 sound2 alone reads q u bytes k r queue record keys room place free free' => ?_⟩
    · rw [counted]
      exact exec_join_more joining zero one
    · rw [counted]
      exact exec_join_last joining one sound0 sound2 alone reads queue record keys room place free free'

end Sys2Proof.Machine
end

section
/-! SUPPORT. Context slots: the words of a block that is written, what a save leaves, and what a restore gives back (R376 to R378). -/
namespace Sys2Proof.Machine

/-! ## Words in a list of bytes -/

/-- The bytes of a list of words. -/
def wordBytes (l : List Word) : List Byte := l.flatMap fun v => leBytes 8 v.toNat

section
variable {a b : List Byte} {l : List Word} {i : Nat}

@[simp] theorem length_wordBytes (l : List Word) : (wordBytes l).length = 8 * l.length := by
  simp [wordBytes, List.length_flatMap, Nat.mul_comm]
theorem wordAt_append_left (h : i + 8 ≤ a.length) : wordAt (a ++ b) i = wordAt a i := by
  have short : 8 ≤ (a.drop i).length := by rw [List.length_drop]; omega
  rw [wordAt, at_, List.drop_append_of_le_length (by omega), List.take_append_of_le_length short]
  rfl
theorem wordAt_append_right {n : Nat} (h : a.length = n) : wordAt (a ++ b) (n + i) = wordAt b i := by
  rw [wordAt, at_, ← h, ← List.drop_drop, List.drop_left]
  rfl
theorem wordAt_leBytes (v : Word) (b : List Byte) : wordAt (leBytes 8 v.toNat ++ b) 0 = v := by
  have first : (leBytes 8 v.toNat ++ b).take 8 = leBytes 8 v.toNat := List.take_left' (length_leBytes 8 _)
  rw [wordAt, at_, List.drop_zero, first, leNat_leBytes, show 256 ^ 8 = 2 ^ 64 by rfl, Nat.mod_eq_of_lt v.isLt, BitVec.ofNat_toNat,
    BitVec.setWidth_eq]
/-- Word `i` of a list of words. -/
theorem wordAt_wordBytes (h : i < l.length) (b : List Byte) : wordAt (wordBytes l ++ b) (8 * i) = l[i] := by
  induction l generalizing i with
  | nil => cases h
  | cons v r ih =>
    have head : wordBytes (v :: r) ++ b = leBytes 8 v.toNat ++ (wordBytes r ++ b) := by simp [wordBytes]
    rw [head]
    cases i with
    | zero => exact wordAt_leBytes v _
    | succ i =>
      rw [show 8 * (i + 1) = 8 + 8 * i by omega, wordAt_append_right (length_leBytes 8 _)]
      exact ih (Nat.lt_of_succ_lt_succ h)

end

section
variable (s : State)

/-- A word inside a run that has been written. -/
theorem State.readWord_write (k i : Nat) (bs : List Byte) (h : i + 8 ≤ bs.length) : (s.write k bs).readWord (k + i) = wordAt bs i := by
  have bytes : (s.write k bs).readBytes (k + i) 8 = (bs.drop i).take 8 := by
    refine List.ext_getElem (by simp [State.readBytes, upto]; omega) fun j h1 h2 => ?_
    have inside : i + j < bs.length := by simp [State.readBytes, upto] at h1; omega
    simp [State.readBytes, upto, Nat.add_assoc, s.readByte_write k (i + j) bs inside]
  rw [State.readWord, State.readNat, bytes]
  rfl
theorem State.readWord_writeNat (k v : Nat) : (s.writeNat k 8 v).readWord k = BitVec.ofNat 64 v := by
  rw [State.readWord, State.readNat_writeNat]
  exact BitVec.eq_of_toNat_eq (by simp)
/-- A word is read from its bytes alone. -/
theorem State.readWord_congr {s t : State} (h : ∀ j, t.readByte j = s.readByte j) (k : Nat) : t.readWord k = s.readWord k := by
  rw [State.readWord, State.readWord, State.readNat_congr h]
/-- A byte depends on memory and on the wake counts. -/
theorem State.readByte_of_wakes {s t : State} (mem : t.mem = s.mem) (wakes : ∀ c, (t.core c).wakes = (s.core c).wakes) (j : Nat) :
    t.readByte j = s.readByte j := by
  have epoch : t.epoch j = s.epoch j := by
    unfold State.epoch
    split
    · exact wakes _
    · rfl
  rw [State.readByte, State.readByte, mem, epoch]

end

/-! ## A save that begins -/

/-- What the start of a save changes before the first word of the slot: cores, of which it keeps the wake counts and CSRs. -/
structure State.stoppedMills (s t : State) : Prop where
  form : ∃ l, t = { s with cores := l }
  wakes : ∀ c, (t.core c).wakes = (s.core c).wakes
  csr : ∀ c, (t.core c).csr = (s.core c).csr

section
variable {s t u : State}

theorem State.stoppedMills.refl (s : State) : s.stoppedMills s := ⟨⟨_, rfl⟩, fun _ => rfl, fun _ => rfl⟩
theorem State.stoppedMills.trans (h : s.stoppedMills t) (g : t.stoppedMills u) : s.stoppedMills u where
  form := by
    obtain ⟨_, rfl⟩ := h.form
    obtain ⟨_, rfl⟩ := g.form
    exact ⟨_, rfl⟩
  wakes c := (g.wakes c).trans (h.wakes c)
  csr c := (g.csr c).trans (h.csr c)

variable (s)

theorem State.stoppedMills_modCore (c : Nat) {f : Core → Core} (wakes : ∀ x, (f x).wakes = x.wakes) (csr : ∀ x, (f x).csr = x.csr) :
    s.stoppedMills (s.modCore c f) :=
  ⟨⟨_, rfl⟩, s.core_modCore_keeps (g := Core.wakes) wakes c, s.core_modCore_keeps (g := Core.csr) csr c⟩
theorem State.stoppedMills_freeMembers (c : Nat) (l : List Nat) : s.stoppedMills (s.freeMembers c l) := by
  unfold State.freeMembers
  induction l generalizing s with
  | nil => exact .refl s
  | cons m r ih =>
    refine State.stoppedMills.trans ?_ (ih _)
    exact s.stoppedMills_modCore m (fun _ => rfl) fun _ => rfl
theorem State.stoppedMills_releaseChains (c : Nat) : s.stoppedMills (s.releaseChains c) := by
  unfold State.releaseChains
  generalize [4, 5] = l
  induction l generalizing s with
  | nil => exact .refl s
  | cons q r ih =>
    refine State.stoppedMills.trans ?_ (ih _)
    dsimp only
    split
    · exact (s.stoppedMills_freeMembers c _).trans (State.stoppedMills_modCore _ c (fun _ => rfl) fun _ => rfl)
    · exact .refl s
theorem State.stoppedMills_stopMill (c : Nat) : s.stoppedMills (s.modCore c Core.stopMill) :=
  s.stoppedMills_modCore c (fun x => by unfold Core.stopMill; split <;> rfl) fun x => by unfold Core.stopMill; split <;> rfl

end

/-! ## A slot -/

theorem State.stoppedMills.slotKey {s t : State} (h : s.stoppedMills t) (c : Nat) : t.slotKey c = s.slotKey c := by
  obtain ⟨_, rfl⟩ := h.form
  rfl
theorem State.stoppedMills.readByte {s t : State} (h : s.stoppedMills t) (j : Nat) : t.readByte j = s.readByte j := by
  refine State.readByte_of_wakes ?_ h.wakes j
  obtain ⟨_, rfl⟩ := h.form
  rfl

@[simp] theorem State.slot_modSlot (s : State) (k r : Nat) (f : CtxSlot → CtxSlot) :
    ((s.modSlot k r f).part k).slot r = f ((s.part k).slot r) := by
  simp [State.modSlot, Part.slot]
@[simp] theorem State.readByte_modSlot (s : State) (k r : Nat) (f : CtxSlot → CtxSlot) (j : Nat) :
    (s.modSlot k r f).readByte j = s.readByte j := State.readByte_modPart ..
@[simp] theorem State.readWord_modSlot (s : State) (k r : Nat) (f : CtxSlot → CtxSlot) (j : Nat) :
    (s.modSlot k r f).readWord j = s.readWord j := State.readWord_congr (s.readByte_modSlot k r f) j
@[simp] theorem State.core_modSlot (s : State) (k r : Nat) (f : CtxSlot → CtxSlot) (c : Nat) : (s.modSlot k r f).core c = s.core c := rfl

/-! ## The state in which a save finds its slot -/

section
variable {s : State} {c k r : Nat} (rank : s.rankOf c = some (k, r))
include rank

variable {cause : Cause} (saving : (s.core c).mode = .saving cause)
include saving

section
variable (fresh : ((s.part k).slot r).state ≠ 1 ∨ ((s.part k).slot r).home ≠ c)
include fresh

theorem exec_contextSave_waits (busy : s.quiet c = false) : exec (.contextSave c) s = .next s := by
  show execContextSave c s = _
  simp only [execContextSave, saving, rank, if_pos fresh, busy, Bool.false_eq_true, if_false]
theorem exec_contextSave_starts (quiet : s.quiet c = true) : exec (.contextSave c) s = .next (s.startSave c k r cause) := by
  show execContextSave c s = _
  simp only [execContextSave, saving, rank, if_pos fresh, quiet, if_true]

end

section
variable (state : ((s.part k).slot r).state = 1) (home : ((s.part k).slot r).home = c)
include state home

/-- The bytes of the block that is next (R376). -/
def State.nextBlock (s : State) (c : Nat) (l : CtxSlot) : List Byte :=
  if l.written < 256 then s.headBlock c l l.written else s.readBytes (spadKey c (256 * (l.written - 256))) 256
/-- The block that is next, written (R377). -/
def State.wroteBlock (s : State) (c : Nat) (l : CtxSlot) : State :=
  { s.write (l.at_ + 256 * l.written) (s.nextBlock c l) with draws := s.draws + 1 }

/-- The last block written, and the slot VALID (R377). -/
def State.wroteLast (s : State) (c k r : Nat) (l : CtxSlot) : State :=
  ((s.wroteBlock c l).writeNat l.at_ 8 2).modSlot k r fun l =>
    { l with written := 8448, state := 2, image := some (s.core c), bad := s.badOffsets c }
/-- A core whose image is complete: saved, and DRAINED (R177, R377). -/
def Core.savedNow (x : Core) : Core := { x with mode := .saved, csr := { x.csr with preempt := setBit x.csr.preempt 1 } }

theorem exec_contextSave_block (more : ((s.part k).slot r).written + 1 < 8448) :
    exec (.contextSave c) s = .next ((s.wroteBlock c ((s.part k).slot r)).modSlot k r fun l => { l with written := l.written + 1 }) := by
  have held : ¬ (((s.part k).slot r).state ≠ 1 ∨ ((s.part k).slot r).home ≠ c) := by simp [state, home]
  have block : s.saveBlock c k r ((s.part k).slot r) =
      (s.wroteBlock c ((s.part k).slot r)).modSlot k r fun l => { l with written := l.written + 1 } := by
    simp only [State.saveBlock, slotBlocks, more.ne, if_false]
    rfl
  have goesOn : (((s.wroteBlock c ((s.part k).slot r)).modSlot k r fun l => { l with written := l.written + 1 }).part k).slot r =
      { (s.part k).slot r with written := ((s.part k).slot r).written + 1 } := State.slot_modSlot ..
  have open_ := (congrArg CtxSlot.state goesOn).trans state
  show execContextSave c s = _
  simp only [execContextSave, saving, rank, if_neg held, block, open_, OfNat.one_ne_ofNat, if_false]
theorem exec_contextSave_last (last : ((s.part k).slot r).written + 1 = 8448) :
    exec (.contextSave c) s = .next ((s.wroteLast c k r ((s.part k).slot r)).modCore c Core.savedNow) := by
  have held : ¬ (((s.part k).slot r).state ≠ 1 ∨ ((s.part k).slot r).home ≠ c) := by simp [state, home]
  have block : s.saveBlock c k r ((s.part k).slot r) = s.wroteLast c k r ((s.part k).slot r) := by
    simp only [State.saveBlock, slotBlocks, last, if_true]
    rfl
  have valid : (((s.wroteLast c k r ((s.part k).slot r)).part k).slot r).state = 2 :=
    congrArg CtxSlot.state (State.slot_modSlot ..)
  show execContextSave c s = _
  simp only [execContextSave, saving, rank, if_neg held, block, valid, if_true]
  rfl
/-- A core that is being saved writes its next block, and with the last one VALID (R377). -/
theorem exec_contextSave_writes (open_ : ((s.part k).slot r).written < 8448) : ∃ t, exec (.contextSave c) s = .next t ∧
    (∀ a, (((s.part k).slot r).written + 1 = 8448 → ¬ (((s.part k).slot r).at_ ≤ a ∧ a < ((s.part k).slot r).at_ + 8)) →
      t.readByte a = (s.wroteBlock c ((s.part k).slot r)).readByte a) ∧
    (((s.part k).slot r).written + 1 < 8448 →
      ((t.part k).slot r).written = ((s.part k).slot r).written + 1 ∧ (t.core c).mode = (s.core c).mode) ∧
    (((s.part k).slot r).written + 1 = 8448 → t.readWord ((s.part k).slot r).at_ = 2 ∧ ((t.part k).slot r).state = 2 ∧
      ((t.part k).slot r).image = some (s.core c) ∧ (t.core c).mode = .saved ∧ bitOf (t.core c).csr.preempt 1 = true) := by
  rcases Nat.lt_or_eq_of_le (Nat.succ_le_of_lt open_) with more | last
  case inl =>
    refine ⟨_, exec_contextSave_block rank saving state home more, fun a _ => State.readByte_modSlot .., fun _ => ⟨?_, rfl⟩,
      fun last => absurd last more.ne⟩
    rw [State.slot_modSlot]
    rfl
  case inr =>
    have bytes (a : Nat) : ((s.wroteLast c k r ((s.part k).slot r)).modCore c Core.savedNow).readByte a =
        ((s.wroteBlock c ((s.part k).slot r)).writeNat ((s.part k).slot r).at_ 8 2).readByte a :=
      (State.readByte_modCore _ _ _ _ (by rfl)).trans (State.readByte_modSlot ..)
    have slot : (((s.wroteLast c k r ((s.part k).slot r)).modCore c Core.savedNow).part k).slot r =
        { (s.part k).slot r with written := 8448, state := 2, image := some (s.core c), bad := s.badOffsets c } := by
      change ((s.wroteLast c k r ((s.part k).slot r)).part k).slot r = _
      rw [State.wroteLast, State.slot_modSlot]
      rfl
    refine ⟨_, exec_contextSave_last rank saving state home last, fun a outside => ?outside, fun more => absurd last more.ne, fun _ =>
      ⟨?valid, congrArg CtxSlot.state slot, congrArg CtxSlot.image slot, ?saved, ?drained⟩⟩
    case outside =>
      have := outside last
      rw [bytes, State.readByte_writeNat_outside _ _ (by omega)]
    case valid => rw [State.readWord_congr bytes, State.readWord_writeNat]; rfl
    case saved => rw [State.core_modCore]; rfl
    case drained =>
      rw [State.core_modCore]
      exact (bitOf_setBit _ (by decide)).trans (by simp)
end
end

/-- The slot of a save that begins: SAVING, with its header, and no block of its image yet (R376, R377). -/
theorem State.startSave_begins (s : State) (c k r : Nat) (cause : Cause) :
    (s.startSave c k r cause).readWord (s.slotKey c) = 1 ∧
    (∀ a, ¬ (s.slotKey c ≤ a ∧ a < s.slotKey c + 8) → (s.startSave c k r cause).readByte a = s.readByte a) ∧
    ∃ slice rings gang, (((s.startSave c k r cause).part k).slot r) =
      { state := 1, rank := r, cause := BitVec.ofNat 64 cause.code, tenant := (s.core c).csr.tenant, slice := slice, image := none
        rings := rings, written := 0, home := c, gang := gang, at_ := s.slotKey c, bad := [] } := by
  have released := s.stoppedMills_releaseChains c
  have stopped := released.trans (State.stoppedMills_stopMill _ c)
  have key := released.slotKey c
  unfold State.startSave
  dsimp only
  rw [key]
  generalize (s.releaseChains c).modCore c Core.stopMill = u at stopped
  have tenant : ((u.writeNat (s.slotKey c) 8 1).core c).csr.tenant = (s.core c).csr.tenant := congrArg Csrs.tenant (stopped.csr c)
  rw [tenant]
  refine ⟨?word, fun a outside => ?bytes, _, _, _, State.slot_modSlot ..⟩
  case word => rw [State.readWord_modSlot, State.readWord_writeNat]; rfl
  case bytes => rw [State.readByte_modSlot, State.readByte_writeNat_outside _ _ (by omega), stopped.readByte]

/-! ## The words of a block -/

section
variable {s : State} {c : Nat} {l : CtxSlot}

theorem State.headBlock_header : s.headBlock c l 0 = wordBytes [BitVec.ofNat 64 l.state, BitVec.ofNat 64 l.rank, l.cause,
    l.slice.setWidth 64, l.tenant] ++ s.freeBytes 216 := by
  simp [State.headBlock, wordBytes]
theorem State.headBlock_scalar : s.headBlock c l 1 =
    wordBytes ((s.core c).ctl.s.toList.drop 1 ++ (s.core c).ctl.shadow.toList.take 1) ++ s.freeBytes 0 := by
  simp [State.headBlock, wordBytes]
theorem State.headBlock_masks : s.headBlock c l 11 =
    wordBytes ((s.core c).vec.k.toList ++ (s.core c).vec.a.toList) ++ s.freeBytes 96 := by
  simp [State.headBlock, wordBytes]
theorem State.headBlock_lanes (v : Fin 32) (h : Fin 2) : s.headBlock c l (16 + 2 * v.val + h.val) =
    wordBytes ((upto 32).map fun i => (s.core c).vec.lane v (32 * h.val + i)) := by
  have inside : 16 ≤ 16 + 2 * v.val + h.val ∧ 16 + 2 * v.val + h.val < 80 := by omega
  have reg : (16 + 2 * v.val + h.val - 16) / 2 = v.val := by omega
  have half : (16 + 2 * v.val + h.val - 16) % 2 = h.val := by omega
  simp only [State.headBlock, reg, half, inside, and_self, if_true, wordBytes, List.flatMap_map, Nat.mul_comm 32,
    Fin.ofNat_val_eq_self]
  rw [if_neg (by omega)]
theorem State.length_headBlock (b : Nat) : (s.headBlock c l b).length = 256 := by
  have free (n : Nat) : (s.freeBytes n).length = n := by simp [State.freeBytes, upto]
  have words (l : List Word) : (l.flatMap fun v => leBytes 8 v.toNat).length = 8 * l.length := length_wordBytes l
  unfold State.headBlock
  dsimp only
  split
  · simp only [List.length_append, length_leBytes, free]
  · split
    · simp [List.length_flatMap, upto]
    · rw [List.length_append, free]
      split
      · simp only [List.length_append, words]
        simp
      · split
        · simp only [words]
          simp
        · split
          · simp only [List.length_append, words]
            simp
          · rfl
theorem State.length_nextBlock : (s.nextBlock c l).length = 256 := by
  unfold State.nextBlock
  split
  · exact State.length_headBlock _
  · simp [State.readBytes, upto]
/-- The words that a block begins with stand in it one after another. -/
theorem State.readWord_wroteBlock {ws : List Word} {rest : List Byte} (bytes : s.nextBlock c l = wordBytes ws ++ rest) {i : Nat}
    (h : i < ws.length) : (s.wroteBlock c l).readWord (l.at_ + 256 * l.written + 8 * i) = ws[i] := by
  have fits : 8 * i + 8 ≤ (s.nextBlock c l).length := by rw [bytes, List.length_append, length_wordBytes]; omega
  have write : (s.wroteBlock c l).readWord (l.at_ + 256 * l.written + 8 * i) = wordAt (s.nextBlock c l) (8 * i) :=
    s.readWord_write _ _ _ fits
  rw [write, bytes, wordAt_wordBytes h]
theorem State.readByte_wroteBlock_outside {a : Nat} (h : ¬ (l.at_ + 256 * l.written ≤ a ∧ a < l.at_ + 256 * l.written + 256)) :
    (s.wroteBlock c l).readByte a = s.readByte a :=
  s.readByte_write_outside _ _ _ (by rw [State.length_nextBlock]; omega)
/-- A block of the scratchpad part is the scratchpad's bytes. -/
theorem State.readByte_wroteBlock_spad (part : 256 ≤ l.written) {i : Nat} (h : i < 256) :
    (s.wroteBlock c l).readByte (l.at_ + 256 * l.written + i) = s.readByte (spadKey c (256 * (l.written - 256)) + i) := by
  have bytes : s.nextBlock c l = s.readBytes (spadKey c (256 * (l.written - 256))) 256 := if_neg (by omega)
  have write : (s.wroteBlock c l).readByte (l.at_ + 256 * l.written + i) = (s.nextBlock c l)[i]'(by rw [State.length_nextBlock]; exact h) :=
    s.readByte_write _ _ _ _
  simp only [write, bytes]
  simp [State.readBytes, upto]

end

/-! ## A restore -/

section
variable {s : State} {c k r : Nat} (rank : s.rankOf c = some (k, r))
include rank

/-- A launch without RESUME restores nothing, and so does a core that is DRAINED (R177). -/
theorem exec_contextRestore_closed
    (closed : (∀ n, (s.part k).launch = some n → n.resume = false) ∨ (s.core c).drained = true) :
    exec (.contextRestore c) s = .next s := by
  show execContextRestore c s = _
  rcases closed with fresh | drained
  case inl =>
    cases launch : (s.part k).launch with
    | none => simp [execContextRestore, rank, launch]
    | some n => simp [execContextRestore, rank, launch, fresh n launch]
  case inr => simp [execContextRestore, rank, drained]
theorem exec_contextRestore_opens {n : Launch} (started : (s.part k).started = true) (launch : (s.part k).launch = some n)
    (resume : n.resume = true) (mode : (s.core c).mode = .normal) (task : (s.core c).task = false)
    (running : (s.core c).ctl.running = false) (drained : (s.core c).drained = false) :
    exec (.contextRestore c) s = .next (s.restoreSlot c k r ((s.part k).slot r)) := by
  show execContextRestore c s = _
  simp [execContextRestore, rank, started, launch, resume, mode, task, running, drained]

end

/-- The state in which a core whose context is restored acts as `kret` would (R378). -/
def State.imageBack (s : State) (c k r : Nat) (l : CtxSlot) (img : Core) : State :=
  (((l.bad.foldl (fun s o => s.poisonGranule (spadKey c o))
    (s.write (spadKey c 0) (s.readBytes (l.at_ + 0x1_0000) 0x20_0000))).modCore c fun x => x.restored img (l.movedTo (s.gang c))).writeNat
      l.at_ 8 0).modSlot k r fun _ => CtxSlot.empty

section
variable {s w : State} {c k r : Nat} {l : CtxSlot}

theorem State.restoreSlot_valid (state : l.state = 2) {img : Core} (image : l.image = some img)
    (ret : (s.imageBack c k r l img).returnKernel c = .ok w) : s.restoreSlot c k r l = w := by
  have back : (((l.bad.foldl (fun s o => s.poisonGranule (spadKey c o))
      (s.write (spadKey c 0) (s.readBytes (l.at_ + 0x1_0000) Config.spadSize))).modCore c fun x =>
        x.restored img (l.movedTo (s.gang c))).clearSlot k r l).returnKernel c = .ok w := ret
  simp only [State.restoreSlot, state, image, back]
theorem State.restoreSlot_rings (state : l.state = 3) : s.restoreSlot c k r l =
    (s.modCore c fun x => l.rings.foldl (fun y g => y.restoreRing g.1 g.2) x).clearSlot k r l := by
  simp only [State.restoreSlot, state]
theorem State.restoreSlot_nothing (valid : l.state ≠ 2) (rings : l.state ≠ 3) : s.restoreSlot c k r l = s := by
  unfold State.restoreSlot
  split
  · contradiction
  · contradiction
  · rfl
theorem Core.find_restoreRing (x : Core) (n : Nat) (g : Ring) : ∃ h, (x.restoreRing n g).rings.find n = some h ∧ h.base = g.base ∧
    h.size = g.size ∧ h.claimed = g.claimed ∧ h.arrived = g.arrived ∧ h.next = g.next :=
  ⟨_, Tab.find_put_self .., rfl, rfl, rfl, rfl, rfl⟩

end

/-- Settles O43: a block is one write of its bytes, of which the words of R376 are the first; a restore is the state that the clause
spells out. -/
theorem contexts : Obligations.Contexts := by
  unfold Obligations.Contexts
  intro s c k r rank x l
  refine ⟨fun cause saving fresh quiet => ⟨_, exec_contextSave_starts rank saving fresh quiet, ?start⟩,
    fun cause saving fresh busy => exec_contextSave_waits rank saving fresh busy, fun cause saving state home open_ => ?block,
    ?closed, ?restore⟩
  case block =>
    obtain ⟨t, run, bytes, more, last⟩ := exec_contextSave_writes rank saving state home open_
    replace bytes (a : Nat) (apart : l.written + 1 = 8448 → ¬ (l.at_ ≤ a ∧ a < l.at_ + 8)) :
      t.readByte a = (s.wroteBlock c l).readByte a := bytes a apart
    have words {ws : List Word} {rest : List Byte} (head : l.written < 256) (is : s.headBlock c l l.written = wordBytes ws ++ rest)
        {i : Nat} (h : i < ws.length) : t.readWord (l.at_ + 256 * l.written + 8 * i) = ws[i] := by
      rw [State.readWord_congr (fun a => bytes a fun last => absurd last (by omega))]
      exact State.readWord_wroteBlock ((if_pos head).trans is) h
    refine ⟨t, run, fun is => ?header, fun n named is => ?scalar, fun is => ⟨fun n => ?mask, fun n => ?address⟩,
      fun v i small => ⟨fun is => ?low, fun is => ?high⟩, fun part i small => ?spad, fun a outside apart => ?outside, more, last⟩
    case header =>
      have block : s.headBlock c l l.written = _ := (congrArg (s.headBlock c l) is).trans State.headBlock_header
      have state' : BitVec.ofNat 64 l.state = 1 := congrArg (BitVec.ofNat 64) state
      have word {i : Nat} (h : i < 5) := words (i := i) (by omega) block h
      exact ⟨(word (i := 0) (by decide)).trans state', word (i := 1) (by decide), word (i := 2) (by decide), word (i := 3) (by decide),
        word (i := 4) (by decide)⟩
    case scalar =>
      have block : s.headBlock c l l.written = _ := (congrArg (s.headBlock c l) is).trans State.headBlock_scalar
      have first : n.val ≠ 0 := fun zero => named (Fin.ext zero)
      refine (words (by omega) block (i := n.val - 1) (by simp; omega)).trans ?_
      rw [List.getElem_append_left (by simp; omega), List.getElem_drop]
      simp [show 1 + (n.val - 1) = n.val by omega, x]
    case mask =>
      have block : s.headBlock c l l.written = _ := (congrArg (s.headBlock c l) is).trans State.headBlock_masks
      refine (words (by omega) block (i := n.val) (by simp; omega)).trans ?_
      simp [x]
    case address =>
      have block : s.headBlock c l l.written = _ := (congrArg (s.headBlock c l) is).trans State.headBlock_masks
      have place : l.at_ + 256 * l.written + 64 + 8 * n.val = l.at_ + 256 * l.written + 8 * (8 + n.val) := by omega
      rw [place]
      refine (words (by omega) block (i := 8 + n.val) (by simp; omega)).trans ?_
      simp [x]
    case low =>
      have block : s.headBlock c l l.written = wordBytes _ := (congrArg (s.headBlock c l) is).trans (State.headBlock_lanes v 0)
      refine (words (by omega) (block.trans (List.append_nil _).symm) (by simpa [upto] using small)).trans ?_
      simp [upto, x]
    case high =>
      have block : s.headBlock c l l.written = wordBytes _ := 
        (congrArg (s.headBlock c l) (is.trans (by simp; omega))).trans (State.headBlock_lanes v 1)
      refine (words (by omega) (block.trans (List.append_nil _).symm) (by simpa [upto] using small)).trans ?_
      simp [upto, x]
    case spad =>
      rw [bytes _ (by omega), State.readByte_wroteBlock_spad part small]
    case outside => rw [bytes a apart, State.readByte_wroteBlock_outside outside]
  case start =>
    obtain ⟨word, bytes, slice, rings, gang, slot⟩ := s.startSave_begins c k r cause
    dsimp only
    rw [slot]
    exact ⟨word, bytes, rfl, rfl, rfl, rfl, rfl, rfl, rfl⟩
  case closed => exact exec_contextRestore_closed rank
  case restore =>
    intro n started launch resume mode task running drained
    have opens := exec_contextRestore_opens rank started launch resume mode task running drained
    refine ⟨fun img state image w ret => ?valid, fun state => ⟨_, opens, ?rings⟩, fun valid rings => ?nothing⟩
    case valid => rw [opens, State.restoreSlot_valid state image ret]
    case rings =>
      rw [State.restoreSlot_rings state]
      refine ⟨congrArg CtxSlot.state (State.slot_modSlot ..), ?_, fun n g one => ?_⟩
      · rw [State.clearSlot, State.readWord_modSlot, State.readWord_writeNat]; rfl
      · have core : ((s.modCore c fun x => l.rings.foldl (fun y g => y.restoreRing g.1 g.2) x).clearSlot k r l).core c =
            (s.core c).restoreRing n g := by
          rw [State.clearSlot, State.core_modSlot, State.writeNat, State.write_core, State.core_modCore, one]
          rfl
        rw [core]
        exact Core.find_restoreRing _ n g
    case nothing => rw [opens, State.restoreSlot_nothing valid rings]

end Sys2Proof.Machine
end

section
/-! SUPPORT. What the reset of a partition's cores leaves (R218, R386, R401), and what requests on all of its cores come to (R176, R177). -/
namespace Sys2Proof.Machine

/-! ## Changes of several cores -/

/-- Cores changed one after another: a core among them has whatever every change gives it, if a change keeps what that rests on. -/
theorem State.foldl_modCore_gains {f : Core → Core} {c : Nat} {Q P : Core → Prop} (keep : ∀ x, Q x → Q (f x))
    (gain : ∀ x, Q x → P (f x)) (l : List Nat) (s : State) (start : Q (s.core c)) (due : c ∈ l ∨ P (s.core c)) :
    P ((l.foldl (fun s c => s.modCore c f) s).core c) := by
  induction l generalizing s with
  | nil => exact due.resolve_left List.not_mem_nil
  | cons d r ih =>
    by_cases same : c = d
    case pos =>
      subst same
      refine ih _ ?_ (.inr ?_)
      · rw [State.core_modCore]; exact keep _ start
      · rw [State.core_modCore]; exact gain _ start
    case neg =>
      have other := s.core_modCore_ne d c f same
      refine ih _ (by rwa [other]) ?_
      rw [other]
      exact due.imp_left fun mem => (List.mem_cons.mp mem).resolve_left same

/-! ## What handles that are abandoned leave alone -/

/-- A change at the homes of tiles and of what is under way: memory, partitions, packages and the CSRs of every core stay. -/
structure State.atHomes (s t : State) : Prop where
  mem : t.mem = s.mem
  parts : t.parts = s.parts
  pkgs : t.pkgs = s.pkgs
  csr : ∀ c, (t.core c).csr = (s.core c).csr

section
variable {s t u : State}

theorem State.atHomes.refl (s : State) : s.atHomes s := ⟨rfl, rfl, rfl, fun _ => rfl⟩
theorem State.atHomes.trans (h : s.atHomes t) (g : t.atHomes u) : s.atHomes u :=
  ⟨g.mem.trans h.mem, g.parts.trans h.parts, g.pkgs.trans h.pkgs, fun c => (g.csr c).trans (h.csr c)⟩
theorem State.atHomes.foldl {α : Type} {f : State → α → State} (h : ∀ (s : State) (a : α), s.atHomes (f s a)) (l : List α)
    (s : State) : s.atHomes (l.foldl f s) := by
  induction l generalizing s with
  | nil => exact .refl s
  | cons a r ih => exact (h s a).trans (ih _)

variable (s)

theorem State.atHomes_modCore (c : Nat) {f : Core → Core} (h : ∀ x, (f x).csr = x.csr) : s.atHomes (s.modCore c f) :=
  ⟨rfl, rfl, rfl, s.core_modCore_keeps (g := Core.csr) h c⟩
theorem State.atHomes_modRing (c r : Nat) (f : Ring → Ring) : s.atHomes (s.modRing c r f) :=
  s.atHomes_modCore c fun x => by split <;> rfl
theorem State.atHomes_modTile (t : TileRef) (f : Tile → Tile) : s.atHomes (s.modTile t f) := s.atHomes_modCore t.core fun _ => rfl
theorem State.atHomes_unpark (l : List Nat) : s.atHomes (s.unpark l) := ⟨rfl, rfl, rfl, fun _ => rfl⟩
theorem State.atHomes_endReader (d : Nat) (g : Ring) (r : Reader) : s.atHomes (s.endReader d g r) := by
  unfold State.endReader
  split
  · exact s.atHomes_modCore r.core fun _ => rfl
  · split
    · exact s.atHomes_modCore r.core fun _ => rfl
    · exact .refl s
theorem State.atHomes_endRing (c r : Nat) : s.atHomes (s.endRing c r) := by
  unfold State.endRing
  split
  case h_1 g _ =>
    split
    · have dropped := s.atHomes_modCore c (f := fun x => x.dropRing r g) fun _ => rfl
      exact dropped.trans (.foldl (fun t q => t.atHomes_endReader c g q) _ _)
    · exact .refl s
  case h_2 => exact .refl s
theorem State.atHomes_abandon (t : TileRef) : s.atHomes (s.abandon t) := by
  have arrived : s.atHomes (s.arrive t) := by
    unfold State.arrive
    split
    · exact s.atHomes_modRing ..
    · exact .refl s
  unfold State.abandon State.endFill
  dsimp only
  split
  case isTrue =>
    have freed := (arrived.trans (State.atHomes_unpark _ (s.tileOf t).parked)).trans (State.atHomes_modTile _ t fun y =>
      if y.see = 0 then y.freed else { y with st := .poisoned, fill := false, parked := [] })
    unfold State.endRingOf
    split
    · exact freed.trans (State.atHomes_endRing ..)
    · exact freed
  case isFalse => exact .refl s
theorem State.atHomes_abandonAll (l : List Handle) : s.atHomes (s.abandonAll l) := by
  refine .foldl (fun t h => ?_) l s
  split
  · exact t.atHomes_abandon _
  · exact .refl t
theorem State.atHomes_dropTraffic (l : List Nat) : s.atHomes (s.dropTraffic l) where
  mem := rfl
  parts := rfl
  pkgs := rfl
  csr c := by
    simp only [State.core, State.dropTraffic, Tab.find_mapVal]
    cases s.cores.find c <;> rfl

/-! ## Cores that are reset -/

/-- Cores without their traffic, before each of them is cleared. -/
def State.quieted (s : State) (l : List Nat) : State :=
  ((l.foldl (fun s c => s.abandonAll (s.core c).fills) s).abandonAll (s.mailOf l)).dropTraffic l
theorem State.resetCores_eq (l : List Nat) : s.resetCores l = l.foldl (fun s c => s.modCore c Core.cleared) (s.quieted l) := rfl
theorem State.atHomes_quieted (l : List Nat) : s.atHomes (s.quieted l) :=
  ((State.atHomes.foldl (fun t c => t.atHomes_abandonAll (t.core c).fills) l s).trans (State.atHomes_abandonAll _ _)).trans
    (State.atHomes_dropTraffic _ l)
theorem State.resetCores_keeps (l : List Nat) : (s.resetCores l).mem = s.mem ∧ (s.resetCores l).parts = s.parts ∧
    (s.resetCores l).pkgs = s.pkgs := by
  have quieted := s.atHomes_quieted l
  rw [State.resetCores_eq]
  exact ⟨(foldl_keeps (f := fun s c => s.modCore c Core.cleared) (g := State.mem) (fun _ _ => rfl) _ _).trans quieted.mem,
    (foldl_keeps (f := fun s c => s.modCore c Core.cleared) (g := State.parts) (fun _ _ => rfl) _ _).trans quieted.parts,
    (foldl_keeps (f := fun s c => s.modCore c Core.cleared) (g := State.pkgs) (fun _ _ => rfl) _ _).trans quieted.pkgs⟩

end

/-- A core that has been reset: no task, no stream, empty queues, its cycle counter as it was (R386). -/
structure Core.wasReset (cycle : Word) (x : Core) : Prop where
  task : x.task = false
  running : x.ctl.running = false
  cycle : x.csr.cycle = cycle
  queues : ∀ q ∈ x.queues.toList, q.entries = []

theorem Core.cleared_wasReset (x : Core) : x.cleared.wasReset x.csr.cycle where
  task := rfl
  running := rfl
  cycle := rfl
  queues q mem := by
    have reset : q ∈ List.replicate 6 EQueue.reset := mem
    rw [List.eq_of_mem_replicate reset]
    rfl
theorem State.core_resetCores (s : State) {l : List Nat} {c : Nat} (mem : c ∈ l) :
    ((s.resetCores l).core c).wasReset (s.core c).csr.cycle := by
  rw [State.resetCores_eq]
  refine State.foldl_modCore_gains (f := Core.cleared) (P := Core.wasReset (s.core c).csr.cycle)
    (Q := fun x => x.csr.cycle = (s.core c).csr.cycle) (fun _ same => same) (fun x same => ?_) l _ ?_ (.inl mem)
  · exact same ▸ x.cleared_wasReset
  · exact congrArg Csrs.cycle ((s.atHomes_quieted l).csr c)

end Sys2Proof.Machine
end

section
/-! SUPPORT. Requests on a partition, its entries, the reset of a function, submissions and held messages, a lemma for each outcome
(R176, R379, R386, R398 to R401, R406). -/
namespace Sys2Proof.Machine

/-! ## Requests on the cores of a partition (R176, R177) -/

/-- A core that a request reaches. -/
def Core.asked (x : Core) : Core := Core.drain (x.withCsr fun r => { r with preempt := setBit r.preempt 0 })
/-- A core whose request is withdrawn. -/
def Core.unasked (x : Core) : Core :=
  { x with
    csr := { x.csr with preempt := preemptValue x.csr.preempt (clearBit x.csr.preempt 0) }
    events := { x.events with watchdog := false }, elapsed := false }

theorem Core.asked_req (x : Core) : bitOf x.asked.csr.preempt 0 = true := by
  have set : bitOf (setBit x.csr.preempt 0) 0 = true := by rw [bitOf_setBit _ (by decide)]; simp
  unfold Core.asked Core.drain
  split
  · exact (bitOf_setBit _ (by decide)).trans (by simp only [Core.withCsr, set, Bool.true_or])
  · exact set
/-- An idle core with empty queues. -/
def Core.atRest (x : Core) : Prop := x.task = false ∧ ∀ q ∈ x.queues.toList, q.entries = []
theorem Core.asked_atRest {x : Core} (h : x.atRest) : x.asked.atRest := by
  unfold Core.asked Core.drain
  split <;> exact h
/-- A request finds a core at rest DRAINED (R177). -/
theorem Core.asked_drained {x : Core} (h : x.atRest) : bitOf x.asked.csr.preempt 1 = true := by
  have set : bitOf (setBit x.csr.preempt 0) 0 = true := by rw [bitOf_setBit _ (by decide)]; simp
  have empty : x.queuesEmpty = true := by
    simp only [Core.queuesEmpty, List.all_eq_true, List.isEmpty_iff]
    exact h.2
  have drains : ((x.withCsr fun r => { r with preempt := setBit r.preempt 0 }).req &&
      !(x.withCsr fun r => { r with preempt := setBit r.preempt 0 }).task &&
      (x.withCsr fun r => { r with preempt := setBit r.preempt 0 }).queuesEmpty) = true := by
    simp only [Bool.and_eq_true, Bool.not_eq_true']
    exact ⟨⟨set, h.1⟩, empty⟩
  rw [Core.asked, Core.drain, if_pos drains]
  exact (bitOf_setBit _ (by decide)).trans (by simp)
theorem Core.unasked_req (x : Core) : bitOf x.unasked.csr.preempt 0 = false := by
  have clear : bitOf (clearBit x.csr.preempt 0) 0 = false := by rw [bitOf_clearBit _ (by decide)]; simp
  change bitOf (preemptValue x.csr.preempt (clearBit x.csr.preempt 0)) 0 = false
  unfold preemptValue
  split
  · simp only [bitOf, BitVec.getLsbD_and] at clear ⊢
    rw [clear, Bool.false_and]
  · exact clear

section
variable {s : State} {gang : List Nat} {c : Nat}

theorem State.askPreempt_mem (req : Bool) : (s.askPreempt gang req).mem = s.mem := by
  unfold State.askPreempt
  split
  · exact foldl_keeps (f := fun s c => s.modCore c Core.asked) (g := State.mem) (fun _ _ => rfl) _ _
  · split
    · rfl
    · exact foldl_keeps (f := fun s c => s.modCore c Core.unasked) (g := State.mem) (fun _ _ => rfl) _ _
theorem State.askPreempt_asks (mem : c ∈ gang) : bitOf ((s.askPreempt gang true).core c).csr.preempt 0 = true ∧
    ((s.core c).atRest → bitOf ((s.askPreempt gang true).core c).csr.preempt 1 = true) := by
  have asks : s.askPreempt gang true = gang.foldl (fun s c => s.modCore c Core.asked) s := rfl
  rw [asks]
  exact ⟨State.foldl_modCore_gains (f := Core.asked) (Q := fun _ => True) (P := fun x => bitOf x.csr.preempt 0 = true)
      (fun _ _ => trivial) (fun x _ => x.asked_req) gang s trivial (.inl mem),
    fun rest => State.foldl_modCore_gains (f := Core.asked) (Q := Core.atRest) (P := fun x => bitOf x.csr.preempt 1 = true)
      (fun _ => Core.asked_atRest) (fun _ => Core.asked_drained) gang s rest (.inl mem)⟩
theorem State.askPreempt_withdraws (mem : c ∈ gang) (none : ∀ d ∈ gang, bitOf (s.core d).csr.preempt 1 = false) :
    bitOf ((s.askPreempt gang false).core c).csr.preempt 0 = false := by
  have withdraws : s.askPreempt gang false = gang.foldl (fun s c => s.modCore c Core.unasked) s := by
    have open_ : (gang.any fun c => (s.core c).drained) = false := by simpa [Core.drained] using none
    simp only [State.askPreempt, open_, Bool.false_eq_true, if_false]
    rfl
  rw [withdraws]
  exact State.foldl_modCore_gains (f := Core.unasked) (Q := fun _ => True) (P := fun x => bitOf x.csr.preempt 0 = false)
    (fun _ _ => trivial) (fun x _ => x.unasked_req) gang s trivial (.inl mem)
theorem State.askPreempt_stays (drained : ∃ d ∈ gang, bitOf (s.core d).csr.preempt 1 = true) : s.askPreempt gang false = s := by
  have held : (gang.any fun c => (s.core c).drained) = true := List.any_eq_true.mpr drained
  simp only [State.askPreempt, held, Bool.false_eq_true, if_false, if_true]

end

section
variable {s : State} {p : Nat} {f : Fin 64} {v : Word}

theorem exec_fpreemptWrite_closed (h : s.takes p f.val = false) : exec (.fpreemptWrite p f v) s = .next s := by
  show execFpreemptWrite p f v s = _
  simp [execFpreemptWrite, h]
theorem exec_preqWrite_closed (h : s.takes p 0 = false) : exec (.preqWrite p f v) s = .next s := by
  show execPreqWrite p f v s = _
  simp [execPreqWrite, h]
/-- FPREEMPT and PREQ ask the same of the partition's cores (R386, R398). -/
theorem exec_preempt {i : Instr}
    (h : (i = .fpreemptWrite p f v ∧ s.takes p f.val = true) ∨ (i = .preqWrite p f v ∧ s.takes p 0 = true)) :
    exec i s = .next (s.askPreempt (s.members p (s.partOf p f.val)) (bitOf v 0)) := by
  rcases h with ⟨rfl, takes⟩ | ⟨rfl, takes⟩
  · show execFpreemptWrite p f v s = _
    simp [execFpreemptWrite, takes]
  · show execPreqWrite p f v s = _
    simp [execPreqWrite, takes]

end

/-! ## What a change of packages keeps -/

section
variable (s : State) (p f q : Nat) (g : Pkg → Pkg) (h : Func → Func)

@[simp] theorem State.modPkg_parts : (s.modPkg p g).parts = s.parts := by unfold State.modPkg; split <;> rfl
@[simp] theorem State.modPkg_hostOut : (s.modPkg p g).hostOut = s.hostOut := by unfold State.modPkg; split <;> rfl
@[simp] theorem State.modFunc_parts : (s.modFunc p f h).parts = s.parts := s.modPkg_parts p _
@[simp] theorem State.modFunc_hostOut : (s.modFunc p f h).hostOut = s.hostOut := s.modPkg_hostOut p _

theorem State.pkg_modPkg_ne (other : q ≠ p) : (s.modPkg p g).pkg q = s.pkg q := by
  unfold State.modPkg
  split
  · exact s.pkg_setPkg_ne p q _ other
  · rfl
/-- A package that works is in the state. -/
theorem State.isSome_of_up {s : State} {p : Nat} (h : s.up p = true) : (s.pkg? p).isSome = true := by
  unfold State.up at h
  cases e : s.pkg? p with
  | none => rw [e] at h; cases h
  | some x => rfl
theorem State.up_of_takes {s : State} {p f : Nat} (h : s.takes p f = true) : s.up p = true := (Bool.and_eq_true_iff.mp h).1

/-- A change of dies, pools, hamlets or wakes: memory, cores, partitions and the functions of every package stay. -/
structure State.inHardware (s t : State) : Prop where
  mem : t.mem = s.mem
  cores : t.cores = s.cores
  func : ∀ p, (t.pkg p).func = (s.pkg p).func

theorem State.inHardware.refl : s.inHardware s := ⟨rfl, rfl, fun _ => rfl⟩
variable {s} in
theorem State.inHardware.trans {t u : State} (h : s.inHardware t) (k : t.inHardware u) : s.inHardware u :=
  ⟨k.mem.trans h.mem, k.cores.trans h.cores, fun p => (k.func p).trans (h.func p)⟩
theorem State.inHardware.foldl {α : Type} {f : State → α → State} (h : ∀ (s : State) (a : α), s.inHardware (f s a)) (l : List α)
    (s : State) : s.inHardware (l.foldl f s) := by
  induction l generalizing s with
  | nil => exact .refl s
  | cons a r ih => exact (h s a).trans (ih _)
theorem State.inHardware_modPkg (k : ∀ x, (g x).func = x.func) : s.inHardware (s.modPkg p g) where
  mem := s.modPkg_mem p g
  cores := s.modPkg_cores p g
  func q := by
    by_cases same : q = p
    · subst same; exact s.modPkg_keeps q g Pkg.func k
    · rw [s.pkg_modPkg_ne p q g same]
theorem State.inHardware_modHamlet (n : Nat) (k : Hamlet → Hamlet) : s.inHardware (s.modHamlet p n k) :=
  s.inHardware_modPkg p _ fun _ => rfl
theorem State.inHardware_modDie (n : Nat) (k : Die → Die) : s.inHardware (s.modDie p n k) := s.inHardware_modPkg p _ fun _ => rfl
/-- The hamlets of the partition's cores are asked to wake (R414). -/
theorem State.inHardware_requestWake : s.inHardware (s.requestWake p f) := by
  refine State.inHardware.foldl (fun t q => ?_) _ s
  exact State.inHardware.foldl (fun u c => u.inHardware_modHamlet q _ _) _ t
theorem State.inHardware_placeFrame (e : PEntryTab) (k : Nat) : s.inHardware (s.placeFrame p f e k) := by
  unfold State.placeFrame
  dsimp only
  split
  · exact s.inHardware_modDie p _ _
  · split
    · exact s.inHardware_modDie p _ _
    · exact s.inHardware_modDie p _ _

end
/-! ## Submissions (R398) -/

section
variable {s : State} {p : Nat} {f : Fin 64} {v : Word}

theorem exec_fsub_closed (h : s.takes p f.val = false) : exec (.fsub p f v) s = .next s := by
  show execFsub p f v s = _
  simp [execFsub, h]

variable (takes : s.takes p f.val = true)
include takes

theorem exec_fsub_waits (room : ((s.pkg p).func f.val).subs.length < 16) : ∃ t, exec (.fsub p f v) s = .next t ∧
    ((t.pkg p).func f.val).subs = ((s.pkg p).func f.val).subs ++ [v] ∧ t.mem = s.mem := by
  have woken := (s.modFunc p f.val fun y => { y with subs := y.subs ++ [v] }).inHardware_requestWake p f.val
  refine ⟨(s.modFunc p f.val fun y => { y with subs := y.subs ++ [v] }).requestWake p f.val, ?_, ?_, ?_⟩
  · show execFsub p f v s = _
    simp [execFsub, takes, Nat.not_le.mpr room]
  · rw [woken.func, State.func_modFunc _ _ (State.isSome_of_up (State.up_of_takes takes))]
  · rw [woken.mem, State.modFunc_mem]
/-- The seventeenth submission is dropped, and OVF says so. -/
theorem exec_fsub_overflows (full : 16 ≤ ((s.pkg p).func f.val).subs.length) : ∃ t, exec (.fsub p f v) s = .next t ∧
    ((t.pkg p).func f.val).subs = ((s.pkg p).func f.val).subs ∧ ((t.pkg p).func f.val).ovf = true := by
  have func := State.func_modFunc f.val (fun y => { y with ovf := true }) (State.isSome_of_up (State.up_of_takes takes))
  have run : execFsub p f v s = .next (s.modFunc p f.val fun y => { y with ovf := true }) := by simp [execFsub, takes, full]
  exact ⟨_, run, by rw [func], by rw [func]⟩

end

/-! ## Held messages (R399, R406) -/

section
variable {s : State} {p : Nat} {f : Fin 64} {n : Fin 2048}

theorem exec_msixIntervalEnd_idle (h : (((s.pkg p).func f.val).vector n.val).holding = false ∨ s.up p = false) :
    exec (.msixIntervalEnd p f n) s = .next s := by
  show execMsixIntervalEnd p f n s = _
  rcases h with h | h <;> simp [execMsixIntervalEnd, h]

variable (up : s.up p = true)
include up

/-- The interval of a vector over (R399). -/
def State.heldNoMore (s : State) (p : Nat) (f : Fin 64) (n : Fin 2048) : State :=
  s.modFunc p f.val fun y => { y with msix := y.msix.put n.val { ((s.pkg p).func f.val).vector n.val with holding := false } }
theorem State.vector_heldNoMore : (((s.heldNoMore p f n).pkg p).func f.val).vector n.val =
    { ((s.pkg p).func f.val).vector n.val with holding := false } := by
  rw [State.heldNoMore, State.func_modFunc _ _ (State.isSome_of_up up), Func.vector, Tab.find_put_self]
  rfl
variable (holding : (((s.pkg p).func f.val).vector n.val).holding = true)
include holding

theorem exec_msixIntervalEnd_silent
    (silent : (((s.pkg p).func f.val).vector n.val).held = 0 ∨ ((s.pkg p).func f.val).tdi = .error) :
    exec (.msixIntervalEnd p f n) s = .next (s.heldNoMore p f n) := by
  show execMsixIntervalEnd p f n s = _
  rcases silent with h | h <;> simp [execMsixIntervalEnd, up, holding, h, State.heldNoMore]
theorem exec_msixIntervalEnd_sends (held : (((s.pkg p).func f.val).vector n.val).held ≠ 0) (tdi : ((s.pkg p).func f.val).tdi ≠ .error) :
    exec (.msixIntervalEnd p f n) s = .next ((s.heldNoMore p f n).emit p f.val n.val) := by
  show execMsixIntervalEnd p f n s = _
  simp [execMsixIntervalEnd, up, holding, held, tdi, State.heldNoMore]

end

/-- A message that no mask holds goes out, with none held behind it (R399). -/
theorem State.emit_unmasked {s : State} {p f v : Nat} (hp : (s.pkg? p).isSome = true)
    (open_ : (((s.pkg p).func f).vector v).masked = false) :
    (s.emit p f v).hostOut = s.hostOut ++
      [(p, (((s.pkg p).func f).vector v).addr, leBytes 4 (((s.pkg p).func f).vector v).data.toNat)] ∧
    ((((s.emit p f v).pkg p).func f).vector v).held = 0 := by
  have emits : s.emit p f v = { s.modFunc p f fun y => { y with msix := y.msix.put v { ((s.pkg p).func f).vector v with
      pending := false, held := 0, holding := ((s.pkg p).func f).coalInterval != 0 } } with
        hostOut := s.hostOut ++ [(p, (((s.pkg p).func f).vector v).addr, leBytes 4 (((s.pkg p).func f).vector v).data.toNat)] } := by
    simp [State.emit, open_]
  refine ⟨by rw [emits], ?_⟩
  have func := State.func_modFunc f (fun y => { y with msix := y.msix.put v { ((s.pkg p).func f).vector v with
      pending := false, held := 0, holding := ((s.pkg p).func f).coalInterval != 0 } }) hp
  rw [emits]
  refine (congrArg (fun y : Func => (y.vector v).held) func).trans ?_
  simp only [Func.vector, Tab.find_put_self]
  rfl

end Sys2Proof.Machine
end

section
/-! SUPPORT. Partition entries made VALID and invalid, and the reset of a function (R379, R386, R401). -/
namespace Sys2Proof.Machine

/-! ## An entry made VALID (R285, R386) -/

section
variable {s : State} {p : Nat} {f : Fin 64}

theorem exec_partitionEntryValid_stays (h : (s.entry p f.val).valid = true ∨ s.takes p 0 = false) :
    exec (.partitionEntryValid p f) s = .next s := by
  show execPartitionEntryValid p f s = _
  rcases h with h | h <;> simp [execPartitionEntryValid, h]

variable (takes : s.takes p 0 = true) (invalid : (s.entry p f.val).valid = false)
include takes invalid

/-- An entry that fails its checks stays as it is, with ERR set. -/
theorem exec_partitionEntryValid_fails (bad : (s.pkg p).entryOk f.val = false) : ∃ t, exec (.partitionEntryValid p f) s = .next t ∧
    t.mem = s.mem ∧ (t.entry p f.val).valid = false ∧ (t.entry p f.val).err = true := by
  have func := State.func_modFunc f.val (fun y => { y with part := { y.part with err := true } })
    (State.isSome_of_up (State.up_of_takes takes))
  refine ⟨s.modFunc p f.val fun y => { y with part := { y.part with err := true } }, ?_, State.modFunc_mem .., ?_, ?_⟩
  · show execPartitionEntryValid p f s = _
    simp [execPartitionEntryValid, takes, invalid, bad]
  · rw [State.entry, func]; exact invalid
  · rw [State.entry, func]

omit takes invalid in
/-- The partition's counters of a new partition, then VALID. -/
theorem State.entry_newPartition_valid (hp : (s.pkg? p).isSome = true) :
    (((s.newPartition p f.val).modFunc p f.val fun y => { y with part := { y.part with valid := true } }).entry p f.val).valid = true := by
  have same : (s.newPartition p f.val).pkgs = s.pkgs := by
    unfold State.newPartition
    dsimp only
    split <;> rfl
  have there : ((s.newPartition p f.val).pkg? p).isSome = true := by rw [State.pkg?, same]; exact hp
  rw [State.entry, State.func_modFunc _ _ there]
/-- An entry that passes its checks is VALID, its block-table store zero. -/
theorem exec_partitionEntryValid_passes (ok : (s.pkg p).entryOk f.val = true) : ∃ t, exec (.partitionEntryValid p f) s = .next t ∧
    (t.entry p f.val).valid = true ∧ ∀ i, i < 65536 * (s.entry p f.val).btblocks.toNat →
      t.readByte (key p ((s.entry p f.val).btbase.toNat % 2 ^ 44) + i) = 0 := by
  have valid := State.entry_newPartition_valid (f := f) (State.isSome_of_up (State.up_of_takes takes))
  have run : exec (.partitionEntryValid p f) s = .next (((upto (s.entry p f.val).poolframes.toNat).foldl
      (fun t k => t.placeFrame p f.val (s.entry p f.val) k)
      (if (s.entry p f.val).btblocks = 0 then
        (s.newPartition p f.val).modFunc p f.val fun y => { y with part := { y.part with valid := true } }
      else ((s.newPartition p f.val).modFunc p f.val fun y => { y with part := { y.part with valid := true } }).write
        (key p ((s.entry p f.val).btbase.toNat % nodeSize)) (zeros (65536 * (s.entry p f.val).btblocks.toNat)))).requestWake p f.val) := by
    show execPartitionEntryValid p f s = _
    simp [execPartitionEntryValid, takes, invalid, ok]
  have hardware (z : State) : z.inHardware (((upto (s.entry p f.val).poolframes.toNat).foldl
      (fun t k => t.placeFrame p f.val (s.entry p f.val) k) z).requestWake p f.val) :=
    (State.inHardware.foldl (fun t k => t.inHardware_placeFrame p f.val (s.entry p f.val) k) _ z).trans
      (State.inHardware_requestWake _ p f.val)
  refine ⟨_, run, ?_, fun i inside => ?_⟩
  · rw [State.entry, (hardware _).func]
    split
    · exact valid
    · exact valid
  · have some_ : (s.entry p f.val).btblocks ≠ 0 := by
      intro none
      rw [none] at inside
      exact absurd inside (Nat.not_lt_zero i)
    rw [State.readByte_congr (hardware _).mem (hardware _).cores, if_neg some_]
    exact State.readByte_write_zeros _ _ inside

end

/-! ## An entry made invalid (R180, R386) -/

section
variable {s : State} {p : Nat} {f : Fin 64}

theorem exec_partitionEntryInvalidate_stays (h : (s.entry p f.val).valid = false ∨ s.takes p 0 = false) :
    exec (.partitionEntryInvalidate p f) s = .next s := by
  show execPartitionEntryInvalidate p f s = _
  rcases h with h | h
  · simp [execPartitionEntryInvalidate, State.invalidate, h]
  · simp [execPartitionEntryInvalidate, h]

/-- The cores of the entry reset, and the launch of its partition gone. -/
def State.stopped (s : State) (p f : Nat) : State := (s.resetCores (entryCores p (s.entry p f))).endLaunch (s.partOf p f)
/-- The saves cut short, and the pool taken away. -/
def State.unpooled (s : State) (p f : Nat) : State :=
  ((s.stopped p f).cutSaves (s.partOf p f) (entryCores p (s.entry p f))).dropPool p (s.entry p f)
/-- The entry no longer VALID, its block table gone. -/
def State.entryGone (s : State) (p f : Nat) : State :=
  (s.modFunc p f fun y => { y with part := { y.part with valid := false } }).modPkg p fun x => { x with bt := x.bt.del f }
theorem State.invalidate_eq (valid : (s.entry p f.val).valid = true) : s.invalidate p f.val = (s.unpooled p f.val).entryGone p f.val := by
  simp only [State.invalidate, valid, Bool.not_true, Bool.false_eq_true, if_false]
  rfl

section
variable (u : State) (n : Nat)

@[simp] theorem State.entryGone_mem : (u.entryGone p n).mem = u.mem := by rw [State.entryGone, State.modPkg_mem, State.modFunc_mem]
@[simp] theorem State.entryGone_cores : (u.entryGone p n).cores = u.cores := by
  rw [State.entryGone, State.modPkg_cores, State.modFunc_cores]
@[simp] theorem State.entryGone_parts : (u.entryGone p n).parts = u.parts := by
  rw [State.entryGone, State.modPkg_parts, State.modFunc_parts]
theorem State.entryGone_invalid {u : State} (hp : (u.pkg? p).isSome = true) : ((u.entryGone p n).entry p n).valid = false := by
  have func : ((u.entryGone p n).pkg p).func n = _ := State.modPkg_keeps _ p _ (Pkg.func · n) fun _ => rfl
  rw [State.entry, func, State.func_modFunc _ _ hp]

end

variable (s p f)

/-- Saves that are cut short change slots, whether the launch of the partition has ended or not, and no core. -/
theorem State.cutSaves_keeps (k : Nat) (l : List Nat) : (s.cutSaves k l).cores = s.cores ∧ (s.cutSaves k l).pkgs = s.pkgs ∧
    ((s.cutSaves k l).part k).launch = (s.part k).launch := by
  have launch (t : State) (x : Nat × CtxSlot) : ((t.clearSlot k x.1 x.2).part k).launch = (t.part k).launch := by
    rw [State.clearSlot, State.modSlot, State.part_modPart]
    rfl
  exact ⟨foldl_keeps (f := fun (t : State) (x : Nat × CtxSlot) => t.clearSlot k x.1 x.2) (g := State.cores) (fun _ _ => rfl) _ _,
    foldl_keeps (f := fun (t : State) (x : Nat × CtxSlot) => t.clearSlot k x.1 x.2) (g := State.pkgs) (fun _ _ => rfl) _ _,
    foldl_keeps (f := fun (t : State) (x : Nat × CtxSlot) => t.clearSlot k x.1 x.2) (g := fun t => (t.part k).launch) launch _ _⟩
theorem State.cutSaves_none {k : Nat} (none : ∀ r l, (r, l) ∈ (s.part k).slots → l.state ≠ 1) (l : List Nat) :
    s.cutSaves k l = s := by
  have empty : ((s.part k).slots.filter fun x => x.2.state == 1 && l.contains x.2.home) = [] := by
    refine List.filter_eq_nil_iff.mpr fun x mem => ?_
    simp [none x.1 x.2 mem]
  rw [State.cutSaves, empty]
  rfl

end

theorem State.core_of_cores {s t : State} (h : t.cores = s.cores) (c : Nat) : t.core c = s.core c := by rw [State.core, State.core, h]
theorem State.part_of_parts {s t : State} (h : t.parts = s.parts) (k : Nat) : t.part k = s.part k := by rw [State.part, State.part, h]

/-- The launch of a partition ended, with its slots as they were. -/
theorem State.endLaunch_part (s : State) (k : Nat) :
    ((s.endLaunch k).part k).launch = none ∧ ((s.endLaunch k).part k).slots = (s.part k).slots := by
  rw [State.endLaunch, State.part_modPart]
  exact ⟨rfl, rfl⟩

section
variable {s : State} {p : Nat} {f : Nat}

theorem State.stopped_part : ((s.stopped p f).part (s.partOf p f)).launch = none ∧
    ((s.stopped p f).part (s.partOf p f)).slots = (s.part (s.partOf p f)).slots := by
  obtain ⟨-, parts, -⟩ := s.resetCores_keeps (entryCores p (s.entry p f))
  obtain ⟨launch, slots⟩ := (s.resetCores (entryCores p (s.entry p f))).endLaunch_part (s.partOf p f)
  exact ⟨launch, slots.trans (congrArg Part.slots (State.part_of_parts parts _))⟩
theorem State.unpooled_parts : (s.unpooled p f).parts = ((s.stopped p f).cutSaves (s.partOf p f) (entryCores p (s.entry p f))).parts := by
  rw [State.unpooled, State.dropPool, State.modPkg_parts]
theorem State.unpooled_launch : ((s.unpooled p f).part (s.partOf p f)).launch = none := by
  rw [State.part_of_parts State.unpooled_parts, (State.cutSaves_keeps ..).2.2, State.stopped_part.1]
/-- Where no save is under way, memory and the slots are as they were (entry 60). -/
theorem State.unpooled_noSave (none : ∀ r l, (r, l) ∈ (s.part (s.partOf p f)).slots → l.state ≠ 1) :
    (s.unpooled p f).mem = s.mem ∧ ((s.unpooled p f).part (s.partOf p f)).slots = (s.part (s.partOf p f)).slots := by
  have slots := (State.stopped_part (s := s) (p := p) (f := f)).2
  have stays := State.cutSaves_none (s.stopped p f) (slots.symm ▸ none) (entryCores p (s.entry p f))
  constructor
  · rw [State.unpooled, State.dropPool, State.modPkg_mem, stays, State.stopped, State.endLaunch, State.modPart_mem,
      (s.resetCores_keeps _).1]
  · rw [State.part_of_parts State.unpooled_parts, stays, slots]
theorem State.isSome_pkg?_unpooled (hp : (s.pkg? p).isSome = true) : ((s.unpooled p f).pkg? p).isSome = true := by
  rw [State.unpooled, State.dropPool, State.isSome_pkg?_modPkg, State.pkg?, (State.cutSaves_keeps ..).2.1, State.stopped,
    State.endLaunch, State.modPart_pkgs, (s.resetCores_keeps _).2.2]
  exact hp
/-- A core of an entry made invalid has been reset. -/
theorem State.core_unpooled {c : Nat} (mem : c ∈ entryCores p (s.entry p f)) :
    ((s.unpooled p f).core c).wasReset (s.core c).csr.cycle := by
  have cores : (s.unpooled p f).cores = (s.resetCores (entryCores p (s.entry p f))).cores := by
    rw [State.unpooled, State.dropPool, State.modPkg_cores, (State.cutSaves_keeps ..).1, State.stopped, State.endLaunch,
      State.modPart_cores]
  rw [State.core_of_cores cores]
  exact s.core_resetCores mem

end

theorem exec_partitionEntryInvalidate_resets {s : State} {p : Nat} {f : Fin 64} (takes : s.takes p 0 = true)
    (valid : (s.entry p f.val).valid = true) : ∃ t, exec (.partitionEntryInvalidate p f) s = .next t ∧
      (t.entry p f.val).valid = false ∧ (t.part (s.partOf p f.val)).launch = none ∧
      ((∀ r l, (r, l) ∈ (s.part (s.partOf p f.val)).slots → l.state ≠ 1) →
        t.mem = s.mem ∧ (t.part (s.partOf p f.val)).slots = (s.part (s.partOf p f.val)).slots) ∧
      ∀ c ∈ entryCores p (s.entry p f.val), (t.core c).wasReset (s.core c).csr.cycle := by
  have there := State.isSome_of_up (State.up_of_takes takes)
  have run : exec (.partitionEntryInvalidate p f) s = .next ((s.unpooled p f.val).entryGone p f.val) := by
    rw [← State.invalidate_eq valid]
    show execPartitionEntryInvalidate p f s = _
    simp [execPartitionEntryInvalidate, takes]
  have parts := State.entryGone_parts (p := p) (s.unpooled p f.val) f.val
  refine ⟨_, run, State.entryGone_invalid f.val (State.isSome_pkg?_unpooled there), ?launch, fun none => ⟨?mem, ?slots⟩,
    fun c core => ?core⟩
  case launch => rw [State.part_of_parts parts, State.unpooled_launch]
  case mem => rw [State.entryGone_mem, (State.unpooled_noSave none).1]
  case slots => rw [State.part_of_parts parts, (State.unpooled_noSave none).2]
  case core =>
    rw [State.core_of_cores (State.entryGone_cores (s.unpooled p f.val) f.val)]
    exact State.core_unpooled core

/-! ## The packages of a partition -/

theorem Tab.mem_of_find {α : Type} {t : Tab α} {k : Nat} {a : α} (h : t.find k = some a) : (k, a) ∈ t := by
  induction t with
  | nil => cases h
  | cons x r ih =>
    obtain ⟨j, b⟩ := x
    simp only [Tab.find] at h
    split at h
    case isTrue same =>
      cases h
      rw [same]
      exact List.mem_cons_self
    case isFalse => exact List.mem_cons_of_mem _ (ih h)
theorem mem_insertBy {w : Nat → Nat} {a b : Nat} {l : List Nat} : b ∈ insertBy w a l ↔ b = a ∨ b ∈ l := by
  induction l with
  | nil => simp [insertBy]
  | cons c r ih =>
    unfold insertBy
    split
    · exact List.mem_cons
    · rw [List.mem_cons, ih, List.mem_cons]
      exact or_left_comm
theorem mem_sortBy {w : Nat → Nat} {b : Nat} {l : List Nat} : b ∈ sortBy w l ↔ b ∈ l := by
  have inserted (acc : List Nat) : b ∈ l.foldl (fun acc a => insertBy w a acc) acc ↔ b ∈ acc ∨ b ∈ l := by
    induction l generalizing acc with
    | nil => simp
    | cons a r ih =>
      rw [List.foldl_cons, ih, mem_insertBy, List.mem_cons]
      constructor
      · rintro ((h | h) | h)
        · exact .inr (.inl h)
        · exact .inl h
        · exact .inr (.inr h)
      · rintro (h | h | h)
        · exact .inl (.inr h)
        · exact .inl (.inl h)
        · exact .inr h
  exact (inserted []).trans (or_iff_right List.not_mem_nil)
/-- A package that works is among those of the partition of a valid entry of it (R386). -/
theorem State.mem_partPkgs {s : State} {p : Nat} {f : Fin 64} (up : s.up p = true) (valid : (s.entry p f.val).valid = true) :
    p ∈ s.partPkgs (s.pkg p).domain (s.partOf p f.val) := by
  obtain ⟨x, found⟩ := Option.isSome_iff_exists.mp (State.isSome_of_up up)
  have is : s.pkg p = x := by rw [State.pkg, found, Option.getD_some]
  have func : s.partOf p f.val % 64 = f.val := by rw [State.partOf, partKey]; omega
  have on : x.on = true := by
    simp only [State.up, found, Bool.and_eq_true] at up
    exact up.1
  rw [State.partPkgs, mem_sortBy, List.mem_map]
  refine ⟨(p, x), List.mem_filter.mpr ⟨Tab.mem_of_find found, ?_⟩, rfl⟩
  have entry : (x.func f.val).part = s.entry p f.val := by rw [State.entry, is]
  have same : partKey x.domain (s.entry p f.val).tag f.val = s.partOf p f.val := by rw [State.partOf, is]
  simp only [func, entry, valid, on, is, same, beq_self_eq_true, Bool.and_self]

/-! ## The reset of a function (R379, R401, R406) -/

/-- The submissions of function `f` at some packages dropped. -/
def State.dropSubs (s : State) (f : Nat) (l : List Nat) : State := l.foldl (fun s q => s.modFunc q f fun y => { y with subs := [] }) s

section
variable (s : State) (p f : Nat) (l : List Nat)

theorem State.dropSubs_keeps : (s.dropSubs f l).mem = s.mem ∧ (s.dropSubs f l).parts = s.parts ∧ (s.dropSubs f l).cores = s.cores := by
  have keeps {α : Type} (g : State → α) (same : ∀ (t : State) q, g (t.modFunc q f fun y => { y with subs := [] }) = g t) :
      g (s.dropSubs f l) = g s := foldl_keeps same l s
  exact ⟨keeps State.mem fun _ _ => State.modFunc_mem .., keeps State.parts fun _ _ => State.modFunc_parts ..,
    keeps State.cores fun _ _ => State.modFunc_cores ..⟩
theorem State.isSome_pkg?_dropSubs : ((s.dropSubs f l).pkg? p).isSome = (s.pkg? p).isSome :=
  foldl_keeps (g := fun t : State => (t.pkg? p).isSome) (fun _ _ => State.isSome_pkg?_modFunc ..) l s
variable {s p l}
/-- The function of a package among them has none left; nothing else of it changes. -/
theorem State.func_dropSubs (hp : (s.pkg? p).isSome = true) (due : p ∈ l ∨ ((s.pkg p).func f).subs = []) :
    ((s.dropSubs f l).pkg p).func f = { (s.pkg p).func f with subs := [] } := by
  induction l generalizing s with
  | nil =>
    have none := due.resolve_left List.not_mem_nil
    exact congrArg (fun left => { (s.pkg p).func f with subs := left }) none
  | cons d r ih =>
    have there : ((s.modFunc d f fun y => { y with subs := [] }).pkg? p).isSome = true := by rw [State.isSome_pkg?_modFunc]; exact hp
    by_cases same : p = d
    case pos =>
      subst same
      have func := State.func_modFunc f (fun y => { y with subs := [] }) hp
      refine (ih there (.inr (congrArg Func.subs func))).trans ?_
      rw [func]
    case neg =>
      have func : ((s.modFunc d f fun y => { y with subs := [] }).pkg p).func f = (s.pkg p).func f :=
        congrArg (Pkg.func · f) (s.pkg_modPkg_ne d p _ same)
      refine (ih there ?_).trans (by rw [func])
      rw [func]
      exact due.imp_left fun mem => (List.mem_cons.mp mem).resolve_left same

end

/-- What is left of a function's partition, before a locked interface enters ERROR (R401). -/
def State.emptied (s : State) (p f : Nat) : State :=
  let k := s.partOf p f
  if (s.entry p f).valid then
    (((s.resetCores (s.members p k)).endLaunch k).emptySlots k).dropSubs f (s.partPkgs (s.pkg p).domain k)
  else (if (s.partPkgs (s.pkg p).domain k).isEmpty then s.emptySlots k else s).dropSubs f [p]

section
variable {s : State} {p : Nat} {f : Fin 64}

theorem exec_functionLevelReset_down (down : s.up p = false) : exec (.functionLevelReset p f) s = .next s := by
  show execFunctionLevelReset p f s = _
  simp [execFunctionLevelReset, down]
theorem exec_functionLevelReset_resets (up : s.up p = true) (virtual : f.val ≠ 0)
    (idle : (s.part (s.partOf p f.val)).launch = none) :
    exec (.functionLevelReset p f) s = .next ((s.emptied p f.val).tdiError p f.val) := by
  have free : ((upto 64).any fun i => (f.val == 0 || i == f.val) && s.resetHeld p i) = false := by
    refine List.any_eq_false.mpr fun i _ => ?_
    have held : s.resetHeld p f.val = false := by simp only [State.resetHeld, idle]
    by_cases same : i = f.val
    · simp [same, held]
    · simp [same, virtual]
  have resets : s.resetFunc p f.val = (s.emptied p f.val).tdiError p f.val := by
    unfold State.resetFunc State.emptied
    cases valid : (s.entry p f.val).valid with
    | true =>
      simp only [idle, if_true]
      rfl
    | false =>
      simp only [Bool.false_eq_true, if_false]
      rfl
  show execFunctionLevelReset p f s = _
  simp only [execFunctionLevelReset, up, free, virtual, ne_eq, not_false_eq_true, Bool.not_true, Bool.or_self, Bool.false_eq_true, if_false,
    if_true, resets]

end

section
variable (s : State) (k : Nat)

/-- The slots of a partition emptied: only memory at slots that are in use changes beside the partition (R377, R379). -/
theorem State.emptySlots_keeps : (s.emptySlots k).cores = s.cores ∧ (s.emptySlots k).pkgs = s.pkgs ∧
    ((s.emptySlots k).part k).slots = [] := by
  have cores (t : State) (l : Nat × CtxSlot) : (if l.2.state = 0 then t else t.writeNat l.2.at_ 8 0).cores = t.cores := by split <;> rfl
  have pkgs (t : State) (l : Nat × CtxSlot) : (if l.2.state = 0 then t else t.writeNat l.2.at_ 8 0).pkgs = t.pkgs := by split <;> rfl
  rw [State.emptySlots, State.part_modPart]
  exact ⟨foldl_keeps cores _ _, foldl_keeps pkgs _ _, rfl⟩
variable {s k} in
theorem State.emptySlots_mem (none : (s.part k).slots = []) : (s.emptySlots k).mem = s.mem := by
  rw [State.emptySlots, none]
  rfl

variable (p f : Nat)

/-- A locked function in ERROR stops its partition's cores, and leaves memory, the partition and what a core was doing. -/
theorem State.tdiError_keeps : (s.tdiError p f).mem = s.mem ∧ (s.tdiError p f).parts = s.parts ∧
    ∀ c, ((s.tdiError p f).core c).task = (s.core c).task ∧ ((s.tdiError p f).core c).ctl = (s.core c).ctl := by
  unfold State.tdiError
  split
  case isFalse => exact ⟨rfl, rfl, fun _ => ⟨rfl, rfl⟩⟩
  case isTrue =>
    have doing (c : Nat) : (((s.stopPartition (s.members p (s.partOf p f))).core c).task,
        ((s.stopPartition (s.members p (s.partOf p f))).core c).ctl) = ((s.core c).task, (s.core c).ctl) :=
      foldl_keeps (f := fun s c => s.modCore c fun x => { x with mode := .stopped }) (g := fun t => ((t.core c).task, (t.core c).ctl))
        (fun t d => t.core_modCore_keeps (g := fun x => (x.task, x.ctl)) (f := fun x => { x with mode := .stopped }) (fun _ => rfl) d c) _ s
    refine ⟨?_, ?_, fun c => ?_⟩
    · rw [State.modFunc_mem]
      exact foldl_keeps (f := fun s c => s.modCore c fun x => { x with mode := .stopped }) (g := State.mem) (fun _ _ => rfl) _ s
    · rw [State.modFunc_parts]
      exact foldl_keeps (f := fun s c => s.modCore c fun x => { x with mode := .stopped }) (g := State.parts) (fun _ _ => rfl) _ s
    · rw [State.core_of_cores (State.modFunc_cores ..)]
      exact Prod.mk.inj (doing c)

end

section
variable {s : State} {p : Nat} {f : Fin 64} (up : s.up p = true)

theorem State.emptied_mem (none : (s.part (s.partOf p f.val)).slots = []) : (s.emptied p f.val).mem = s.mem := by
  unfold State.emptied
  dsimp only
  split
  case isTrue =>
    have slots : (((s.resetCores (s.members p (s.partOf p f.val))).endLaunch (s.partOf p f.val)).part (s.partOf p f.val)).slots = [] := by
      rw [(State.endLaunch_part ..).2, State.part_of_parts (s.resetCores_keeps _).2.1, none]
    rw [(State.dropSubs_keeps ..).1, State.emptySlots_mem slots, State.endLaunch, State.modPart_mem, (s.resetCores_keeps _).1]
  case isFalse =>
    rw [(State.dropSubs_keeps ..).1]
    split
    · exact State.emptySlots_mem none
    · rfl
theorem State.emptied_slots (valid : (s.entry p f.val).valid = true) : ((s.emptied p f.val).part (s.partOf p f.val)).slots = [] := by
  rw [State.emptied, if_pos valid, State.part_of_parts (State.dropSubs_keeps ..).2.1, (State.emptySlots_keeps ..).2.2]
theorem State.core_emptied (valid : (s.entry p f.val).valid = true) {c : Nat} (mem : c ∈ s.members p (s.partOf p f.val)) :
    ((s.emptied p f.val).core c).wasReset (s.core c).csr.cycle := by
  have cores : (s.emptied p f.val).cores = (s.resetCores (s.members p (s.partOf p f.val))).cores := by
    rw [State.emptied, if_pos valid, (State.dropSubs_keeps ..).2.2, (State.emptySlots_keeps ..).1, State.endLaunch, State.modPart_cores]
  rw [State.core_of_cores cores]
  exact s.core_resetCores mem
include up in
theorem State.func_emptied : ((s.emptied p f.val).pkg p).func f.val = { (s.pkg p).func f.val with subs := [] } ∧
    ((s.emptied p f.val).pkg? p).isSome = true := by
  have there := State.isSome_of_up up
  -- the submissions of the package are dropped in a state with the packages as they were
  have dropped (u : State) (l : List Nat) (pkgs : u.pkgs = s.pkgs) (mem : p ∈ l) :
      ((u.dropSubs f.val l).pkg p).func f.val = { (s.pkg p).func f.val with subs := [] } ∧
        ((u.dropSubs f.val l).pkg? p).isSome = true := by
    have there' : (u.pkg? p).isSome = true := by rw [State.pkg?, pkgs]; exact there
    rw [State.func_dropSubs f.val there' (.inl mem), State.isSome_pkg?_dropSubs, State.pkg_congr pkgs]
    exact ⟨rfl, there'⟩
  unfold State.emptied
  dsimp only
  split
  case isTrue valid =>
    refine dropped _ _ ?_ (State.mem_partPkgs up valid)
    rw [(State.emptySlots_keeps ..).2.1, State.endLaunch, State.modPart_pkgs, (s.resetCores_keeps _).2.2]
  case isFalse =>
    refine dropped _ _ ?_ List.mem_cons_self
    split
    · exact (State.emptySlots_keeps ..).2.1
    · rfl

end

theorem exec_functionLevelReset_leaves {s : State} {p : Nat} {f : Fin 64} (up : s.up p = true) (virtual : f.val ≠ 0)
    (idle : (s.part (s.partOf p f.val)).launch = none) : ∃ t, exec (.functionLevelReset p f) s = .next t ∧
      ((s.part (s.partOf p f.val)).slots = [] → t.mem = s.mem) ∧
      ((s.entry p f.val).valid = true → (t.part (s.partOf p f.val)).slots = []) ∧
      (t.entry p f.val).valid = (s.entry p f.val).valid ∧ ((t.pkg p).func f.val).subs = [] ∧
      ((t.pkg p).func f.val).tdi = (if ((s.pkg p).func f.val).locked then .error else ((s.pkg p).func f.val).tdi) ∧
      ((s.entry p f.val).valid = true →
        ∀ c ∈ s.members p (s.partOf p f.val), (t.core c).task = false ∧ (t.core c).ctl.running = false) := by
  obtain ⟨func, there⟩ := State.func_emptied (f := f) up
  obtain ⟨mem, parts, doing⟩ := (s.emptied p f.val).tdiError_keeps p f.val
  have left := State.func_tdiError there f.val
  rw [func] at left
  have locked : ({ (s.pkg p).func f.val with subs := [] } : Func).locked = ((s.pkg p).func f.val).locked := rfl
  refine ⟨_, exec_functionLevelReset_resets up virtual idle, fun none => mem.trans (State.emptied_mem none), fun valid => ?_, ?_, ?_, ?_,
    fun valid c member => ?_⟩
  · rw [State.part_of_parts parts, State.emptied_slots valid]
  · rw [State.entry, left]
    split <;> rfl
  · rw [left]
    split <;> rfl
  · rw [left, locked]
    split <;> rfl
  · obtain ⟨task, running, -, -⟩ := State.core_emptied valid member
    rw [(doing c).1, (doing c).2]
    exact ⟨task, running⟩

/-- Settles O45: each clause is the outcome that the lemma about its instruction names. -/
theorem partitionsAndFunctions : Obligations.PartitionsAndFunctions := by
  unfold Obligations.PartitionsAndFunctions
  intro s p f v k gang x
  refine ⟨fun i asks => ⟨fun req => ?ask, fun req => ?withdraw⟩,
    fun closed => ⟨exec_fpreemptWrite_closed closed, exec_fsub_closed closed⟩,
    fun closed => ⟨exec_preqWrite_closed closed, exec_partitionEntryValid_stays (.inr closed),
      exec_partitionEntryInvalidate_stays (.inr closed)⟩,
    fun takes => ⟨exec_fsub_waits takes, exec_fsub_overflows takes⟩, fun n => ⟨exec_msixIntervalEnd_idle, ?silent, ?sends⟩,
    fun valid => exec_partitionEntryValid_stays (.inl valid), exec_partitionEntryValid_fails, exec_partitionEntryValid_passes,
    fun invalid => exec_partitionEntryInvalidate_stays (.inl invalid), ?invalidate, exec_functionLevelReset_down,
    exec_functionLevelReset_leaves⟩
  case ask =>
    refine ⟨_, exec_preempt asks, State.askPreempt_mem _, fun c member => ?_⟩
    rw [show bitOf v 0 = true from req]
    exact ⟨(State.askPreempt_asks member).1, fun task queues => (State.askPreempt_asks member).2 ⟨task, queues⟩⟩
  case withdraw =>
    refine ⟨_, exec_preempt asks, State.askPreempt_mem _, fun c member => ?_⟩
    rw [show bitOf v 0 = false from req]
    exact ⟨State.askPreempt_withdraws member, fun drained => by rw [State.askPreempt_stays drained]⟩
  case silent =>
    intro up holding silent
    refine ⟨_, exec_msixIntervalEnd_silent up holding silent, State.modFunc_hostOut .., ?_⟩
    rw [State.vector_heldNoMore up]
  case sends =>
    intro up holding held tdi unmasked
    have vector := State.vector_heldNoMore (f := f) (n := n) up
    have there : ((s.heldNoMore p f n).pkg? p).isSome = true := (State.isSome_pkg?_modFunc ..).trans (State.isSome_of_up up)
    obtain ⟨out, empty⟩ := State.emit_unmasked (s := s.heldNoMore p f n) (f := f.val) (v := n.val) there
      (by rw [vector]; exact unmasked)
    rw [vector] at out
    exact ⟨_, exec_msixIntervalEnd_sends up holding held tdi, out.trans (congrArg (· ++ _) (State.modFunc_hostOut ..)), empty⟩
  case invalidate =>
    intro takes valid
    obtain ⟨t, run, invalid, launch, saves, reset⟩ := exec_partitionEntryInvalidate_resets takes valid
    exact ⟨t, run, invalid, launch, saves, fun c core =>
      ⟨(reset c core).task, (reset c core).running, (reset c core).cycle, (reset c core).queues⟩⟩

end Sys2Proof.Machine
end
